-- ==== Sys2Proof/Word.lean ====
section
/-! DEFINITION. Word.lean: the plain data types every other file builds on: bytes, the indices of
the things the Fenthal 7620 has a fixed number of, and the two fixed-size containers. -/

namespace Sys2Proof

/-- One byte of the host link or of a head link (R183). -/
abbrev Byte := BitVec 8

/-- A two-byte field of a frame (R183). -/
abbrev U16 := BitVec 16

/-- A head port and its head, 0 to 3 (chapter 4). -/
abbrev PortId := Fin 4

/-- A slot of the program library, 0 to 3 (R1). -/
abbrev SlotId := Fin 4

/-- A segment of the defect log, 0 to 3 (R156). -/
abbrev SegId := Fin 4

/-- A panel context, 0 or 1 (R28). -/
abbrev CtxId := Fin 2

/-- Four things of one kind: slots, ports, segments. -/
structure Quad (α : Type) where
  q0 : α
  q1 : α
  q2 : α
  q3 : α
deriving DecidableEq, Repr

/-- Two things of one kind: panel contexts, tile pools. -/
structure Pair (α : Type) where
  p0 : α
  p1 : α
deriving DecidableEq, Repr

/-- Three things of one kind: the fiducials F1, F2, F3 (R8). -/
structure Triple (α : Type) where
  t0 : α
  t1 : α
  t2 : α
deriving DecidableEq, Repr

/-- All four alike. -/
def Quad.all {α : Type} (a : α) : Quad α := ⟨a, a, a, a⟩

/-- The member at an index. -/
def Quad.get {α : Type} (q : Quad α) : Fin 4 → α
  | 0 => q.q0
  | 1 => q.q1
  | 2 => q.q2
  | 3 => q.q3

/-- The four with the member at an index replaced. -/
def Quad.set {α : Type} (q : Quad α) (i : Fin 4) (a : α) : Quad α :=
  match i with
  | 0 => { q with q0 := a }
  | 1 => { q with q1 := a }
  | 2 => { q with q2 := a }
  | 3 => { q with q3 := a }

/-- A function of index and member applied to all four. -/
def Quad.mapIdx {α β : Type} (f : Fin 4 → α → β) (q : Quad α) : Quad β :=
  ⟨f 0 q.q0, f 1 q.q1, f 2 q.q2, f 3 q.q3⟩

/-- The four members in index order. -/
def Quad.toList {α : Type} (q : Quad α) : List α := [q.q0, q.q1, q.q2, q.q3]

/-- Both alike. -/
def Pair.all {α : Type} (a : α) : Pair α := ⟨a, a⟩

/-- The member at an index. -/
def Pair.get {α : Type} (q : Pair α) : Fin 2 → α
  | 0 => q.p0
  | 1 => q.p1

/-- The two with the member at an index replaced. -/
def Pair.set {α : Type} (q : Pair α) (i : Fin 2) (a : α) : Pair α :=
  match i with
  | 0 => { q with p0 := a }
  | 1 => { q with p1 := a }

/-- A function applied to both. -/
def Pair.map {α β : Type} (f : α → β) (q : Pair α) : Pair β := ⟨f q.p0, f q.p1⟩

/-- The member at an index. -/
def Triple.get {α : Type} (q : Triple α) : Fin 3 → α
  | 0 => q.t0
  | 1 => q.t1
  | 2 => q.t2

/-- The three with the member at an index replaced. -/
def Triple.set {α : Type} (q : Triple α) (i : Fin 3) (a : α) : Triple α :=
  match i with
  | 0 => { q with t0 := a }
  | 1 => { q with t1 := a }
  | 2 => { q with t2 := a }

/-- The four port numbers in ascending order. -/
def portIds : List PortId := [0, 1, 2, 3]

end Sys2Proof
end

