-- ==== Sys2Proof/Config.lean ====
section
/-! DEFINITION. Config.lean: the capacities the manual fixes (the capacity table of 00_scope.md and
the rules named beside each) and the one value the manual leaves without a code. -/

namespace Sys2Proof.Config

/-- The greatest value of every 32-bit counter, at which it stops (R42, R80, R103, R122, R136). -/
def counterMax : Nat := 4294967295

/-- Accumulators in the pool (R83). -/
def accumulators : Nat := 1024

/-- Records in one segment of the defect log (R156). -/
def segmentSize : Nat := 1024

/-- Places of the notice queue (R173). -/
def noticeQueueSize : Nat := 16

/-- Places of the refusal list (R168). -/
def refusalListSize : Nat := 4

/-- Places of the entry queue (R26). -/
def entryQueueSize : Nat := 4

/-- Waiting places of the repeat request list (R143). -/
def repeatListSize : Nat := 4

/-- Greatest decoded frame, kind to CRC (R165). -/
def frameMax : Nat := 1030

/-- Greatest body of a host frame (R164). -/
def bodyMax : Nat := 1024

/-- Greatest number of joints of one panel (R4). -/
def jointsMax : Nat := 65536

/-- Greatest nominal concurrency estimate that passes validation (R14). -/
def concurrencyMax : Nat := 896

/-- Low time of STOP, in ms, that qualifies its next rise (R24). -/
def stopLowMin : Nat := 10

/-- FREE VALUE. The byte that stands for a segment state (0 FREE, 1 FILLING, 2 READY of R156's table
as the argument) in the reply to RELEASE_SEGMENT. R161 reports the state and R183 makes it one byte,
but the code table of R184 gives no codes for it (assumption log 18). -/
opaque segmentStateCode : Nat → Byte

end Sys2Proof.Config
end

