-- ==== Sys2Proof/Syntax.lean ====
section
/-! DEFINITION. Syntax.lean: the commands and events of the 7620, one constructor per row of
spec/opcode_table.json, with the operands each carries.

Requests of the line computer carry the tag byte of their frame and the fields of their body (R186).
Frames from a head carry the port, whether the end marker was the good one, and the data bytes before
the marker (R189). Timer expiries name the port or the context whose timer it is. -/

namespace Sys2Proof

/-- One command or event. -/
inductive Instr where
  /-- COLD_RESET (R42): power-on or the reset pin. -/
  | coldReset
  /-- HOST_FRAME_RECEIVED (R166): a frame closed by its delimiter, as its decoded bytes from the kind
  to the last CRC byte. -/
  | hostFrameReceived (decoded : List Byte)
  /-- HELD_FRAME_TAKEN (R168). -/
  | heldFrameTaken
  /-- TRANSMIT_COMPLETE (R169): the closing delimiter of the frame being sent has gone. -/
  | transmitComplete
  /-- IDENTIFY (R176). -/
  | identify (tag : Byte)
  /-- CONFIGURE_STATION (R21): the 38-byte station configuration record of R187. -/
  | configureStation (tag : Byte) (record : List Byte)
  /-- SET_MODE (R23). -/
  | setMode (tag mode : Byte)
  /-- PROGRAM_BEGIN (R9): the 37-byte program header of R187. -/
  | programBegin (tag slot : Byte) (header : List Byte)
  /-- PROGRAM_DATA (R10): the records' bytes, one after another, as R187 lays them out. -/
  | programData (tag slot sect : Byte) (first : U16) (count : Byte) (records : List Byte)
  /-- PROGRAM_END (R11). -/
  | programEnd (tag slot : Byte)
  /-- VALIDATION_COMPLETE (R15). -/
  | validationComplete
  /-- PROGRAM_ERASE (R16). -/
  | programErase (tag slot : Byte)
  /-- PROGRAM_STATUS (R17). -/
  | programStatus (tag slot : Byte)
  /-- QUEUE_PANEL (R26): the 38-byte entry descriptor of R187. -/
  | queuePanel (tag : Byte) (descriptor : List Byte)
  /-- CANCEL_QUEUE (R27). -/
  | cancelQueue (tag : Byte)
  /-- PANEL_STATUS (R177). -/
  | panelStatus (tag context : Byte)
  /-- READ_VERDICTS (R178). -/
  | readVerdicts (tag context : Byte) (first count : U16)
  /-- READ_LOG (R160). -/
  | readLog (tag segment : Byte) (first : U16) (count : Byte)
  /-- RELEASE_SEGMENT (R161): the segment set as a mask. -/
  | releaseSegment (tag segments : Byte)
  /-- READ_DRIFT (R142). -/
  | readDrift (tag slot first count : Byte)
  /-- RESET_DRIFT (R141). -/
  | resetDrift (tag slot first last : Byte)
  /-- READ_REPEAT (R147). -/
  | readRepeat (tag slot : Byte) (first count : U16)
  /-- CLEAR_REPEAT (R146). -/
  | clearRepeat (tag slot : Byte)
  /-- READ_OVEN_CODES (R151). -/
  | readOvenCodes (tag : Byte)
  /-- SET_NOTICE_MASK (R175): the set of kinds to be masked, as a mask. -/
  | setNoticeMask (tag kinds : Byte)
  /-- CLEAR_STOP (R38). -/
  | clearStop (tag : Byte)
  /-- CLEAR_FAULT (R39). -/
  | clearFault (tag : Byte)
  /-- RESET_STATION (R181). -/
  | resetStation (tag : Byte)
  /-- STATION_RESET_COMPLETE (R181): the last block has completed its part. -/
  | stationResetComplete
  /-- READ_COUNTERS (R179). -/
  | readCounters (tag : Byte)
  /-- CLEAR_COUNTERS (R180). -/
  | clearCounters (tag : Byte)
  /-- MEASURE_OCC_RISE (R30, R33). -/
  | measureOccRise
  /-- MEASURE_OCC_FALL (R34, R40). -/
  | measureOccFall
  /-- EXIT_OCC_RISE (R34, R33). -/
  | exitOccRise
  /-- EXIT_OCC_FALL (R35, R40). -/
  | exitOccFall
  /-- DOWNSTREAM_READY_RISE (R35). -/
  | downstreamReadyRise
  /-- STOP_FALL (R24). -/
  | stopFall
  /-- STOP_RISE (R24). -/
  | stopRise
  /-- EXIT_TIMER_EXPIRY (R36). -/
  | exitTimerExpiry
  /-- TAKT_DEADLINE_EXPIRY (R127) of the context named. -/
  | taktDeadlineExpiry (ctx : CtxId)
  /-- LOCATE_RESULT (R46): a frame from a head. -/
  | locateResult (port : PortId) (good : Bool) (body : List Byte)
  /-- LOCATE_TIMER_EXPIRY (R49). -/
  | locateTimerExpiry (port : PortId)
  /-- ARMING_COMPLETE (R92). -/
  | armingComplete
  /-- HEAD_READY (R64, R66): a frame from a head. -/
  | headReady (port : PortId) (good : Bool) (body : List Byte)
  /-- QUERY_TIMER_EXPIRY (R64). -/
  | queryTimerExpiry (port : PortId)
  /-- START_TIMER_EXPIRY (R67). -/
  | startTimerExpiry (port : PortId)
  /-- TILE_HEADER (R69): the fifth body byte of a TILE frame has arrived; the operands are the fields of
  its header (R190). -/
  | tileHeader (port : PortId) (seq : Byte) (rowBlock column : U16)
  /-- TILE (R70): the end marker of a TILE frame, with the data bytes received after the header (all
  its data bytes when the header did not arrive complete). -/
  | tile (port : PortId) (good : Bool) (data : List Byte)
  /-- TILE_LOST (R71): a frame from a head. -/
  | tileLost (port : PortId) (good : Bool) (body : List Byte)
  /-- SCAN_END (R76): a frame from a head. -/
  | scanEnd (port : PortId) (good : Bool) (body : List Byte)
  /-- HEAD_UNKNOWN_FRAME (R63): a frame of a kind no head sends. -/
  | headUnknownFrame (port : PortId)
  /-- TILE_TIMER_EXPIRY (R77). -/
  | tileTimerExpiry (port : PortId)
  /-- INTAKE_COMPLETE (R94). -/
  | intakeComplete
  /-- EVALUATION_COMPLETE (R107, R108). -/
  | evaluationComplete
  /-- REPEAT_SITE_UPDATE (R145). -/
  | repeatSiteUpdate
  /-- OVEN_RECOGNITION (R149): the oven lines hold a code until its run is four samples long. -/
  | ovenRecognition (code : BitVec 4)
  /-- OVEN_SAMPLE (R148): one millisecond passes and OVEN[3:0] is sampled; ready says whether
  DOWNSTREAM_READY has kept its level in that millisecond (assumption log 5). -/
  | ovenSample (code : BitVec 4) (ready : Bool)
  /-- HOST_BYTE_RECEIVED (R165): a byte of the host link, and whether its stop bit was present. -/
  | hostByteReceived (byte : Byte) (stopBit : Bool)
  /-- ARMING_JOINT_VISIT (R87). -/
  | armingJointVisit
deriving DecidableEq, Repr

end Sys2Proof
end

