-- ==== Sys2Proof/WellFormed.lean ====
section
/-! DEFINITION. WellFormed.lean: which commands have the form that R164, R186, R187 and R189 give
them. The machine answers an ill-formed command too (as the rules answer a body of the wrong length);
the check only says which commands a correct sender forms. -/

namespace Sys2Proof

/-- The command's operands have the lengths their frames fix. -/
def Instr.wf : Instr → Bool
  | .hostFrameReceived decoded => decide (1 ≤ decoded.length) && decide (decoded.length ≤ Config.frameMax)
  | .configureStation _ record => decide (record.length = 38)
  | .programBegin _ _ header => decide (header.length = 37)
  | .programData _ _ _ _ _ records => decide (19 ≤ records.length) && decide (records.length ≤ 1019)
  | .queuePanel _ descriptor => decide (descriptor.length = 38)
  | .locateResult _ _ body => decide (body.length = 15)
  | .headReady _ _ body => decide (body.length = 2)
  | .tile _ _ data => decide (data.length = 512)
  | .tileLost _ _ body => decide (body.length = 4)
  | .scanEnd _ _ body => decide (body.length = 4)
  | .coldReset | .heldFrameTaken | .transmitComplete | .identify _ | .setMode _ _
  | .programEnd _ _ | .validationComplete | .programErase _ _ | .programStatus _ _ | .cancelQueue _
  | .panelStatus _ _ | .readVerdicts _ _ _ _ | .readLog _ _ _ _ | .releaseSegment _ _
  | .readDrift _ _ _ _ | .resetDrift _ _ _ _ | .readRepeat _ _ _ _ | .clearRepeat _ _
  | .readOvenCodes _ | .setNoticeMask _ _ | .clearStop _ | .clearFault _ | .resetStation _
  | .stationResetComplete | .readCounters _ | .clearCounters _ | .measureOccRise | .measureOccFall
  | .exitOccRise | .exitOccFall | .downstreamReadyRise | .stopFall | .stopRise | .exitTimerExpiry
  | .taktDeadlineExpiry _ | .locateTimerExpiry _ | .armingComplete | .queryTimerExpiry _
  | .startTimerExpiry _ | .tileHeader _ _ _ _ | .headUnknownFrame _ | .tileTimerExpiry _
  | .intakeComplete | .evaluationComplete | .repeatSiteUpdate | .ovenRecognition _
  | .ovenSample _ _ | .hostByteReceived _ _ | .armingJointVisit => true

end Sys2Proof
end

