-- ==== Sys2Proof/Machine/State.lean ====
section
/-! DEFINITION. State.lean: everything the manual says the 7620 holds, block by block, as plain data,
and the state right after a cold reset (R19, R42, R43, R81, R82, R123, R124, R153, R156, R173, R182). -/

namespace Sys2Proof.Machine

/-! ### Named values -/

/-- Station states (R22). -/
inductive StationState where
  | offline | idle | running | draining | stopped | fault
deriving DecidableEq, Repr

/-- Causes of a STATION_STATE notice (R22). -/
inductive StationCause where
  | configured | run | drain | drained | stopInput | exitJam | cleared
deriving DecidableEq, Repr

/-- Slot states (R1). -/
inductive SlotState where
  | empty | loading | validating | valid
deriving DecidableEq, Repr

/-- Context states (R28). -/
inductive CtxState where
  | free | aligning | arming | scanning | judging | decided | releasing
deriving DecidableEq, Repr

/-- Positions of a context's board (R28); nowhere is the manual's NONE. -/
inductive Position where
  | nowhere | measure | exit
deriving DecidableEq, Repr

/-- Verdicts (R109); openJoint is the manual's OPEN. -/
inductive Verdict where
  | unset | pass | bridge | openJoint | low | high | shift | unmeasured | skipped
deriving DecidableEq, Repr

/-- Causes of UNMEASURED and SKIPPED (R109). -/
inductive Cause where
  | lowCoverage | noReference | noAccumulator | outOfField | notAligned | late | aborted
  | badMark | excluded | outOfRegion
deriving DecidableEq, Repr

/-- The flag set of a verdict entry (R109, R118); openJoint is the manual's OPEN. -/
structure FlagSet where
  low : Bool
  high : Bool
  openJoint : Bool
  shift : Bool
  bridge : Bool
deriving DecidableEq, Repr

/-- Routes (R131). -/
inductive Route where
  | pass | rework | review
deriving DecidableEq, Repr

/-- Causes of ALIGN_FAULT (R51). -/
inductive AlignCause where
  | fiducialMissing | scale | rotation | residual | slope
deriving DecidableEq, Repr

/-- Decision kinds (R124). -/
inductive DecisionKind where
  | normal | late | aborted
deriving DecidableEq, Repr

/-- Link states of a head port (R64). -/
inductive LinkState where
  | unconfigured | unknown | answering | notAnswering
deriving DecidableEq, Repr

/-- Scan states of a head port (R65). -/
inductive ScanState where
  | idle | starting | receiving | ending | done | absent
deriving DecidableEq, Repr

/-- Causes of a HEAD_FAULT notice (R172). -/
inductive HeadFaultCause where
  | noStart | silent
deriving DecidableEq, Repr

/-- Band states of a drift value (R138). -/
inductive Band where
  | inside | above | below
deriving DecidableEq, Repr

/-- Status codes of a reply (R170). -/
inductive Status where
  | ok | busy | badKind | badState | badArg | slotBusy | slotEmpty | loadActive | sequence
  | overflow | invalid | queueFull | pitchMismatch
deriving DecidableEq, Repr

/-! ### Programs and the program library (chapter 1) -/

/-- The program header (R4). -/
structure Header where
  name : List Byte
  pitch : Nat
  sites : Nat
  classes : Nat
  components : Nat
  placements : Nat
  taktLimit : Nat
  unmeasuredLimit : Nat
  repeatLimit : Nat
  residualLimit : Nat
  scaleLimit : Nat
  rotationLimit : Nat
  slopeLimit : Nat
deriving DecidableEq, Repr

/-- A class record (R5). -/
structure ClassRecord where
  vNom : Nat
  volLow : Nat
  volHigh : Nat
  peakMin : Nat
  tHi : Nat
  collarMargin : Nat
  collarCeiling : Nat
  coverageMin : Nat
  collarMin : Nat
  bridgeThreshold : Nat
  bridgeMin : Nat
  shiftMax : Nat
  driftLow : Nat
  driftHigh : Nat
deriving DecidableEq, Repr

/-- The gap window of a site (R6): centre offset and half-sizes. -/
structure Gap where
  u : Int
  v : Int
  hx : Nat
  hy : Nat
deriving DecidableEq, Repr

/-- A site record (R6). -/
structure Site where
  component : Nat
  cls : Nat
  bu : Int
  bv : Int
  hx : Nat
  hy : Nat
  gap : Option Gap
deriving DecidableEq, Repr

/-- The bad-mark site of a placement (R7). -/
structure Mark where
  u : Nat
  v : Nat
  radius : Nat
deriving DecidableEq, Repr

/-- A placement record (R7); turned says orientation 180 degrees. -/
structure Placement where
  pu : Nat
  pv : Nat
  turned : Bool
  mark : Option Mark
deriving DecidableEq, Repr

/-- A fiducial record (R8). -/
structure Fiducial where
  u : Nat
  v : Nat
  radius : Nat
  alternate : Option (Nat × Nat)
deriving DecidableEq, Repr

/-- A program slot (R1, R2): the fill count of a section is the length of its list. -/
structure Slot where
  state : SlotState
  pins : Nat
  header : Option Header
  classes : List ClassRecord
  sites : List Site
  placements : List Placement
  fiducials : List Fiducial
deriving DecidableEq, Repr

/-! ### Panel flow (chapter 2) -/

/-- The columns a head owns, from start up to stop less one (R20). -/
structure OwnedRange where
  start : Nat
  stop : Nat
deriving DecidableEq, Repr

/-- The station configuration (R20); ranges holds one entry per configured head. -/
structure StationConfig where
  pitch : Nat
  heads : Nat
  ranges : List OwnedRange
  originX : Nat
  originY : Nat
  locateTimeout : Nat
  tileTimeout : Nat
  exitTimeout : Nat
  deviating : U16
  ovenHold : Nat
  defaultSlot : Option SlotId
deriving DecidableEq, Repr

/-- An inspection region in panel coordinates (R26). -/
structure Region where
  u0 : Nat
  v0 : Nat
  u1 : Nat
  v1 : Nat
deriving DecidableEq, Repr

/-- An entry descriptor (R26); exclusions is a mask, bit n for placement n. -/
structure Descriptor where
  slot : SlotId
  tag : List Byte
  region : Option Region
  exclusions : Option (BitVec 32)
deriving DecidableEq, Repr

/-- An entry of a verdict table (R109). -/
structure VerdictEntry where
  verdict : Verdict
  cause : Option Cause
  flags : FlagSet
deriving DecidableEq, Repr

/-- The eight verdict counts of a context (R111). -/
structure VerdictCounts where
  pass : Nat
  bridge : Nat
  openJoint : Nat
  low : Nat
  high : Nat
  shift : Nat
  unmeasured : Nat
  skipped : Nat
deriving DecidableEq, Repr

/-- A panel context (R28, R110 to R112). The three bit collections are sets of indices kept as strictly
rising lists: sites whose failure bit is set, sites whose pass bit is set, and component bits as
placement · 4,096 + component. -/
structure Context where
  state : CtxState
  position : Position
  inTransit : Bool
  removed : Bool
  seq : Nat
  tag : List Byte
  slot : SlotId
  region : Option Region
  exclusions : Option (BitVec 32)
  processFlag : Bool
  lateFlag : Bool
  abortedFlag : Bool
  alignFault : Option AlignCause
  arrival : Nat
  deadline : Nat
  taktRunning : Bool
  verdicts : List VerdictEntry
  unset : Nat
  counts : VerdictCounts
  defective : Nat
  skippedPlacements : Nat
  unverified : Nat
  lostLog : Nat
  failBits : List Nat
  passBits : List Nat
  componentBits : List Nat
deriving DecidableEq, Repr

/-- The flow controller's counters (section 2.8). -/
structure FlowCounters where
  arrivals : Nat
  unexpectedBoard : Nat
  unexpectedExit : Nat
  releasedPass : Nat
  releasedRework : Nat
  releasedReview : Nat
  exitJams : Nat
  jamCleared : Nat
  removed : Nat
  stops : Nat
deriving DecidableEq, Repr

/-- The flow controller (R20 to R42): station state and configuration, entry queue, contexts, sequence
number, exit timer (the time it runs out, while it runs), output lines, untracked marks, the time
since which STOP has been low, and counters. -/
structure Flow where
  station : StationState
  config : Option StationConfig
  queue : List Descriptor
  ctxs : Pair Context
  seq : Nat
  exitTimer : Option Nat
  entryEnable : Bool
  shift : Bool
  release : Bool
  route : Route
  untrackedMeasure : Bool
  untrackedExit : Bool
  stopLowSince : Option Nat
  counters : FlowCounters
deriving DecidableEq, Repr

/-- The levels of the input lines (signal summary; R24, R148). oven is the level last sampled. -/
structure Pins where
  measureOcc : Bool
  exitOcc : Bool
  downstreamReady : Bool
  stop : Bool
  oven : BitVec 4
deriving DecidableEq, Repr

/-! ### Alignment (chapter 3) -/

/-- Which position of a fiducial was searched (R43). -/
inductive Searched where
  | primary | alternate
deriving DecidableEq, Repr

/-- The outcome of a fiducial (R43, R47); FOUND carries the measured machine x, y, z and the quality. -/
inductive FidOutcome where
  | pending
  | found (x y z : Int) (quality : Nat)
  | notFound
  | outOfField
  | noAnswer
  | headError
deriving DecidableEq, Repr

/-- The entry of one fiducial in an alignment record (R43). -/
structure FidEntry where
  searched : Searched
  outcome : FidOutcome
deriving DecidableEq, Repr

/-- The alignment record of a context (R43). -/
structure AlignRecord where
  fids : Triple FidEntry
  marksPresent : Nat
  marksAbsent : Nat
  terms : Option (Int × Int)
  residual : Option Nat
  slopes : Option (Int × Int)
  cause : Option AlignCause
deriving DecidableEq, Repr

/-- What a locate seeks (R44): fiducial F1, F2 or F3, or the bad mark of a placement. -/
inductive Sought where
  | fiducial (i : Fin 3)
  | mark (placement : Nat)
deriving DecidableEq, Repr

/-- A locate (R44): what is sought, the expected machine position and the search radius. -/
structure Locate where
  sought : Sought
  x : Nat
  y : Nat
  radius : Nat
deriving DecidableEq, Repr

/-- The locate in flight on a head (R45): the locate, its number and the time its timer runs out. -/
structure InFlight where
  locate : Locate
  number : Byte
  timer : Nat
deriving DecidableEq, Repr

/-- Why a placement is in the skipped set (R43). -/
inductive SkipCause where
  | badMark | excluded
deriving DecidableEq, Repr

/-- The transform with its anchor (R43, R52). -/
structure Transform where
  a : Int
  b : Int
  u1 : Int
  v1 : Int
  x1 : Int
  y1 : Int
deriving DecidableEq, Repr

/-- The plane with its anchor (R43, R56). -/
structure Plane where
  gx : Int
  gy : Int
  x1 : Int
  y1 : Int
  z1 : Int
deriving DecidableEq, Repr

/-- The alignment unit (R43, R62). aligning is the context whose alignment is in progress; skipped is a
set of placement indices, each with its cause, in rising order. -/
structure Align where
  aligning : Option CtxId
  lists : Quad (List Locate)
  inFlight : Quad (Option InFlight)
  nextNumber : Quad Byte
  skipped : List (Nat × SkipCause)
  transform : Option Transform
  plane : Option Plane
  records : Pair AlignRecord
  locateTimeouts : Quad Nat
deriving DecidableEq, Repr

/-! ### Head ports and the intake arbiter (chapter 4) -/

/-- A frame towards a head (R63, R189). -/
inductive HeadFrame where
  | scanStart (seq start stop first last : Nat)
  | scanStop
  | locate (number : Byte) (mark : Bool) (x y radius : Nat)
  | headQuery
deriving DecidableEq, Repr

/-- The scan record of a port (R65). mark is the progress mark. silent says that the head was declared
silent in this scan (R77). -/
structure ScanRecord where
  seq : Nat
  first : Nat
  last : Nat
  rangeStart : Nat
  rangeStop : Nat
  lastPos : Option (Nat × Nat)
  received : Nat
  mark : Int
  endTaken : Bool
  silent : Bool
deriving DecidableEq, Repr

/-- The states of a tile pool (R69). -/
inductive PoolState where
  | free | filling | waiting | inIntake
deriving DecidableEq, Repr

/-- A tile pool (R69): its state, the position of its tile, and the tile's 256 samples once its frame
has ended. -/
structure TilePool where
  state : PoolState
  rowBlock : Nat
  column : Nat
  samples : List Int
deriving DecidableEq, Repr

/-- The header of the TILE frame arriving (R69). -/
structure TileHeader where
  seq : Nat
  rowBlock : Nat
  column : Nat
deriving DecidableEq, Repr

/-- What the checks of R69 made of the TILE frame arriving. cutOff is the frame whose pool the silence
of its head freed: it is counted as stale at its end, whatever its end marker (R77). -/
inductive Course where
  | stale | stray | order | overrun | filling (pool : Fin 2) | cutOff
deriving DecidableEq, Repr

/-- An item of an intake list (R72): a WAITING pool, a loss record or an end record. -/
inductive IntakeItem where
  | tile (pool : Fin 2)
  | loss (rowBlock column : Nat)
  | endRecord
deriving DecidableEq, Repr

/-- The counters of a head port (R80). -/
structure PortCounters where
  tiles : Nat
  lostTiles : Nat
  overruns : Nat
  stale : Nat
  stray : Nat
  order : Nat
  missing : Nat
  frameErrors : Nat
  headFaults : Nat
deriving DecidableEq, Repr

/-- A head port (R64, R65, R69, R72, R80). A timer holds the time it runs out while it runs. lane is the
model's own: the frames raised onto the lane towards the head, oldest first (assumption log 19). -/
structure Port where
  link : LinkState
  queryTimer : Option Nat
  scan : ScanState
  startTimer : Option Nat
  tileTimer : Option Nat
  record : Option ScanRecord
  pools : Pair TilePool
  header : Option TileHeader
  course : Option Course
  intake : List IntakeItem
  counters : PortCounters
  lane : List HeadFrame
deriving DecidableEq, Repr

/-- The intake arbiter (R73): the port last granted and the item in intake with its port. -/
structure Arbiter where
  lastGranted : PortId
  inIntake : Option (PortId × IntakeItem)
deriving DecidableEq, Repr

/-! ### The window engine (chapter 5) -/

/-- Service states of the window engine (R82). -/
inductive Service where
  | idle | arming | scanning
deriving DecidableEq, Repr

/-- A rectangle of samples, all bounds included (R85). -/
structure Rect where
  i0 : Int
  i1 : Int
  j0 : Int
  j1 : Int
deriving DecidableEq, Repr

/-- An entry of the open-order list (R91). deps is the dependency set in head order. -/
structure ArmedJoint where
  joint : Nat
  placement : Nat
  site : Nat
  cls : Nat
  pad : Rect
  outer : Rect
  gap : Option Rect
  nExpPad : Nat
  nExpCollar : Nat
  nExpGap : Nat
  firstBlock : Nat
  lastBlock : Nat
  deps : List PortId
deriving DecidableEq, Repr

/-- Accumulator states other than FREE (R83). -/
inductive AccState where
  | opened | queued | evaluating
deriving DecidableEq, Repr

/-- An accumulator that is not FREE (R83, R84). holder is the context and joint index; none once its
context was dropped while it was EVALUATING (R108). The sums are exact. -/
structure Accumulator where
  state : AccState
  holder : Option (CtxId × Nat)
  padTot : Nat
  padVal : Nat
  padSum : Int
  padMax : Option Int
  padHi : Nat
  padSx : Int
  padSy : Int
  collarTot : Nat
  collarVal : Nat
  collarSum : Int
  gapTot : Nat
  gapHi : Nat
deriving DecidableEq, Repr

/-- A joint of the open set and the number of its accumulator (R82, R96). -/
structure OpenJoint where
  entry : ArmedJoint
  acc : Nat
deriving DecidableEq, Repr

/-- What the engine takes over with the served context (R87). -/
structure Served where
  ctx : CtxId
  transform : Transform
  plane : Plane
  skipped : List (Nat × SkipCause)
  region : Option Region
deriving DecidableEq, Repr

/-- The window engine (R82, R83, R103). visited counts the joints arming has visited; openList is the
open-order list; openSet keeps the order of opening; pool lists the accumulators that are not FREE by
rising number. -/
structure Engine where
  service : Service
  served : Option Served
  visited : Nat
  openList : List ArmedJoint
  front : Option Nat
  scanRange : Option (Nat × Nat)
  openSet : List OpenJoint
  pool : List (Nat × Accumulator)
  exhausted : Nat
  shortJoints : Nat
  peak : Nat
deriving DecidableEq, Repr

/-! ### The evaluator (chapter 6) -/

/-- An entry of the evaluation queue (R99, R105). -/
structure EvalEntry where
  ctx : CtxId
  joint : Nat
  placement : Nat
  site : Nat
  cls : Nat
  acc : Nat
  nExpPad : Nat
  width : Int
  height : Int
  hasGap : Bool
deriving DecidableEq, Repr

/-- The evaluation in progress (R106): the entry, the copies of its class record and of the station
pitch, and the discard mark. -/
structure Evaluation where
  entry : EvalEntry
  cls : ClassRecord
  pitch : Nat
  discard : Bool
deriving DecidableEq, Repr

/-- The evaluator (R105, R106, R122); idle when current is none. -/
structure Evaluator where
  queue : List EvalEntry
  current : Option Evaluation
  evaluations : Nat
  discarded : Nat
  entriesRemoved : Nat
deriving DecidableEq, Repr

/-! ### The decision unit (chapter 7) -/

/-- The set of route causes (R124, R131). -/
structure RouteCauses where
  defects : Bool
  late : Bool
  aborted : Bool
  alignFault : Bool
  process : Bool
  unmeasuredOver : Bool
deriving DecidableEq, Repr

/-- A decision (R124). -/
structure Decision where
  kind : DecisionKind
  route : Route
  causes : RouteCauses
  time : Nat
deriving DecidableEq, Repr

/-- The decision record of a context (R124): its other fields exist once it is DECIDED. -/
inductive DecisionRecord where
  | absent
  | waiting
  | complete
  | decided (d : Decision)
deriving DecidableEq, Repr

/-- The decision unit (R124, R136). -/
structure DecisionUnit where
  records : Pair DecisionRecord
  normal : Nat
  late : Nat
  aborted : Nat
  pass : Nat
  rework : Nat
  review : Nat
deriving DecidableEq, Repr

/-- A panel summary (R133). -/
structure Summary where
  seq : Nat
  tag : List Byte
  slot : SlotId
  route : Route
  late : Bool
  aborted : Bool
  process : Bool
  alignFault : Option AlignCause
  counts : VerdictCounts
  defective : Nat
  skippedPlacements : Nat
  unverified : Nat
  lostLog : Nat
  timeToDecision : Nat
deriving DecidableEq, Repr

/-! ### Process monitoring (chapter 8) -/

/-- A primed drift value (R138): the smoothed volume E in Q8 and the band state. -/
structure DriftValue where
  e : Int
  band : Band
deriving DecidableEq, Repr

/-- A repeat request (R143): the sites whose failure and pass bits are set, as rising lists. -/
structure RepeatRequest where
  slot : SlotId
  sites : Nat
  limit : Nat
  seq : Nat
  failBits : List Nat
  passBits : List Nat
deriving DecidableEq, Repr

/-- The repeat request in progress and the next site it will work (R143). -/
structure RepeatWork where
  request : RepeatRequest
  next : Nat
deriving DecidableEq, Repr

/-- The process monitor (R138, R143, R148 to R152). drift lists the primed values by slot · 64 + class
and repeats the counters that are not 0 by slot · 8,192 + site, both by rising key; an unlisted drift
value is unprimed and INSIDE, an unlisted counter 0. -/
structure Monitor where
  drift : List (Nat × DriftValue)
  repeats : List (Nat × Nat)
  requests : List RepeatRequest
  work : Option RepeatWork
  recognized : BitVec 4
  candidate : Option (BitVec 4)
  runLength : Nat
  hold : Nat
  changes : List (BitVec 4 × Nat)
  overwrites : Nat
  updates : Nat
  requestsLost : Nat
  recognitions : Nat
deriving DecidableEq, Repr

/-! ### The defect log (chapter 9) -/

/-- A defect record (R154). -/
structure DefectRecord where
  seq : Nat
  placement : Nat
  site : Nat
  verdict : Verdict
  cause : Option Cause
  flags : FlagSet
  volPct : Option Nat
  peak : Option Int
  offset : Option Nat
  coverage : Option Nat
deriving DecidableEq, Repr

/-- A record of the log (R154, R155). -/
inductive LogRecord where
  | defect (d : DefectRecord)
  | summary (s : Summary)
deriving DecidableEq, Repr

/-- Segment states (R156). -/
inductive SegState where
  | free | filling | ready
deriving DecidableEq, Repr

/-- A segment (R156); its record count is the length of its list. -/
structure Segment where
  state : SegState
  records : List LogRecord
deriving DecidableEq, Repr

/-- The defect log (R156, R162). -/
structure DefectLog where
  segments : Quad Segment
  writePos : SegId
  overflow : Pair Bool
  completed : Nat
  recordsDropped : Nat
  summariesDropped : Nat
deriving DecidableEq, Repr

/-! ### The host link (chapter 10) -/

/-- A host frame without its length and CRC, which follow from it (R164). -/
structure Frame where
  kind : Byte
  tag : Byte
  body : List Byte
deriving DecidableEq, Repr

/-- The data of a notice (R172). -/
inductive NoticeData where
  | panelDecided (s : Summary)
  | segmentReady (seg : SegId) (count : Nat)
  | logOverflow (ctx : CtxId) (seq : Nat) (seg : SegId)
  | drift (slot : SlotId) (cls : Nat) (before after : Band) (e : Option Int)
  | repeatSite (slot : SlotId) (site value seq : Nat)
  | ovenCode (new previous : BitVec 4) (time : Nat) (deviating : Bool) (hold : Nat)
  | headFault (head : PortId) (cause : HeadFaultCause) (seq : Nat) (mark : Option Int)
      (link : LinkState)
  | stationState (new previous : StationState) (cause : StationCause)
deriving DecidableEq, Repr

/-- A notice: its data and its coalesced count (R172). -/
structure Notice where
  data : NoticeData
  count : Nat
deriving DecidableEq, Repr

/-- An answer of the refusal list (R168): the answer's kind, tag and status. -/
structure Answer where
  kind : Byte
  tag : Byte
  status : Status
deriving DecidableEq, Repr

/-- What the transmitter is sending (R169). -/
inductive Sending where
  | reply (f : Frame)
  | answer (a : Answer)
  | notice (n : Notice)
deriving DecidableEq, Repr

/-- States of the receive framer (R165). -/
inductive FramerState where
  | hunt | frame | escape
deriving DecidableEq, Repr

/-- The receive framer (R165). unstored counts the decoded bytes of the frame in progress that arrived
while a frame was held, which are counted and not stored (R168). -/
structure Framer where
  state : FramerState
  buffer : List Byte
  unstored : Nat
deriving DecidableEq, Repr

/-- The link controller's counters (R179). -/
structure LinkCounters where
  framesValid : Nat
  formatErrors : Nat
  crcErrors : Nat
  lengthErrors : Nat
  overruns : Nat
  unknownKinds : Nat
  busyReplies : Nat
  noticesSent : Nat
  coalesced : Nat
deriving DecidableEq, Repr

/-- The link controller (R165 to R175, R181). inService holds the kind and tag of the request in
service; resetCount the number of contexts that were not FREE when a RESET_STATION still in service
was taken; pending lists the occupied pending slots by rising kind number. -/
structure Link where
  framer : Framer
  held : Option Frame
  inService : Option (Byte × Byte)
  resetCount : Option Nat
  replySlot : Option Frame
  refusals : List Answer
  notices : List Notice
  pending : List (Nat × Notice)
  mask : Byte
  sending : Option Sending
  counters : LinkCounters
deriving DecidableEq, Repr

/-! ### The machine -/

/-- The 7620. now is the time in ms since cold reset (R28, R148). pending is the model's queue of
commands waiting to be taken, the front first. -/
structure State where
  now : Nat
  pins : Pins
  flow : Flow
  slots : Quad Slot
  align : Align
  ports : Quad Port
  arbiter : Arbiter
  engine : Engine
  evaluator : Evaluator
  decision : DecisionUnit
  monitor : Monitor
  log : DefectLog
  link : Link
  pending : List Instr
deriving DecidableEq, Repr

/-- Why the machine stops with a fault: never. Every command of the table has its effect in every state,
so this type has no constructor. -/
inductive Fault where
deriving DecidableEq, Repr

/-- Why a command is refused. -/
inductive Refusal where
  /-- Raised by exec for a command that has no meaning yet; safe. No arm raises it now. -/
  | notModelled (mnemonic : String)
deriving DecidableEq, Repr

/-! ### Initial values -/

/-- An EMPTY slot with pin count 0 (R1, R19). -/
def Slot.emptied : Slot := ⟨.empty, 0, none, [], [], [], []⟩

/-- No flag. -/
def FlagSet.none : FlagSet := ⟨false, false, false, false, false⟩

/-- An UNSET verdict entry (R109). -/
def VerdictEntry.unset : VerdictEntry := ⟨.unset, Option.none, FlagSet.none⟩

/-- All verdict counts 0 (R111). -/
def VerdictCounts.zero : VerdictCounts := ⟨0, 0, 0, 0, 0, 0, 0, 0⟩

/-- A FREE context at no position with its flags clear (R28); the fields that no block consults in FREE
are empty (assumption log 8). -/
def Context.freed : Context :=
  { state := .free, position := .nowhere, inTransit := false, removed := false, seq := 0, tag := []
    slot := 0, region := none, exclusions := none, processFlag := false, lateFlag := false
    abortedFlag := false, alignFault := none, arrival := 0, deadline := 0, taktRunning := false
    verdicts := [], unset := 0, counts := VerdictCounts.zero, defective := 0, skippedPlacements := 0
    unverified := 0, lostLog := 0, failBits := [], passBits := [], componentBits := [] }

/-- Every station counter 0. -/
def FlowCounters.zero : FlowCounters := ⟨0, 0, 0, 0, 0, 0, 0, 0, 0, 0⟩

/-- The flow controller after a cold reset (R42), given the levels of MEASURE_OCC, EXIT_OCC and STOP:
the untracked marks follow the occupancy inputs (R33) and the low time of STOP starts at once when it
is low (R24). -/
def Flow.afterColdReset (measureOcc exitOcc stop : Bool) : Flow :=
  { station := .offline, config := none, queue := [], ctxs := Pair.all Context.freed, seq := 0
    exitTimer := none, entryEnable := false, shift := false, release := false, route := .review
    untrackedMeasure := measureOcc, untrackedExit := exitOcc
    stopLowSince := if stop then none else some 0, counters := FlowCounters.zero }

/-- A clear alignment record (R43). -/
def AlignRecord.clear : AlignRecord :=
  ⟨⟨⟨.primary, .pending⟩, ⟨.primary, .pending⟩, ⟨.primary, .pending⟩⟩, 0, 0, none, none, none, none⟩

/-- The alignment unit after a cold reset (R43, R61). -/
def Align.initial : Align :=
  { aligning := none, lists := Quad.all [], inFlight := Quad.all none, nextNumber := Quad.all 0
    skipped := [], transform := none, plane := none, records := Pair.all AlignRecord.clear
    locateTimeouts := Quad.all 0 }

/-- A FREE tile pool. -/
def TilePool.empty : TilePool := ⟨.free, 0, 0, []⟩

/-- Every port counter 0. -/
def PortCounters.zero : PortCounters := ⟨0, 0, 0, 0, 0, 0, 0, 0, 0⟩

/-- A head port after a cold reset (R81). -/
def Port.initial : Port :=
  { link := .unconfigured, queryTimer := none, scan := .idle, startTimer := none, tileTimer := none
    record := none, pools := Pair.all TilePool.empty, header := none, course := none, intake := []
    counters := PortCounters.zero, lane := [] }

/-- The intake arbiter after a reset (R73, R81). -/
def Arbiter.initial : Arbiter := ⟨3, none⟩

/-- The window engine after a cold reset (R82). -/
def Engine.initial : Engine :=
  { service := .idle, served := none, visited := 0, openList := [], front := none, scanRange := none
    openSet := [], pool := [], exhausted := 0, shortJoints := 0, peak := 0 }

/-- The evaluator after a cold reset (R123). -/
def Evaluator.initial : Evaluator := ⟨[], none, 0, 0, 0⟩

/-- The decision unit after a cold reset (R124, R136). -/
def DecisionUnit.initial : DecisionUnit := ⟨Pair.all .absent, 0, 0, 0, 0, 0, 0⟩

/-- The process monitor after a cold reset (R153). -/
def Monitor.initial : Monitor :=
  { drift := [], repeats := [], requests := [], work := none, recognized := 0, candidate := none
    runLength := 0, hold := 0, changes := [], overwrites := 0, updates := 0, requestsLost := 0
    recognitions := 0 }

/-- A FREE segment (R156). -/
def Segment.empty : Segment := ⟨.free, []⟩

/-- The defect log after a cold reset (R156, R162). -/
def DefectLog.initial : DefectLog := ⟨Quad.all Segment.empty, 0, Pair.all false, 0, 0, 0⟩

/-- Every link counter 0. -/
def LinkCounters.zero : LinkCounters := ⟨0, 0, 0, 0, 0, 0, 0, 0, 0⟩

/-- The link controller after a cold reset (R165, R167, R168, R173, R182). -/
def Link.initial : Link :=
  { framer := ⟨.hunt, [], 0⟩, held := none, inService := none, resetCount := none, replySlot := none
    refusals := [], notices := [], pending := [], mask := 0, sending := none
    counters := LinkCounters.zero }

/-- The machine right after a cold reset with every input line low: OFFLINE, no configuration, every
block as its own chapter states, and no command waiting. -/
def State.reset : State :=
  { now := 0, pins := ⟨false, false, false, false, 0⟩
    flow := Flow.afterColdReset false false false, slots := Quad.all Slot.emptied
    align := Align.initial, ports := Quad.all Port.initial, arbiter := Arbiter.initial
    engine := Engine.initial, evaluator := Evaluator.initial, decision := DecisionUnit.initial
    monitor := Monitor.initial, log := DefectLog.initial, link := Link.initial, pending := [] }

end Sys2Proof.Machine
end

