-- ==== Sys2Proof/Machine/Arith.lean ====
section
/-! DEFINITION. Arith.lean: the manual's arithmetic and collections: rounding, floor and ceiling of
exact quotients (Conventions of 00_scope.md), saturating counters, the byte fields of R183, and sets
and maps keyed by numbers, kept as strictly rising lists. -/

namespace Sys2Proof.Machine

/-- A quotient rounded to the nearest integer, a half away from zero (Conventions, "Rounded"). -/
def roundDiv (a b : Int) : Int :=
  let q : Nat := (2 * a.natAbs + b.natAbs) / (2 * b.natAbs)
  if a < 0 ↔ b < 0 then (q : Int) else -(q : Int)

/-- The floor of a quotient (Conventions, "Floor and ceiling"). -/
def floorDiv (a b : Int) : Int := Int.fdiv a b

/-- The ceiling of a quotient. -/
def ceilDiv (a b : Int) : Int := -(Int.fdiv (-a) b)

/-- A 32-bit counter raised by n: it stops at its greatest value (Conventions, "Counters"). -/
def bump (c n : Nat) : Nat := min (c + n) Config.counterMax

/-! ### Byte fields (R183) -/

/-- The byte of value n modulo 256. -/
def byteOf (n : Nat) : Byte := BitVec.ofNat 8 n

/-- A field of two bytes, most significant first. -/
def be16 (n : Nat) : List Byte := [byteOf (n / 256), byteOf n]

/-- A field of three bytes, most significant first. -/
def be24 (n : Nat) : List Byte := [byteOf (n / 65536), byteOf (n / 256), byteOf n]

/-- A field of four bytes, most significant first. -/
def be32 (n : Nat) : List Byte := be16 (n / 65536) ++ be16 n

/-- A field of six bytes, most significant first. -/
def be48 (n : Nat) : List Byte := be16 (n / 4294967296) ++ be32 n

/-- A signed field of two bytes in two's complement. -/
def beI16 (n : Int) : List Byte := be16 (n.emod 65536).toNat

/-- A signed field of four bytes in two's complement. -/
def beI32 (n : Int) : List Byte := be32 (n.emod 4294967296).toNat

/-- The value of the byte at an offset (0 beyond the end). -/
def u8 (b : List Byte) (i : Nat) : Nat := (b.getD i 0).toNat

/-- The two-byte field at an offset. -/
def u16 (b : List Byte) (i : Nat) : Nat := u8 b i * 256 + u8 b (i + 1)

/-- The three-byte field at an offset. -/
def u24 (b : List Byte) (i : Nat) : Nat := u8 b i * 65536 + u16 b (i + 1)

/-- The four-byte field at an offset. -/
def u32 (b : List Byte) (i : Nat) : Nat := u16 b i * 65536 + u16 b (i + 2)

/-- A two's complement value of w bits. -/
def signed (w n : Nat) : Int := if n < 2 ^ (w - 1) then (n : Int) else (n : Int) - (2 ^ w : Nat)

/-- The signed two-byte field at an offset. -/
def i16 (b : List Byte) (i : Nat) : Int := signed 16 (u16 b i)

/-- The signed four-byte field at an offset. -/
def i32 (b : List Byte) (i : Nat) : Int := signed 32 (u32 b i)

/-- n bytes from an offset. -/
def bytesAt (b : List Byte) (i n : Nat) : List Byte := (b.drop i).take n

/-- A flag as a byte (R183): 0 for clear, 1 for set. -/
def flagByte (b : Bool) : Byte := if b then 1 else 0

/-- Presence bytes (R183): eight parts to a byte, part n in bit n mod 8, in the order the parts stand. -/
def presence : List Bool → List Byte
  | [] => []
  | a :: b :: c :: d :: e :: f :: g :: h :: rest =>
    byteOf (a.toNat + 2 * b.toNat + 4 * c.toNat + 8 * d.toNat + 16 * e.toNat + 32 * f.toNat
      + 64 * g.toNat + 128 * h.toNat) :: presence rest
  | parts => [byteOf (parts.foldr (fun p n => p.toNat + 2 * n) 0)]

/-- An optional part that is absent keeps its place with bytes of zero (R183). -/
def optionalPart (width : Nat) : Option (List Byte) → List Byte
  | some b => b
  | none => List.replicate width 0

/-! ### Sets of numbers -/

/-- A number added to a set. -/
def setInsert (n : Nat) : List Nat → List Nat
  | [] => [n]
  | m :: rest => if n < m then n :: m :: rest else if n = m then m :: rest else m :: setInsert n rest

/-! ### Maps keyed by numbers -/

/-- The value listed for a key. -/
def mapGet {α : Type} (k : Nat) : List (Nat × α) → Option α
  | [] => none
  | (j, a) :: rest => if j = k then some a else mapGet k rest

/-- The value of a key replaced or added, the keys kept strictly rising. -/
def mapPut {α : Type} (k : Nat) (a : α) : List (Nat × α) → List (Nat × α)
  | [] => [(k, a)]
  | (j, b) :: rest =>
    if k < j then (k, a) :: (j, b) :: rest
    else if k = j then (k, a) :: rest
    else (j, b) :: mapPut k a rest

/-- A key taken out. -/
def mapDel {α : Type} (k : Nat) (l : List (Nat × α)) : List (Nat × α) := l.filter (fun e => e.1 != k)

/-- The keys rise strictly: the canonical form of a map. -/
abbrev mapWf {α : Type} (l : List (Nat × α)) : Prop := l.Pairwise (fun a b => a.1 < b.1)

/-- The lowest number from n up that is no key of a map with rising keys. -/
def firstGap {α : Type} : List (Nat × α) → Nat → Nat
  | [], n => n
  | (k, _) :: rest, n => if k = n then firstGap rest (n + 1) else n

/-! ### Indices named by a byte -/

/-- The slot, head port or segment a number names, if it is below 4. -/
def quadIndex (n : Nat) : Option (Fin 4) := if h : n < 4 then some ⟨n, h⟩ else none

/-- The context a number names, if it is 0 or 1. -/
def pairIndex (n : Nat) : Option (Fin 2) := if h : n < 2 then some ⟨n, h⟩ else none

end Sys2Proof.Machine
end

