-- ==== Sys2Proof/Machine/Operands.lean ====
section
/-! DEFINITION. Operands.lean: the codes of R184, the request kinds of R186, and the records the 7620
receives (R187) with the range checks of R4 to R8, R20 and R26. -/

namespace Sys2Proof.Machine

/-! ### Codes (R184) -/

/-- Status codes. -/
def Status.code : Status → Byte
  | .ok => 0 | .busy => 1 | .badKind => 2 | .badState => 3 | .badArg => 4 | .slotBusy => 5
  | .slotEmpty => 6 | .loadActive => 7 | .sequence => 8 | .overflow => 9 | .invalid => 10
  | .queueFull => 11 | .pitchMismatch => 12

/-- Station state codes. -/
def StationState.code : StationState → Byte
  | .offline => 0 | .idle => 1 | .running => 2 | .draining => 3 | .stopped => 4 | .fault => 5

/-- STATION_STATE cause codes. -/
def StationCause.code : StationCause → Byte
  | .configured => 0 | .run => 1 | .drain => 2 | .drained => 3 | .stopInput => 4 | .exitJam => 5
  | .cleared => 6

/-- Slot state codes. -/
def SlotState.code : SlotState → Byte
  | .empty => 0 | .loading => 1 | .validating => 2 | .valid => 3

/-- Context state codes. -/
def CtxState.code : CtxState → Byte
  | .free => 0 | .aligning => 1 | .arming => 2 | .scanning => 3 | .judging => 4 | .decided => 5
  | .releasing => 6

/-- Position codes. -/
def Position.code : Position → Byte
  | .nowhere => 0 | .measure => 1 | .exit => 2

/-- Verdict codes. -/
def Verdict.code : Verdict → Byte
  | .unset => 0 | .pass => 1 | .bridge => 2 | .openJoint => 3 | .low => 4 | .high => 5 | .shift => 6
  | .unmeasured => 7 | .skipped => 8

/-- Cause codes; 0 for none. -/
def causeCode : Option Cause → Byte
  | none => 0
  | some .lowCoverage => 1 | some .noReference => 2 | some .noAccumulator => 3
  | some .outOfField => 4 | some .notAligned => 5 | some .late => 6 | some .aborted => 7
  | some .badMark => 8 | some .excluded => 9 | some .outOfRegion => 10

/-- The flag set as a mask: bit 0 LOW, 1 HIGH, 2 OPEN, 3 SHIFT, 4 BRIDGE. -/
def FlagSet.code (f : FlagSet) : Byte :=
  byteOf (f.low.toNat + 2 * f.high.toNat + 4 * f.openJoint.toNat + 8 * f.shift.toNat
    + 16 * f.bridge.toNat)

/-- Route codes. -/
def Route.code : Route → Byte
  | .pass => 0 | .rework => 1 | .review => 2

/-- Alignment-fault cause codes; 0 for none. -/
def alignCauseCode : Option AlignCause → Byte
  | none => 0
  | some .fiducialMissing => 1 | some .scale => 2 | some .rotation => 3 | some .residual => 4
  | some .slope => 5

/-- Fiducial outcome codes. -/
def FidOutcome.code : FidOutcome → Byte
  | .pending => 0 | .found _ _ _ _ => 1 | .notFound => 2 | .outOfField => 3 | .noAnswer => 4
  | .headError => 5

/-- Position searched codes. -/
def Searched.code : Searched → Byte
  | .primary => 0 | .alternate => 1

/-- Decision state codes. -/
def DecisionRecord.code : DecisionRecord → Byte
  | .absent => 0 | .waiting => 1 | .complete => 2 | .decided _ => 3

/-- Decision kind codes. -/
def DecisionKind.code : DecisionKind → Byte
  | .normal => 0 | .late => 1 | .aborted => 2

/-- Route causes as a mask. -/
def RouteCauses.code (c : RouteCauses) : Byte :=
  byteOf (c.defects.toNat + 2 * c.late.toNat + 4 * c.aborted.toNat + 8 * c.alignFault.toNat
    + 16 * c.process.toNat + 32 * c.unmeasuredOver.toNat)

/-- Band state codes. -/
def Band.code : Band → Byte
  | .inside => 0 | .above => 1 | .below => 2

/-- Port link state codes. -/
def LinkState.code : LinkState → Byte
  | .unconfigured => 0 | .unknown => 1 | .answering => 2 | .notAnswering => 3

/-- Port scan state codes. -/
def ScanState.code : ScanState → Byte
  | .idle => 0 | .starting => 1 | .receiving => 2 | .ending => 3 | .done => 4 | .absent => 5

/-- HEAD_FAULT cause codes. -/
def HeadFaultCause.code : HeadFaultCause → Byte
  | .noStart => 0 | .silent => 1

/-- The place of a segment state in the table of R156. -/
def SegState.index : SegState → Nat
  | .free => 0 | .filling => 1 | .ready => 2

/-! ### Request kinds (R186) -/

/-- The requests of R186. -/
inductive ReqKind where
  | identify | configureStation | setMode | programBegin | programData | programEnd | programErase
  | programStatus | queuePanel | cancelQueue | panelStatus | readVerdicts | readLog | releaseSegment
  | readDrift | resetDrift | readRepeat | clearRepeat | readOvenCodes | setNoticeMask | clearStop
  | clearFault | resetStation | readCounters | clearCounters
deriving DecidableEq, Repr

/-- The kind byte of a request. -/
def ReqKind.byte : ReqKind → Byte
  | .identify => 0x01 | .configureStation => 0x02 | .setMode => 0x03
  | .programBegin => 0x10 | .programData => 0x11 | .programEnd => 0x12 | .programErase => 0x13
  | .programStatus => 0x14 | .queuePanel => 0x20 | .cancelQueue => 0x21 | .panelStatus => 0x22
  | .readVerdicts => 0x23 | .readLog => 0x28 | .releaseSegment => 0x29 | .readDrift => 0x30
  | .resetDrift => 0x31 | .readRepeat => 0x32 | .clearRepeat => 0x33 | .readOvenCodes => 0x34
  | .setNoticeMask => 0x38 | .clearStop => 0x39 | .clearFault => 0x3A | .resetStation => 0x3B
  | .readCounters => 0x3C | .clearCounters => 0x3D

/-- The request a kind byte names; none for any other byte. -/
def ReqKind.ofByte (b : Byte) : Option ReqKind :=
  if b = 0x01 then some .identify
  else if b = 0x02 then some .configureStation
  else if b = 0x03 then some .setMode
  else if b = 0x10 then some .programBegin
  else if b = 0x11 then some .programData
  else if b = 0x12 then some .programEnd
  else if b = 0x13 then some .programErase
  else if b = 0x14 then some .programStatus
  else if b = 0x20 then some .queuePanel
  else if b = 0x21 then some .cancelQueue
  else if b = 0x22 then some .panelStatus
  else if b = 0x23 then some .readVerdicts
  else if b = 0x28 then some .readLog
  else if b = 0x29 then some .releaseSegment
  else if b = 0x30 then some .readDrift
  else if b = 0x31 then some .resetDrift
  else if b = 0x32 then some .readRepeat
  else if b = 0x33 then some .clearRepeat
  else if b = 0x34 then some .readOvenCodes
  else if b = 0x38 then some .setNoticeMask
  else if b = 0x39 then some .clearStop
  else if b = 0x3A then some .clearFault
  else if b = 0x3B then some .resetStation
  else if b = 0x3C then some .readCounters
  else if b = 0x3D then some .clearCounters
  else none

/-- The least and the greatest body of a request (R186). -/
def ReqKind.bodyRange : ReqKind → Nat × Nat
  | .identify | .cancelQueue | .readOvenCodes | .clearStop | .clearFault | .resetStation
  | .readCounters | .clearCounters => (0, 0)
  | .setMode | .programEnd | .programErase | .programStatus | .panelStatus | .releaseSegment
  | .clearRepeat | .setNoticeMask => (1, 1)
  | .readDrift | .resetDrift => (3, 3)
  | .readLog => (4, 4)
  | .readVerdicts | .readRepeat => (5, 5)
  | .configureStation | .programBegin | .queuePanel => (38, 38)
  | .programData => (24, 1024)

/-- The body length lies in the range R186 gives the request. -/
def ReqKind.bodyFits (k : ReqKind) (n : Nat) : Bool :=
  decide (k.bodyRange.1 ≤ n) && decide (n ≤ k.bodyRange.2)

/-! ### Frames a head sends (R189, R190) -/

/-- The frames from a head (R63, R189). -/
inductive HeadKind where
  | ready | tile | tileLost | scanEnd | locateResult
deriving DecidableEq, Repr

/-- The kind byte of a frame from a head (R189). -/
def HeadKind.byte : HeadKind → Byte
  | .ready => 0x11 | .tile => 0x12 | .tileLost => 0x13 | .scanEnd => 0x14 | .locateResult => 0x15

/-- The frame a kind byte names; none for any other byte (R63, R189). -/
def HeadKind.ofByte (b : Byte) : Option HeadKind :=
  if b = 0x11 then some .ready
  else if b = 0x12 then some .tile
  else if b = 0x13 then some .tileLost
  else if b = 0x14 then some .scanEnd
  else if b = 0x15 then some .locateResult
  else none

/-- The commands that a TILE frame is, by its data bytes: its header at the fifth of them (the panel
sequence number at offset 0, the row block at 1 and the first column at 3), and its end marker with the
bytes after the header. A frame that ends before its fifth body byte delivers no header (R63, R69,
R190). -/
def tileCommands (port : PortId) (good : Bool) (body : List Byte) : List Instr :=
  if body.length < 5 then [.tile port good body]
  else
    [.tileHeader port (body.getD 0 0) (BitVec.ofNat 16 (u16 body 1)) (BitVec.ofNat 16 (u16 body 3)),
      .tile port good (body.drop 5)]

/-- The commands that a frame from a head is: its kind byte, its end marker, and the data bytes between
them (R63, R189). -/
def headFrameCommands (port : PortId) (kind : Byte) (good : Bool) (body : List Byte) : List Instr :=
  match HeadKind.ofByte kind with
  | some .ready => [.headReady port good body]
  | some .tile => tileCommands port good body
  | some .tileLost => [.tileLost port good body]
  | some .scanEnd => [.scanEnd port good body]
  | some .locateResult => [.locateResult port good body]
  | none => [.headUnknownFrame port]

/-! ### Records the 7620 receives (R187) -/

/-- A number lies in a range that includes both ends. -/
def within (lo hi n : Nat) : Bool := decide (lo ≤ n) && decide (n ≤ hi)

/-- A signed number lies in a range that includes both ends. -/
def withinI (lo hi n : Int) : Bool := decide (lo ≤ n) && decide (n ≤ hi)

/-- A sample pitch the tables allow: 10, 12, 15 or 20 µm (R4, R20). -/
def pitchOk (p : Nat) : Bool := p == 10 || p == 12 || p == 15 || p == 20

/-- The program header laid out at the start of some bytes (R187). -/
def Header.ofBytes (b : List Byte) : Header :=
  { name := bytesAt b 0 16, pitch := u8 b 16, sites := u16 b 17, classes := u8 b 19
    components := u16 b 20, placements := u8 b 22, taktLimit := u24 b 23
    unmeasuredLimit := u16 b 26, repeatLimit := u8 b 28, residualLimit := u16 b 29
    scaleLimit := u16 b 31, rotationLimit := u16 b 33, slopeLimit := u16 b 35 }

/-- The bytes of a header (R187), as PROGRAM_STATUS reports it (R17). -/
def Header.bytes (h : Header) : List Byte :=
  h.name ++ [byteOf h.pitch] ++ be16 h.sites ++ [byteOf h.classes] ++ be16 h.components
    ++ [byteOf h.placements] ++ be24 h.taktLimit ++ be16 h.unmeasuredLimit ++ [byteOf h.repeatLimit]
    ++ be16 h.residualLimit ++ be16 h.scaleLimit ++ be16 h.rotationLimit ++ be16 h.slopeLimit

/-- The range checks of the program header (R4). -/
def Header.ok (h : Header) : Bool :=
  h.name.length == 16 && h.name.all (fun c => within 0x20 0x7E c.toNat) && pitchOk h.pitch
    && within 1 8192 h.sites && within 1 64 h.classes && within 1 4096 h.components
    && within 1 32 h.placements && within 1000 600000 h.taktLimit && within 0 65535 h.unmeasuredLimit
    && (h.repeatLimit == 0 || within 2 255 h.repeatLimit) && within 5 500 h.residualLimit
    && within 1 655 h.scaleLimit && within 1 1144 h.rotationLimit && within 1 20971 h.slopeLimit
    && decide (h.sites * h.placements ≤ Config.jointsMax)

/-- The class record laid out at the start of some bytes (R187). -/
def ClassRecord.ofBytes (b : List Byte) : ClassRecord :=
  { vNom := u32 b 0, volLow := u16 b 4, volHigh := u16 b 6, peakMin := u16 b 8, tHi := u16 b 10
    collarMargin := u16 b 12, collarCeiling := u16 b 14, coverageMin := u8 b 16
    collarMin := u16 b 17, bridgeThreshold := u16 b 19, bridgeMin := u16 b 21
    shiftMax := u16 b 23, driftLow := u16 b 25, driftHigh := u16 b 27 }

/-- The range checks and the two orderings of a class record (R5). -/
def ClassRecord.ok (c : ClassRecord) : Bool :=
  within 1 2147483647 c.vNom && within 0 998 c.volLow && within 1 999 c.volHigh
    && within 0 2000 c.peakMin && within 1 2000 c.tHi && within 10 1000 c.collarMargin
    && within 0 500 c.collarCeiling && within 1 4096 c.collarMin && within 10 100 c.coverageMin
    && within 1 2000 c.bridgeThreshold && within 1 4096 c.bridgeMin && within 0 2000 c.shiftMax
    && within 0 999 c.driftLow && within 0 999 c.driftHigh && decide (c.volLow < c.volHigh)
    && decide (c.driftLow + 4 ≤ c.driftHigh)

/-- The site record laid out at the start of some bytes; none when its presence byte has a bit that
names no part (R183, R187). -/
def Site.ofBytes (b : List Byte) : Option Site :=
  if u8 b 0 ≤ 1 then
    some { component := u16 b 1, cls := u8 b 3, bu := i32 b 4, bv := i32 b 8, hx := u16 b 12
           hy := u16 b 14
           gap := if u8 b 0 = 1 then some ⟨i32 b 16, i32 b 20, u16 b 24, u16 b 26⟩ else none }
  else none

/-- The range checks of a site record under the program pitch P (R6). -/
def Site.ok (P : Nat) (s : Site) : Bool :=
  within 0 4095 s.component && within 0 63 s.cls && withinI (-400000) 400000 s.bu
    && withinI (-400000) 400000 s.bv && within P 2047 s.hx && within P 2047 s.hy
    && s.gap.all (fun g => withinI (-400000) 400000 g.u && withinI (-400000) 400000 g.v
        && within P 2047 g.hx && within P 2047 g.hy)

/-- The placement record laid out at the start of some bytes; none when its presence byte or its
orientation code is out of range (R183, R187). -/
def Placement.ofBytes (b : List Byte) : Option Placement :=
  if u8 b 0 ≤ 1 ∧ u8 b 9 ≤ 1 then
    some { pu := u32 b 1, pv := u32 b 5, turned := u8 b 9 == 1
           mark := if u8 b 0 = 1 then some ⟨u32 b 10, u32 b 14, u16 b 18⟩ else none }
  else none

/-- The range checks of a placement record (R7). -/
def Placement.ok (p : Placement) : Bool :=
  within 0 600000 p.pu && within 0 600000 p.pv
    && p.mark.all (fun m => within 0 1000000 m.u && within 0 1000000 m.v && within 50 2000 m.radius)

/-- The fiducial record laid out at the start of some bytes; none when its presence byte is out of
range (R183, R187). -/
def Fiducial.ofBytes (b : List Byte) : Option Fiducial :=
  if u8 b 0 ≤ 1 then
    some { u := u32 b 1, v := u32 b 5, radius := u16 b 9
           alternate := if u8 b 0 = 1 then some (u32 b 11, u32 b 15) else none }
  else none

/-- The range checks of a fiducial record (R8). -/
def Fiducial.ok (f : Fiducial) : Bool :=
  within 0 1000000 f.u && within 0 1000000 f.v && within 50 2000 f.radius
    && f.alternate.all (fun a => within 0 1000000 a.1 && within 0 1000000 a.2)

/-- The owned range at an index of a station configuration record (R187). -/
def OwnedRange.ofBytes (b : List Byte) (head : Nat) : OwnedRange :=
  ⟨u16 b (2 + 4 * head), u16 b (4 + 4 * head)⟩

/-- The ownership conditions (R20): each range non-empty, its ends multiples of 64 in 0 to 16,384, and
each range ending at or before the start of the next. -/
def rangesOk : List OwnedRange → Bool
  | [] => true
  | r :: rest =>
    r.start % 64 == 0 && r.stop % 64 == 0 && decide (r.stop ≤ 16384) && decide (r.start < r.stop)
      && (match rest with
          | [] => true
          | next :: _ => decide (r.stop ≤ next.start))
      && rangesOk rest

/-- The range checks of a station configuration (R20). -/
def StationConfig.ok (c : StationConfig) : Bool :=
  pitchOk c.pitch && within 1 4 c.heads && c.ranges.length == c.heads && rangesOk c.ranges
    && within 0 327680 c.originX && within 0 327680 c.originY && within 5 500 c.locateTimeout
    && within 10 1000 c.tileTimeout && within 2000 120000 c.exitTimeout && within 0 255 c.ovenHold

/-- The station configuration record of 38 bytes, or none when a field is out of range (R20, R187).
Range entries of heads at or above the head count are neither checked nor kept. -/
def StationConfig.ofBytes (b : List Byte) : Option StationConfig :=
  let c : StationConfig :=
    { pitch := u8 b 0, heads := u8 b 1
      ranges := ((List.range 4).map (OwnedRange.ofBytes b)).take (u8 b 1)
      originX := u32 b 18, originY := u32 b 22, locateTimeout := u16 b 26, tileTimeout := u16 b 28
      exitTimeout := u32 b 30, deviating := BitVec.ofNat 16 (u16 b 34), ovenHold := u8 b 36
      defaultSlot := quadIndex (u8 b 37) }
  if c.ok && (decide (u8 b 37 < 4) || u8 b 37 == 255) then some c else none

/-- The region of an entry descriptor lies in its range (R26); whether it is inverted is a later check. -/
def Region.inRange (r : Region) : Bool :=
  within 0 1000000 r.u0 && within 0 1000000 r.v0 && within 0 1000000 r.u1 && within 0 1000000 r.v1

/-- The region is inverted: u0 above u1 or v0 above v1 (R26, check 5). -/
def Region.inverted (r : Region) : Bool := decide (r.u1 < r.u0) || decide (r.v1 < r.v0)

/-- The entry descriptor of 38 bytes, or none when it fails check 1 of R26: its slot number, its
presence byte or its region out of range (R183, R187). -/
def Descriptor.ofBytes (b : List Byte) : Option Descriptor :=
  match quadIndex (u8 b 1) with
  | none => none
  | some k =>
    if u8 b 0 ≤ 3 then
      let region : Option Region :=
        if u8 b 0 % 2 = 1 then some ⟨u32 b 18, u32 b 22, u32 b 26, u32 b 30⟩ else none
      if region.all Region.inRange then
        some { slot := k, tag := bytesAt b 2 16, region := region
               exclusions := if 2 ≤ u8 b 0 then some (BitVec.ofNat 32 (u32 b 34)) else none }
      else none
    else none

/-! ### Sections of a program (R1, R10) -/

/-- The record size of a section (R187). -/
def sectionRecordSize : Nat → Option Nat
  | 0 => some 29
  | 1 => some 28
  | 2 => some 20
  | 3 => some 19
  | _ => none

/-- The fill count of a section (R1). -/
def Slot.fill (s : Slot) : Nat → Nat
  | 0 => s.classes.length
  | 1 => s.sites.length
  | 2 => s.placements.length
  | _ => s.fiducials.length

/-- The number of records a section must hold (R1). -/
def Header.required (h : Header) : Nat → Nat
  | 0 => h.classes
  | 1 => h.sites
  | 2 => h.placements
  | _ => 3

/-- The slot with one record appended to a section, or none when the record fails its range check
(R5 to R8). -/
def Slot.append (s : Slot) (h : Header) (sect : Nat) (b : List Byte) : Option Slot :=
  match sect with
  | 0 =>
    let c := ClassRecord.ofBytes b
    if c.ok then some { s with classes := s.classes ++ [c] } else none
  | 1 =>
    match Site.ofBytes b with
    | some r => if r.ok h.pitch then some { s with sites := s.sites ++ [r] } else none
    | none => none
  | 2 =>
    match Placement.ofBytes b with
    | some r => if r.ok then some { s with placements := s.placements ++ [r] } else none
    | none => none
  | _ =>
    match Fiducial.ofBytes b with
    | some r => if r.ok then some { s with fiducials := s.fiducials ++ [r] } else none
    | none => none

/-- The slot after a run of records has been appended in order, and whether every record passed; the
first that fails stops the run (R10). -/
def Slot.appendRun (h : Header) (sect size : Nat) : Nat → List Byte → Slot → Slot × Bool
  | 0, _, s => (s, true)
  | n + 1, b, s =>
    match s.append h sect (b.take size) with
    | some s' => Slot.appendRun h sect size n (b.drop size) s'
    | none => (s, false)

end Sys2Proof.Machine
end

