-- ==== Sys2Proof/Machine/Flags.lean ====
section
/-! DEFINITION. Flags.lean: the judgements the manual computes from numbers alone: the evaluation of a
joint (R113 to R120), the route causes and the route (R131), the drift arithmetic and its band state
(R139, R140), the transform, residual and plane (R52 to R57), and the validation checks (R12 to R14). -/

namespace Sys2Proof.Machine

/-! ### The evaluation of a joint (R113 to R119) -/

/-- What an evaluation hands on (R119, R120). -/
structure EvalResult where
  verdict : Verdict
  cause : Option Cause
  flags : FlagSet
  volPct : Option Nat
  peak : Option Int
  offset : Option Nat
  coverage : Nat
deriving DecidableEq, Repr

/-- The coverage test passes (R113). -/
def coverageOk (c : ClassRecord) (nExpPad : Nat) (a : Accumulator) : Bool :=
  decide (c.coverageMin * nExpPad ≤ a.padVal * 100)

/-- The reference height z_ref (R114). -/
def referenceHeight (a : Accumulator) : Int := roundDiv a.collarSum a.collarVal

/-- The estimated volume V_est (R115). -/
def estimatedVolume (nExpPad : Nat) (a : Accumulator) : Nat :=
  (roundDiv ((a.padSum - a.padVal * referenceHeight a) * nExpPad) a.padVal).toNat

/-- The volume percentage vol_pct (R115). -/
def volumePct (c : ClassRecord) (nExpPad : Nat) (a : Accumulator) : Nat :=
  min 999 (roundDiv (100 * (estimatedVolume nExpPad a : Int)) c.vNom).toNat

/-- The peak, clamped to 16 bits (R116). -/
def peakHeight (a : Accumulator) : Int :=
  max (-32768) (min 32767 (a.padMax.getD 0 - referenceHeight a))

/-- The centroid offset, formed when a pad sample was high (R117). -/
def centroidOffset (e : EvalEntry) (pitch : Nat) (a : Accumulator) : Option Nat :=
  if a.padHi = 0 then none
  else
    let cx2 := roundDiv (2 * a.padSx) a.padHi - e.width
    let cy2 := roundDiv (2 * a.padSy) a.padHi - e.height
    some (max cx2.natAbs cy2.natAbs * pitch / 2)

/-- The flags raised (R118). -/
def raisedFlags (c : ClassRecord) (e : EvalEntry) (pitch : Nat) (a : Accumulator) : FlagSet :=
  { low := decide (volumePct c e.nExpPad a < c.volLow)
    high := decide (c.volHigh < volumePct c e.nExpPad a)
    openJoint := decide (peakHeight a < (c.peakMin : Int))
    shift := match centroidOffset e pitch a with
      | some o => decide (c.shiftMax < o)
      | none => false
    bridge := e.hasGap && decide (c.bridgeMin ≤ a.gapHi) }

/-- The verdict of a measured joint: the first flag raised in the order BRIDGE, OPEN, LOW, HIGH, SHIFT,
else PASS (R119). -/
def verdictOf (f : FlagSet) : Verdict :=
  if f.bridge then .bridge
  else if f.openJoint then .openJoint
  else if f.low then .low
  else if f.high then .high
  else if f.shift then .shift
  else .pass

/-- The evaluation of a joint from its entry, class record, pitch and accumulator (R113 to R120). -/
def evaluate (e : EvalEntry) (c : ClassRecord) (pitch : Nat) (a : Accumulator) : EvalResult :=
  let coverage := 100 * a.padVal / e.nExpPad
  if !coverageOk c e.nExpPad a then
    ⟨.unmeasured, some .lowCoverage, FlagSet.none, none, none, none, coverage⟩
  else if a.collarVal < c.collarMin then
    ⟨.unmeasured, some .noReference, FlagSet.none, none, none, none, coverage⟩
  else
    let f := raisedFlags c e pitch a
    ⟨verdictOf f, none, f, some (volumePct c e.nExpPad a), some (peakHeight a),
      centroidOffset e pitch a, coverage⟩

/-- The verdict is one of the defect verdicts (R109). -/
def Verdict.isDefect : Verdict → Bool
  | .bridge | .openJoint | .low | .high | .shift => true
  | .unset | .pass | .unmeasured | .skipped => false

/-! ### The route (R131) -/

/-- The number of defect verdicts of a context (R131, DEFECTS). -/
def VerdictCounts.defects (n : VerdictCounts) : Nat :=
  n.bridge + n.openJoint + n.low + n.high + n.shift

/-- The route causes of a context under its program's unmeasured limit (R131). -/
def routeCauses (c : Context) (unmeasuredLimit : Nat) : RouteCauses :=
  { defects := decide (0 < c.counts.defects)
    late := c.lateFlag
    aborted := c.abortedFlag
    alignFault := c.alignFault.isSome
    process := c.processFlag
    unmeasuredOver := decide (unmeasuredLimit < c.counts.unmeasured) }

/-- The route a decision takes from its kind and causes (R131). -/
def chooseRoute (kind : DecisionKind) (c : RouteCauses) : Route :=
  if kind = .aborted then .review
  else if c.defects then .rework
  else if c.late || c.alignFault || c.process || c.unmeasuredOver then .review
  else .pass

/-! ### Drift (R139, R140) -/

/-- E after a feed of x (R139). -/
def driftStep (before : Option DriftValue) (x : Nat) : Int :=
  match before with
  | none => 256 * (x : Int)
  | some d => d.e + floorDiv (256 * (x : Int) - d.e) 16

/-- The band state after a feed, from the state before and the new E (R140). -/
def bandAfter (before : Band) (low high : Nat) (e : Int) : Band :=
  let lo : Int := 256 * low
  let hi : Int := 256 * high
  match before with
  | .inside => if hi < e then .above else if e < lo then .below else .inside
  | .above =>
    if 256 * ((high : Int) - 2) < e then .above else if e < lo then .below else .inside
  | .below =>
    if e < 256 * ((low : Int) + 2) then .below else if hi < e then .above else .inside

/-- The band state a value has: an unprimed one is INSIDE (R138). -/
def bandOf : Option DriftValue → Band
  | none => .inside
  | some d => d.band

/-! ### Alignment arithmetic (R52 to R57) -/

/-- A point (x, y) or (u, v). -/
abbrev Point := Int × Int

/-- The transform solved from F1 and F2 (R52). -/
def solveTransform (n1 n2 m1 m2 : Point) : Transform :=
  let du := n2.1 - n1.1
  let dv := n2.2 - n1.2
  let dx := m2.1 - m1.1
  let dy := m2.2 - m1.2
  let L := du * du + dv * dv
  { a := roundDiv ((du * dx + dv * dy) * 65536) L
    b := roundDiv ((du * dy - dv * dx) * 65536) L
    u1 := n1.1, v1 := n1.2, x1 := m1.1, y1 := m1.2 }

/-- The machine point of a panel point (R54). -/
def Transform.map (t : Transform) (p : Point) : Point :=
  (t.x1 + roundDiv (t.a * (p.1 - t.u1) - t.b * (p.2 - t.v1)) 65536,
   t.y1 + roundDiv (t.b * (p.1 - t.u1) + t.a * (p.2 - t.v1)) 65536)

/-- The residual of F3 (R55). -/
def residualOf (t : Transform) (n3 m3 : Point) : Nat :=
  max ((t.map n3).1 - m3.1).natAbs ((t.map n3).2 - m3.2).natAbs

/-- The determinant D of the measured fiducials (R56). -/
def planeDet (m1 m2 m3 : Point) : Int :=
  (m2.1 - m1.1) * (m3.2 - m1.2) - (m3.1 - m1.1) * (m2.2 - m1.2)

/-- The plane solved from the measured fiducials (R56), used where the determinant is not 0. -/
def solvePlane (m1 m2 m3 : Point) (z1 z2 z3 : Int) : Plane :=
  let D := planeDet m1 m2 m3
  { gx := roundDiv (((z2 - z1) * (m3.2 - m1.2) - (z3 - z1) * (m2.2 - m1.2)) * 1048576) D
    gy := roundDiv (((m2.1 - m1.1) * (z3 - z1) - (m3.1 - m1.1) * (z2 - z1)) * 1048576) D
    x1 := m1.1, y1 := m1.2, z1 := z1 }

/-- The plane's height at the sample of column i and row j under pitch P (R57). -/
def Plane.height (p : Plane) (P : Nat) (i j : Int) : Int :=
  p.z1 + roundDiv (p.gx * (i * P - p.x1) + p.gy * (j * P - p.y1)) 1048576

/-- The panel point of a board offset on a placement (R54, R14): added at 0 degrees, subtracted at
180. -/
def Placement.point (p : Placement) (bu bv : Int) : Point :=
  if p.turned then ((p.pu : Int) - bu, (p.pv : Int) - bv) else ((p.pu : Int) + bu, (p.pv : Int) + bv)

/-! ### Validation (R12 to R15) -/

/-- What validation finds. -/
inductive Validation where
  | passed (estimate : Nat)
  | failed (detail : Byte) (index : Nat)
deriving DecidableEq, Repr

/-- The first section that holds fewer records than the header requires (R12). -/
def shortSection (h : Header) (s : Slot) : Option Nat :=
  [0, 1, 2, 3].find? (fun k => s.fill k != h.required k)

/-- The first site whose class or component index is too large (R12): 2 for CLASS_REF, 3 for
COMPONENT_REF. -/
def badReference (h : Header) : Nat → List Site → Option (Byte × Nat)
  | _, [] => none
  | i, s :: rest =>
    if h.classes ≤ s.cls then some (2, i)
    else if h.components ≤ s.component then some (3, i)
    else badReference h (i + 1) rest

/-- The nominal of a fiducial at its primary, or at its alternate where it holds one (R8, R13). -/
def Fiducial.nominal (f : Fiducial) (alternate : Bool) : Option Point :=
  if alternate then f.alternate.map (fun a => ((a.1 : Int), (a.2 : Int))) else some (f.u, f.v)

/-- The check of one fiducial combination (R13): 4 for COLLINEAR, 5 for F1F2_CLOSE; none when it
passes or does not exist. -/
def checkCombination (f1 f2 f3 : Fiducial) (k : Nat) : Option Byte :=
  match f1.nominal (k % 2 == 1), f2.nominal (k / 2 % 2 == 1), f3.nominal (k / 4 % 2 == 1) with
  | some p1, some p2, some p3 =>
    if (planeDet p1 p2 p3).natAbs < 10000000000 then some 4
    else if (p2.1 - p1.1) ^ 2 + (p2.2 - p1.2) ^ 2 < 400000000 then some 5
    else none
  | _, _, _ => none

/-- The first combination that fails, in ascending number (R13). -/
def badCombination (f1 f2 f3 : Fiducial) : List Nat → Option (Byte × Nat)
  | [] => none
  | k :: rest =>
    match checkCombination f1 f2 f3 k with
    | some d => some (d, k)
    | none => badCombination f1 f2 f3 rest

/-- The row blocks of a joint's span from the least first row and greatest last row (R14, R86). -/
def blocksOf (P : Nat) (spans : List (Int × Int)) : Int × Int :=
  let firsts := spans.map (fun s => ceilDiv (s.1 - s.2) P)
  let lasts := spans.map (fun s => floorDiv (s.1 + s.2) P)
  (floorDiv (firsts.foldl min (firsts.headD 0)) 4, floorDiv (lasts.foldl max (lasts.headD 0)) 4)

/-- The span of a joint at its panel's nominal position (R14, steps 2 to 5). -/
def nominalSpan (h : Header) (classes : List ClassRecord) (p : Placement) (s : Site) : Int × Int :=
  let margin : Nat := match classes[s.cls]? with
    | some c => c.collarMargin
    | none => 0
  let outer := ((p.point s.bu s.bv).2, (s.hy : Int) + margin)
  blocksOf h.pitch (outer :: match s.gap with
    | some g => [((p.point g.u g.v).2, (g.hy : Int))]
    | none => [])

/-- The spans of every joint of every placement (R14, step 1). -/
def nominalSpans (h : Header) (s : Slot) : List (Int × Int) :=
  s.placements.flatMap (fun p => s.sites.map (nominalSpan h s.classes p))

/-- The number of spans that contain a row block (R14, step 6). -/
def spansAt (spans : List (Int × Int)) (b : Int) : Nat :=
  spans.countP (fun s => decide (s.1 ≤ b) && decide (b ≤ s.2))

/-- The nominal concurrency estimate (R14): the greatest count over all row blocks. A count is greatest
at the first row block of some span, so only those are counted. -/
def concurrencyEstimate (spans : List (Int × Int)) : Nat :=
  (spans.map (fun s => spansAt spans s.1)).foldl max 0

/-- The checks of a loaded program in their order (R12, R13, R14). -/
def validateSlot (h : Header) (s : Slot) : Validation :=
  match shortSection h s with
  | some k => .failed 1 k
  | none =>
    match badReference h 0 s.sites with
    | some (d, i) => .failed d i
    | none =>
      match s.fiducials with
      | f1 :: f2 :: f3 :: _ =>
        match badCombination f1 f2 f3 (List.range 8) with
        | some (d, k) => .failed d k
        | none =>
          let n := concurrencyEstimate (nominalSpans h s)
          if n ≤ Config.concurrencyMax then .passed n else .failed 6 (min n 65535)
      | _ => .failed 1 3

end Sys2Proof.Machine
end

