-- ==== Sys2Proof/Machine/Ops.lean ====
section
/-! DEFINITION. Ops.lean: the named operations the blocks share: replacing one block's state, raising a
notice, forming a reply, choosing what the transmitter sends next, holding and dropping pins, placing a
record in the defect log, writing a verdict, and the frames sent towards a head. -/

namespace Sys2Proof.Machine

/-- What a command answers. -/
abbrev Result := Host.Outcome State Fault Refusal

/-! ### Replacing the state of one block -/

/-- The flow controller's state changed. -/
def State.modFlow (s : State) (f : Flow → Flow) : State := { s with flow := f s.flow }

/-- The input levels changed. -/
def State.modPins (s : State) (f : Pins → Pins) : State := { s with pins := f s.pins }

/-- The program library changed. -/
def State.modSlots (s : State) (f : Quad Slot → Quad Slot) : State := { s with slots := f s.slots }

/-- The alignment unit changed. -/
def State.modAlign (s : State) (f : Align → Align) : State := { s with align := f s.align }

/-- The head ports changed. -/
def State.modPorts (s : State) (f : Quad Port → Quad Port) : State := { s with ports := f s.ports }

/-- The intake arbiter changed. -/
def State.modArbiter (s : State) (f : Arbiter → Arbiter) : State := { s with arbiter := f s.arbiter }

/-- The window engine changed. -/
def State.modEngine (s : State) (f : Engine → Engine) : State := { s with engine := f s.engine }

/-- The evaluator changed. -/
def State.modEvaluator (s : State) (f : Evaluator → Evaluator) : State :=
  { s with evaluator := f s.evaluator }

/-- The decision unit changed. -/
def State.modDecision (s : State) (f : DecisionUnit → DecisionUnit) : State :=
  { s with decision := f s.decision }

/-- The process monitor changed. -/
def State.modMonitor (s : State) (f : Monitor → Monitor) : State := { s with monitor := f s.monitor }

/-- The defect log changed. -/
def State.modLog (s : State) (f : DefectLog → DefectLog) : State := { s with log := f s.log }

/-- The link controller changed. -/
def State.modLink (s : State) (f : Link → Link) : State := { s with link := f s.link }

/-- One context. -/
def State.ctx (s : State) (c : CtxId) : Context := s.flow.ctxs.get c

/-- One context changed. -/
def State.modCtx (s : State) (c : CtxId) (f : Context → Context) : State :=
  s.modFlow (fun w => { w with ctxs := w.ctxs.set c (f (w.ctxs.get c)) })

/-- One slot changed. -/
def State.modSlot (s : State) (k : SlotId) (f : Slot → Slot) : State :=
  s.modSlots (fun q => q.set k (f (q.get k)))

/-- One port changed. -/
def State.modPort (s : State) (p : PortId) (f : Port → Port) : State :=
  s.modPorts (fun q => q.set p (f (q.get p)))

/-- One alignment record changed. -/
def State.modRecord (s : State) (c : CtxId) (f : AlignRecord → AlignRecord) : State :=
  s.modAlign (fun a => { a with records := a.records.set c (f (a.records.get c)) })

/-- The decision record of a context replaced. -/
def State.setDecision (s : State) (c : CtxId) (r : DecisionRecord) : State :=
  s.modDecision (fun d => { d with records := d.records.set c r })

/-- The flow controller's counters changed. -/
def Flow.count (f : FlowCounters → FlowCounters) (w : Flow) : Flow := { w with counters := f w.counters }

/-- A port's counters changed. -/
def Port.count (f : PortCounters → PortCounters) (p : Port) : Port := { p with counters := f p.counters }

/-- The link's counters changed. -/
def Link.count (f : LinkCounters → LinkCounters) (l : Link) : Link := { l with counters := f l.counters }

/-! ### Notices (R172 to R174) -/

/-- The number of a notice kind (R172). -/
def NoticeData.kind : NoticeData → Nat
  | .panelDecided _ => 0
  | .segmentReady _ _ => 1
  | .logOverflow _ _ _ => 2
  | .drift _ _ _ _ _ => 3
  | .repeatSite _ _ _ _ => 4
  | .ovenCode _ _ _ _ _ => 5
  | .headFault _ _ _ _ _ => 6
  | .stationState _ _ _ => 7

/-- The kind is masked (R173). -/
def Link.masked (l : Link) (k : Nat) : Bool := l.mask.getLsbD k

/-- A block raises a notice (R173). -/
def Link.raise (d : NoticeData) (l : Link) : Link :=
  match mapGet d.kind l.pending with
  | some n =>
    { l with
      pending := mapPut d.kind ⟨d, min (n.count + 1) 65535⟩ l.pending
      counters := { l.counters with coalesced := bump l.counters.coalesced 1 } }
  | none =>
    if !l.masked d.kind && decide (l.notices.length < Config.noticeQueueSize) then
      { l with notices := l.notices ++ [⟨d, 1⟩] }
    else { l with pending := mapPut d.kind ⟨d, 1⟩ l.pending }

/-- The pending notice of one kind joins the queue when the queue has room and the kind is not
masked (R174). -/
def Link.drainKind (l : Link) (k : Nat) : Link :=
  match mapGet k l.pending with
  | some n =>
    if !l.masked k && decide (l.notices.length < Config.noticeQueueSize) then
      { l with notices := l.notices ++ [n], pending := mapDel k l.pending }
    else l
  | none => l

/-- The pending notices of unmasked kinds join the queue in kind order while room remains (R174). -/
def Link.drain (l : Link) : Link := (List.range 8).foldl Link.drainKind l

/-- A notice raised to the link controller. -/
def State.raise (s : State) (d : NoticeData) : State := s.modLink (Link.raise d)

/-! ### Replies and the transmitter (R167, R169) -/

/-- The reply to the request in service is placed in the reply slot (R167, R185). -/
def Link.reply (st : Status) (payload : List Byte) (l : Link) : Link :=
  match l.inService with
  | some (kind, tag) => { l with replySlot := some ⟨kind + 0x80, tag, st.code :: payload⟩ }
  | none => l

/-- A reply formed by the owner of the request in service. -/
def State.reply (s : State) (st : Status) (payload : List Byte) : State :=
  s.modLink (Link.reply st payload)

/-- A refusal with the status byte alone (R167). -/
def State.refuse (s : State) (st : Status) : State := s.reply st []

/-- The transmitter, when free, begins the reply, else the oldest answer, else the oldest notice; a
notice that leaves the queue makes room for pending ones (R169, R174). -/
def Link.pump (l : Link) : Link :=
  match l.sending with
  | some _ => l
  | none =>
    match l.replySlot with
    | some f => { l with sending := some (.reply f), replySlot := none }
    | none =>
      match l.refusals with
      | a :: rest => { l with sending := some (.answer a), refusals := rest }
      | [] =>
        match l.notices with
        | n :: rest =>
          Link.drain { l with
            sending := some (.notice n)
            notices := rest
            counters := { l.counters with noticesSent := bump l.counters.noticesSent 1 } }
        | [] => l

/-- The transmitter's choice, made at the end of each event (R169; assumption log 13). -/
def State.pump (s : State) : State := s.modLink Link.pump

/-! ### The station state (R22) -/

/-- The station changes state with a cause, raising a STATION_STATE notice (R22). -/
def State.changeStation (s : State) (target : StationState) (cause : StationCause) : State :=
  (s.modFlow (fun w => { w with station := target })).raise (.stationState target s.flow.station cause)

/-- The station is RUNNING or DRAINING, the states in which panels move (R22). -/
def Flow.moving (w : Flow) : Bool := w.station == .running || w.station == .draining

/-! ### Pins and freed contexts (R2, R35, R39, R40) -/

/-- The pin count of a slot rises by 1 (R2). -/
def State.pin (s : State) (k : SlotId) : State := s.modSlot k (fun x => { x with pins := x.pins + 1 })

/-- The pin count of a slot falls by 1, never below 0 (R2). -/
def State.unpin (s : State) (k : SlotId) : State := s.modSlot k (fun x => { x with pins := x.pins - 1 })

/-- Both contexts are FREE. -/
def Flow.bothFree (w : Flow) : Bool := w.ctxs.p0.state == .free && w.ctxs.p1.state == .free

/-- The end of a drain: a station DRAINING with both contexts FREE becomes IDLE (R22, R23). -/
def State.drainTest (s : State) : State :=
  if s.flow.station = .draining ∧ s.flow.bothFree then s.changeStation .idle .drained else s

/-- A context becomes FREE with position NONE: its slot's pin count falls by 1, its decision record
becomes ABSENT, and the end of a drain is tested (R2, R22, R35, R39, R40, R124). -/
def State.freeContext (s : State) (c : CtxId) : State :=
  let k := (s.ctx c).slot
  let s1 := s.modCtx c (fun x => { x with state := .free, position := .nowhere, taktRunning := false })
  (((s1.unpin k).setDecision c .absent).drainTest)

/-! ### The program of a context -/

/-- The slot a context holds a pin on. -/
def State.slotOf (s : State) (c : CtxId) : Slot := s.slots.get (s.ctx c).slot

/-- The site count of a context's program. -/
def State.sitesOf (s : State) (c : CtxId) : Nat := (s.slotOf c).sites.length

/-- A limit of a context's program, read from its header. -/
def State.headerOf (s : State) (c : CtxId) (f : Header → Nat) : Nat :=
  match (s.slotOf c).header with
  | some h => f h
  | none => 0

/-- The station pitch P, 0 without a configuration. -/
def Flow.pitch (w : Flow) : Nat :=
  match w.config with
  | some c => c.pitch
  | none => 0

/-- The configured head count, 0 without a configuration. -/
def Flow.heads (w : Flow) : Nat :=
  match w.config with
  | some c => c.heads
  | none => 0

/-- The port serves a configured head (chapter 4). -/
def State.configured (s : State) (p : PortId) : Bool := decide (p.val < s.flow.heads)

/-- The columns a head owns; none for an unconfigured head. -/
def State.owned (s : State) (p : PortId) : Option OwnedRange :=
  match s.flow.config with
  | some c => c.ranges[p.val]?
  | none => none

/-- The time a timer that starts now runs out, for a timeout of the configuration. -/
def State.after (s : State) (f : StationConfig → Nat) : Nat :=
  s.now + match s.flow.config with
    | some c => f c
    | none => 0

/-! ### The defect log (R157 to R159) -/

/-- The record is a summary (R155). -/
def LogRecord.isSummary : LogRecord → Bool
  | .defect _ => false
  | .summary _ => true

/-- A record dropped because the segment at the write position is READY (R159). -/
def State.dropRecord (s : State) (c : CtxId) (r : LogRecord) : State :=
  let s1 :=
    if r.isSummary then
      s.modLog (fun g => { g with summariesDropped := bump g.summariesDropped 1 })
    else
      (s.modCtx c (fun x => { x with lostLog := x.lostLog + 1 })).modLog
        (fun g => { g with recordsDropped := bump g.recordsDropped 1 })
  if s.log.overflow.get c then s1
  else
    (s1.modLog (fun g => { g with overflow := g.overflow.set c true })).raise
      (.logOverflow c (s.ctx c).seq s.log.writePos)

/-- A record handed to the log for a context: placed in the segment at the write position, which
becomes READY at its 1,024th record or at a summary, or dropped (R157, R158, R159). -/
def State.logRecord (s : State) (c : CtxId) (r : LogRecord) : State :=
  let seg := s.log.segments.get s.log.writePos
  if seg.state = .ready then s.dropRecord c r
  else
    let records := seg.records ++ [r]
    if records.length = Config.segmentSize ∨ r.isSummary then
      (s.modLog (fun g =>
        { g with
          segments := g.segments.set g.writePos ⟨.ready, records⟩
          writePos := g.writePos + 1
          completed := bump g.completed 1 })).raise (.segmentReady s.log.writePos records.length)
    else
      s.modLog (fun g => { g with segments := g.segments.set g.writePos ⟨.filling, records⟩ })

/-! ### The verdict table (R109 to R112) -/

/-- The count of a verdict raised by n (R111). -/
def VerdictCounts.add (n : Nat) (k : VerdictCounts) : Verdict → VerdictCounts
  | .unset => k
  | .pass => { k with pass := k.pass + n }
  | .bridge => { k with bridge := k.bridge + n }
  | .openJoint => { k with openJoint := k.openJoint + n }
  | .low => { k with low := k.low + n }
  | .high => { k with high := k.high + n }
  | .shift => { k with shift := k.shift + n }
  | .unmeasured => { k with unmeasured := k.unmeasured + n }
  | .skipped => { k with skipped := k.skipped + n }

/-- One write of the verdict table: it takes the entry from UNSET and updates the running counts; an
entry that has left UNSET keeps what it holds (R109, R110, R111). -/
def Context.write (x : Context) (j : Nat) (e : VerdictEntry) : Context :=
  match x.verdicts[j]? with
  | some old =>
    if old.verdict = .unset then
      { x with
        verdicts := x.verdicts.set j e
        unset := x.unset - 1
        counts := x.counts.add 1 e.verdict }
    else x
  | none => x

/-- The fill of a late or aborted decision: every UNSET entry becomes UNMEASURED with the cause (R130). -/
def Context.fill (x : Context) (cause : Cause) : Context :=
  let n := x.verdicts.countP (fun e => e.verdict == .unset)
  { x with
    verdicts := x.verdicts.map (fun e =>
      if e.verdict = .unset then ⟨.unmeasured, some cause, FlagSet.none⟩ else e)
    unset := 0
    counts := x.counts.add n .unmeasured }

/-- The bits of a verdict the evaluator writes (R112). -/
def Context.setBits (x : Context) (placement site component : Nat) (v : Verdict) : Context :=
  if v.isDefect then
    let key := placement * 4096 + component
    { x with
      failBits := setInsert site x.failBits
      componentBits := setInsert key x.componentBits
      defective := if key ∈ x.componentBits then x.defective else x.defective + 1 }
  else if v = .pass then { x with passBits := setInsert site x.passBits }
  else x

/-! ### Frames towards a head (R63, R64) -/

/-- A frame raised onto the lane towards a head (R63). -/
def Port.send (f : HeadFrame) (p : Port) : Port := { p with lane := p.lane ++ [f] }

/-- A head is queried: a HEAD_QUERY is sent and the query timer starts, or starts again (R64). -/
def Port.query (expiry : Nat) (p : Port) : Port :=
  { p.send .headQuery with queryTimer := some expiry }

/-- A function applied to every configured port. -/
def State.modConfigured (s : State) (f : PortId → Port → Port) : State :=
  s.modPorts (fun q => q.mapIdx (fun p x => if p.val < s.flow.heads then f p x else x))

end Sys2Proof.Machine
end

