-- ==== Sys2Proof/Machine/Abandon.lean ====
section
/-! DEFINITION. Abandon.lean: what becomes of the work in flight when a context is aborted, decided late
or reset: the alignment (R60), the scan on the head ports (R79), and the window engine's and the
evaluator's work (R93, R101, R108). -/

namespace Sys2Proof.Machine

/-- The alignment in progress for a context is abandoned: lists, locates in flight and skipped set are
given up, and everything recorded stays (R60). -/
def State.abandonAlignment (s : State) (c : CtxId) : State :=
  if s.align.aligning = some c then
    s.modAlign (fun a =>
      { a with aligning := none, lists := Quad.all [], inFlight := Quad.all none, skipped := [] })
  else s

/-- A pool that SCAN_STOP frees: all but one IN_INTAKE (R79). -/
def TilePool.stopped (t : TilePool) : TilePool :=
  if t.state = .inIntake then t else TilePool.empty

/-- The course of a TILE frame arriving when its scan is stopped or the station is reset: stale at its
end (R79, R81); one already cut off stays so. -/
def Course.stopped : Course → Course
  | .cutOff => .cutOff
  | _ => .stale

/-- SCAN_STOP on one configured port (R79). -/
def Port.scanStop (p : Port) : Port :=
  { p.send .scanStop with
    scan := .idle
    startTimer := none
    tileTimer := none
    record := none
    intake := []
    pools := p.pools.map TilePool.stopped
    course := p.course.map Course.stopped }

/-- SCAN_STOP sent to every configured head (R79). -/
def State.scanStop (s : State) : State := s.modConfigured (fun _ => Port.scanStop)

/-- The pool of the item in intake returns to FREE (R74). -/
def State.freeIntakePool (s : State) : State :=
  match s.arbiter.inIntake with
  | some (p, .tile k) => s.modPort p (fun x => { x with pools := x.pools.set k TilePool.empty })
  | _ => s

/-- The intake operation in progress is abandoned: its pool is freed and the path is free (R74, R101). -/
def State.abandonIntake (s : State) : State :=
  s.freeIntakePool.modArbiter (fun a => { a with inIntake := none })

/-- The window engine serves no context (R82). -/
def Engine.toIdle (e : Engine) : Engine :=
  { e with
    service := .idle, served := none, visited := 0, openList := [], front := none, scanRange := none
    openSet := [] }

/-- The accumulators a dropped context held OPEN or QUEUED become FREE; one EVALUATING stays held and
belongs to no context (R83, R101, R108). -/
def dropAccumulators (c : CtxId) (pool : List (Nat × Accumulator)) : List (Nat × Accumulator) :=
  (pool.filter (fun e => !(e.2.holder.any (fun h => h.1 == c) && e.2.state != .evaluating))).map
    (fun e => if e.2.holder.any (fun h => h.1 == c) then (e.1, { e.2 with holder := none }) else e)

/-- The evaluator's part of a drop: the context's queue entries are removed and counted, and an
evaluation of it in progress is marked for discard (R101, R108). -/
def Evaluator.drop (c : CtxId) (v : Evaluator) : Evaluator :=
  { v with
    queue := v.queue.filter (fun e => e.ctx != c)
    entriesRemoved := bump v.entriesRemoved (v.queue.countP (fun e => e.ctx == c))
    current := v.current.map (fun x => if x.entry.ctx = c then { x with discard := true } else x) }

/-- The engine serves the context. -/
def Engine.serves (e : Engine) (c : CtxId) : Bool := e.served.any (fun j => j.ctx == c)

/-- A context is dropped (R101): its arming or scan ends, its queue entries and accumulators are given
up, and its evaluation in progress is marked for discard. -/
def State.dropContext (s : State) (c : CtxId) : State :=
  let s1 :=
    if s.engine.serves c then
      (if s.engine.service = .scanning then s.abandonIntake else s).modEngine Engine.toIdle
    else s
  (s1.modEngine (fun e => { e with pool := dropAccumulators c e.pool })).modEvaluator (Evaluator.drop c)

end Sys2Proof.Machine
end

