-- ==== Sys2Proof/Machine/Lines.lean ====
section
/-! DEFINITION. Lines.lean: the conditions under which the flow controller drives ENTRY_ENABLE, SHIFT,
RELEASE and ROUTE (R25, R29, R34, R35), and the pass that drives them after an event. -/

namespace Sys2Proof.Machine

/-- The levels of ROUTE[1:0] that show a lane (R25). -/
def Route.lines : Route → BitVec 2
  | .review => 0b00
  | .pass => 0b01
  | .rework => 0b10

/-- The default slot is usable: configured, VALID, and of the station's pitch (R29). -/
def State.defaultUsable (s : State) : Option SlotId :=
  match s.flow.config with
  | none => none
  | some c =>
    match c.defaultSlot with
    | none => none
    | some k =>
      match (s.slots.get k).header with
      | some h => if (s.slots.get k).state = .valid ∧ h.pitch = c.pitch then some k else none
      | none => none

/-- No context has a position. -/
def Flow.nobodyAt (w : Flow) (p : Position) : Bool :=
  w.ctxs.p0.position != p && w.ctxs.p1.position != p

/-- The lowest-numbered FREE context (R30, step 1). -/
def Flow.freeCtx (w : Flow) : Option CtxId :=
  if w.ctxs.p0.state = .free then some 0 else if w.ctxs.p1.state = .free then some 1 else none

/-- The lowest-numbered context that satisfies a test; where a rule speaks of one context, assumption log 30. -/
def Flow.findCtx (w : Flow) (p : Context → Bool) : Option CtxId :=
  if p w.ctxs.p0 then some 0 else if p w.ctxs.p1 then some 1 else none

/-- The entry condition (R29). -/
def State.entryCondition (s : State) : Bool :=
  s.flow.station == .running && s.flow.freeCtx.isSome && s.flow.nobodyAt .measure
    && !s.flow.untrackedMeasure && (!s.flow.queue.isEmpty || s.defaultUsable.isSome)

/-- The terms of R34 that concern the context itself. -/
def Context.wantsShift (x : Context) : Bool :=
  x.position == .measure && (x.state == .judging || x.state == .decided) && !x.inTransit && !x.removed

/-- The condition under which SHIFT is high (R34). -/
def State.shiftCondition (s : State) : Bool :=
  (s.flow.findCtx Context.wantsShift).isSome && !s.pins.exitOcc && s.flow.nobodyAt .exit
    && !s.flow.untrackedExit && s.flow.moving

/-- The terms of R35 that concern the context itself. -/
def Context.wantsRelease (x : Context) : Bool :=
  x.position == .exit && x.state == .decided && !x.removed

/-- The lane of a decision record; REVIEW for a record that is not DECIDED. -/
def DecisionRecord.route : DecisionRecord → Route
  | .decided d => d.route
  | _ => .review

/-- The release test (R35): a context that wants release with DOWNSTREAM_READY high and the station
moving becomes RELEASING, and ROUTE is driven with its lane. -/
def State.releaseTest (s : State) : State :=
  if s.flow.moving && s.pins.downstreamReady then
    match s.flow.findCtx Context.wantsRelease with
    | some c =>
      (s.modFlow (fun w => { w with route := (s.decision.records.get c).route })).modCtx c
        (fun x => { x with state := .releasing })
    | none => s
  else s

/-- RELEASE is high while a context is RELEASING and the station is moving; the exit timer starts with
it, starts anew when RELEASE is raised again, and is cancelled when RELEASE drops (R35, R36). -/
def State.driveRelease (s : State) : State :=
  let high := s.flow.moving && (s.flow.findCtx (fun x => x.state == .releasing)).isSome
  s.modFlow (fun w =>
    { w with
      release := high
      exitTimer :=
        if high then (if w.release then w.exitTimer else some (s.after StationConfig.exitTimeout))
        else none })

/-- SHIFT follows its condition (R34). -/
def State.driveShift (s : State) : State := s.modFlow (fun w => { w with shift := s.shiftCondition })

/-- ENTRY_ENABLE follows its condition (R29). -/
def State.driveEntry (s : State) : State :=
  s.modFlow (fun w => { w with entryEnable := s.entryCondition })

/-- The output lines after an event that may have changed a term of their conditions (R25). -/
def State.driveLines (s : State) : State := s.releaseTest.driveRelease.driveShift.driveEntry

end Sys2Proof.Machine
end

