-- ==== Sys2Proof/Machine/Monitor.lean ====
section
/-! DEFINITION. Monitor.lean: process monitoring (chapter 8): drift values, repeat counters and the oven
code recognizer, with the commands REPEAT_SITE_UPDATE, OVEN_SAMPLE and OVEN_RECOGNITION. -/

namespace Sys2Proof.Machine

/-! ### Drift values (R138 to R141) -/

/-- The key of a drift value. -/
def driftKey (k : SlotId) (cls : Nat) : Nat := k.val * 64 + cls

/-- The drift value of a slot and class, none while it is unprimed (R138). -/
def Monitor.driftOf (m : Monitor) (k : SlotId) (cls : Nat) : Option DriftValue :=
  mapGet (driftKey k cls) m.drift

/-- The drift value after a feed (R139, R140). -/
def driftFed (before : Option DriftValue) (low high x : Nat) : DriftValue :=
  let e := driftStep before x
  ⟨e, bandAfter (bandOf before) low high e⟩

/-- A feed of a volume percentage to a drift value, with a DRIFT notice when the band state changes
(R139, R140). The band is read from the class record of the slot's program. -/
def State.feedDrift (s : State) (k : SlotId) (cls x : Nat) : State :=
  match (s.slots.get k).classes[cls]? with
  | none => s
  | some c =>
    let before := s.monitor.driftOf k cls
    let after := driftFed before c.driftLow c.driftHigh x
    let s1 := s.modMonitor (fun m => { m with drift := mapPut (driftKey k cls) after m.drift })
    if after.band = bandOf before then s1
    else s1.raise (.drift k cls (bandOf before) after.band (some after.e))

/-- A drift value is unprimed, with a DRIFT notice when its band state was not INSIDE (R141). -/
def State.unprime (s : State) (k : SlotId) (cls : Nat) : State :=
  match s.monitor.driftOf k cls with
  | none => s
  | some d =>
    let s1 := s.modMonitor (fun m => { m with drift := mapDel (driftKey k cls) m.drift })
    if d.band = .inside then s1 else s1.raise (.drift k cls d.band .inside none)

/-- The values of a run of classes are unprimed in ascending class (R141). -/
def State.unprimeRun (s : State) (k : SlotId) (first n : Nat) : State :=
  (List.range n).foldl (fun s i => s.unprime k (first + i)) s

/-! ### Repeat counters and requests (R143 to R146) -/

/-- The key of a repeat counter. -/
def repeatKey (k : SlotId) (site : Nat) : Nat := k.val * 8192 + site

/-- A repeat counter (R143); one that is not listed is 0. -/
def Monitor.repeatOf (m : Monitor) (k : SlotId) (site : Nat) : Nat :=
  (mapGet (repeatKey k site) m.repeats).getD 0

/-- A repeat counter set; 0 takes the entry out, so that equal counters are equal data. -/
def Monitor.setRepeat (m : Monitor) (k : SlotId) (site n : Nat) : Monitor :=
  { m with
    repeats :=
      if n = 0 then mapDel (repeatKey k site) m.repeats else mapPut (repeatKey k site) n m.repeats }

/-- Every repeat counter of a slot becomes 0 (R9, R146). -/
def Monitor.zeroRepeats (m : Monitor) (k : SlotId) : Monitor :=
  { m with repeats := m.repeats.filter (fun e => e.1 / 8192 != k.val) }

/-- The head request of the list begins, when none is in progress (R145, R146). -/
def Monitor.beginNext (m : Monitor) : Monitor :=
  match m.work, m.requests with
  | none, r :: rest => { m with work := some ⟨r, 0⟩, requests := rest }
  | _, _ => m

/-- A repeat request taken at a decision: it begins, waits, or is dropped (R144). -/
def Monitor.request (r : RepeatRequest) (m : Monitor) : Monitor :=
  if m.work.isNone then { m with work := some ⟨r, 0⟩ }
  else if m.requests.length < Config.repeatListSize then { m with requests := m.requests ++ [r] }
  else { m with requestsLost := bump m.requestsLost 1 }

/-- The number of a slot's requests, waiting and in progress (R146). -/
def Monitor.requestsFor (m : Monitor) (k : SlotId) : Nat :=
  m.requests.countP (fun r => r.slot == k)
    + (match m.work with
       | some w => if w.request.slot = k then 1 else 0
       | none => 0)

/-- The waiting and running requests of a slot are discarded and the head of the list begins when one
was in progress (R146). -/
def Monitor.discardRequests (m : Monitor) (k : SlotId) : Monitor :=
  let waiting := m.requests.filter (fun r => r.slot != k)
  match m.work with
  | some w =>
    if w.request.slot = k then Monitor.beginNext { m with requests := waiting, work := none }
    else { m with requests := waiting }
  | none => { m with requests := waiting }

/-- A site's counter after it has been worked: up by 1 to at most 255 when it failed, 0 when it only
passed, else unchanged (R145). -/
def repeatAfter (failed passed : Bool) (n : Nat) : Nat :=
  if failed then min (n + 1) 255 else if passed then 0 else n

/-- A repeat update works one site (R145): a REPEAT notice when the counter reaches the limit from one
less, and after the last site the update completes and the next request begins. -/
def State.repeatSite (s : State) : State :=
  match s.monitor.work with
  | none => s
  | some w =>
    let r := w.request
    let before := s.monitor.repeatOf r.slot w.next
    let after := repeatAfter (decide (w.next ∈ r.failBits)) (decide (w.next ∈ r.passBits)) before
    let s1 := s.modMonitor (fun m => m.setRepeat r.slot w.next after)
    let s2 :=
      if r.limit ≠ 0 ∧ before + 1 = r.limit ∧ after = r.limit then
        s1.raise (.repeatSite r.slot w.next after r.seq)
      else s1
    s2.modMonitor (fun m =>
      if r.sites ≤ w.next + 1 then
        Monitor.beginNext { m with work := none, updates := bump m.updates 1 }
      else { m with work := some ⟨r, w.next + 1⟩ })

/-- REPEAT_SITE_UPDATE (R145). With no request in progress there is no site to work (assumption log 3). -/
def execRepeatSiteUpdate (s : State) : Result := .next s.repeatSite.pump

/-! ### The oven code recognizer (R148 to R150) -/

/-- A code is in the deviating set of the configuration in force; in OFFLINE none is (R149). -/
def Flow.deviating (w : Flow) (code : BitVec 4) : Bool :=
  match w.config with
  | some c => c.deviating.getLsbD code.toNat
  | none => false

/-- A recognition joins the change buffer, which keeps the first and the latest change (R149, step 3). -/
def Monitor.addChange (m : Monitor) (code : BitVec 4) (time : Nat) : Monitor :=
  match m.changes with
  | first :: _ :: _ =>
    { m with changes := [first, (code, time)], overwrites := min (m.overwrites + 1) 65535 }
  | other => { m with changes := other ++ [(code, time)] }

/-- An oven code is recognized (R148, R149). -/
def State.recognize (s : State) (code : BitVec 4) : State :=
  let dev := s.flow.deviating code
  let hold := match s.flow.config with
    | some c => if dev then c.ovenHold else s.monitor.hold
    | none => s.monitor.hold
  (s.modMonitor (fun m =>
    Monitor.addChange
      { m with recognized := code, hold := hold, recognitions := bump m.recognitions 1 }
      code s.now)).raise (.ovenCode code s.monitor.recognized s.now dev hold)

/-- The candidate and the run length after a sample (R148). -/
def Monitor.sampled (m : Monitor) (code : BitVec 4) : Monitor :=
  if 0 < m.runLength ∧ m.candidate = some code then { m with runLength := min (m.runLength + 1) 4 }
  else { m with candidate := some code, runLength := 1 }

/-- One millisecond passes and OVEN[3:0] is sampled: a run of four of a code other than the recognized
one is recognized in the event of its fourth sample (R148, R149). -/
def State.sampleOven (s : State) (code : BitVec 4) : State :=
  let s1 := { s with
    now := s.now + 1
    pins := { s.pins with oven := code }
    monitor := s.monitor.sampled code }
  if s1.monitor.runLength = 4 ∧ code ≠ s1.monitor.recognized then s1.recognize code else s1

/-- The samples of a code still wanted for a run of four (R148). -/
def Monitor.samplesWanted (m : Monitor) (code : BitVec 4) : Nat :=
  if m.candidate = some code then 4 - m.runLength else 4

/-- n samples of one code. -/
def State.sampleRun (s : State) (code : BitVec 4) : Nat → State
  | 0 => s
  | n + 1 => (s.sampleOven code).sampleRun code n

/-- OVEN_SAMPLE (R148). A false ready lowers the level of DOWNSTREAM_READY, whose fall is no event
(R24; assumption log 5). -/
def execOvenSample (code : BitVec 4) (ready : Bool) (s : State) : Result :=
  .next ((s.sampleOven code).modPins
    (fun p => { p with downstreamReady := p.downstreamReady && ready })).pump

/-- OVEN_RECOGNITION (R149): the code is held for as many samples as its run of four still wants
(assumption log 10). -/
def execOvenRecognition (code : BitVec 4) (s : State) : Result :=
  .next (s.sampleRun code (s.monitor.samplesWanted code)).pump

/-- The process flag the monitor supplies to an arriving panel (R150, step 1). -/
def State.processFlag (s : State) : Bool :=
  s.flow.deviating s.monitor.recognized || decide (0 < s.monitor.hold)

/-- The hold counter after an arrival (R150, step 2). -/
def State.countDownHold (s : State) : State :=
  if s.flow.deviating s.monitor.recognized then s
  else s.modMonitor (fun m => { m with hold := m.hold - 1 })

end Sys2Proof.Machine
end

