-- ==== Sys2Proof/Machine/Decision.lean ====
section
/-! DEFINITION. Decision.lean: the decision unit (chapter 7): normal, late and aborted decisions and the
handing on of a decision, with the command TAKT_DEADLINE_EXPIRY. -/

namespace Sys2Proof.Machine

/-- The summary of a panel (R133). -/
def Context.summary (x : Context) (d : Decision) : Summary :=
  { seq := x.seq, tag := x.tag, slot := x.slot, route := d.route, late := x.lateFlag
    aborted := x.abortedFlag, process := x.processFlag, alignFault := x.alignFault, counts := x.counts
    defective := x.defective, skippedPlacements := x.skippedPlacements, unverified := x.unverified
    lostLog := x.lostLog, timeToDecision := d.time - x.arrival }

/-- The counters of a decision (R136). -/
def DecisionUnit.count (d : Decision) (u : DecisionUnit) : DecisionUnit :=
  let u1 := match d.kind with
    | .normal => { u with normal := bump u.normal 1 }
    | .late => { u with late := bump u.late 1 }
    | .aborted => { u with aborted := bump u.aborted 1 }
  match d.route with
  | .pass => { u1 with pass := bump u1.pass 1 }
  | .rework => { u1 with rework := bump u1.rework 1 }
  | .review => { u1 with review := bump u1.review 1 }

/-- The repeat request of a decided panel (R135, R144). -/
def State.repeatRequest (s : State) (c : CtxId) : RepeatRequest :=
  { slot := (s.ctx c).slot, sites := s.sitesOf c, limit := s.headerOf c Header.repeatLimit
    seq := (s.ctx c).seq, failBits := (s.ctx c).failBits, passBits := (s.ctx c).passBits }

/-- The decision of a context as its flags and counts stand (R131). -/
def State.decisionOf (s : State) (c : CtxId) (kind : DecisionKind) (time : Nat) : Decision :=
  let causes := routeCauses (s.ctx c) (s.headerOf c Header.unmeasuredLimit)
  ⟨kind, chooseRoute kind causes, causes, time⟩

/-- The flow controller learns that a context is DECIDED: its takt timer is cancelled and it becomes
DECIDED; a removed context becomes FREE at once, and the release test and the other lines follow (R41). -/
def State.contextDecided (s : State) (c : CtxId) : State :=
  let s1 := s.modCtx c (fun x => { x with state := .decided, taktRunning := false })
  (if (s.ctx c).removed then s1.freeContext c else s1).driveLines

/-- A decision is made and handed on: summary record, PANEL_DECIDED notice, repeat request, counters,
report to the flow controller (R131, R132). -/
def State.makeDecision (s : State) (c : CtxId) (kind : DecisionKind) (time : Nat) : State :=
  let d := s.decisionOf c kind time
  let s1 := s.setDecision c (.decided d)
  let sum := (s1.ctx c).summary d
  let s2 := s1.logRecord c (.summary sum)
  let s3 := s2.raise (.panelDecided sum)
  let s4 := s3.modMonitor (Monitor.request (s.repeatRequest c))
  let s5 := s4.modDecision (DecisionUnit.count d)
  s5.contextDecided c

/-- The evaluator's report that a context has no UNSET entry left (R110, R125): a normal decision when
the context is in JUDGING, else the record becomes COMPLETE. -/
def State.reportComplete (s : State) (c : CtxId) : State :=
  if (s.ctx c).unset = 0 ∧ s.decision.records.get c = .waiting then
    if (s.ctx c).state = .judging then s.makeDecision c .normal s.now else s.setDecision c .complete
  else s

/-- A context enters JUDGING: SHIFT is tested (R34) and a COMPLETE record is decided normally (R125,
R126). -/
def State.enterJudging (s : State) (c : CtxId) : State :=
  let s1 := (s.modCtx c (fun x => { x with state := .judging })).driveLines
  if s1.decision.records.get c = .complete then s1.makeDecision c .normal s1.now else s1

/-- The record is WAITING or COMPLETE: its panel is not yet decided (R127, R129). -/
def DecisionRecord.isOpen : DecisionRecord → Bool
  | .waiting => true
  | .complete => true
  | _ => false

/-- A late decision (R127): the context's work is abandoned or dropped, its UNSET entries are filled
with LATE, and it is decided at its deadline. SCAN_STOP goes out only for a context in SCANNING. -/
def State.lateDecision (s : State) (c : CtxId) : State :=
  let s1 := s.modCtx c (fun x => { x with lateFlag := true })
  let s2 := s1.abandonAlignment c
  let s3 := if (s.ctx c).state = .scanning then s2.scanStop else s2
  let s4 := (s3.dropContext c).modCtx c (fun x => x.fill .late)
  s4.makeDecision c .late (s.ctx c).deadline

/-- A context is aborted (R37, R129): SCAN_STOP to every configured head, its work abandoned or dropped,
its UNSET entries filled with ABORTED, and the decision made at once. -/
def State.abortContext (s : State) (c : CtxId) : State :=
  if (s.decision.records.get c).isOpen then
    let s1 := (s.scanStop).modCtx c (fun x => { x with abortedFlag := true })
    let s2 := (s1.abandonAlignment c).dropContext c
    let s3 := s2.modCtx c (fun x => x.fill .aborted)
    s3.makeDecision c .aborted s.now
  else s

/-- The context is being measured: ALIGNING, ARMING or SCANNING (R37, R40). -/
def Context.measuring (x : Context) : Bool :=
  x.state == .aligning || x.state == .arming || x.state == .scanning

/-- TAKT_DEADLINE_EXPIRY (R32, R127). The expiry happens only while the context's takt timer runs and
its record is WAITING or COMPLETE; otherwise nothing expires (assumption log 2 and 3). -/
def execTaktDeadlineExpiry (ctx : CtxId) (s : State) : Result :=
  if (s.ctx ctx).taktRunning && (s.decision.records.get ctx).isOpen then
    .next (s.lateDecision ctx).pump
  else .next s

end Sys2Proof.Machine
end

