-- ==== Sys2Proof/Machine/Alignment.lean ====
section
/-! DEFINITION. Alignment.lean: the alignment unit (chapter 3): locate lists and service, the alignment
outcome, with the commands LOCATE_RESULT and LOCATE_TIMER_EXPIRY. -/

namespace Sys2Proof.Machine

/-! ### Locate lists (R44, R45) -/

/-- The configured head whose owned range contains a column (R44). -/
def Flow.headForColumn (w : Flow) (col : Nat) : Option PortId :=
  match w.config with
  | none => none
  | some c =>
    portIds.find? (fun p =>
      match c.ranges[p.val]? with
      | some r => decide (r.start ≤ col) && decide (col < r.stop)
      | none => false)

/-- The locate for a nominal panel position: the expected machine position is the panel stop origin plus
the nominal (R44). -/
def Flow.locateAt (w : Flow) (sought : Sought) (u v radius : Nat) : Locate :=
  match w.config with
  | some c => ⟨sought, c.originX + u, c.originY + v, radius⟩
  | none => ⟨sought, u, v, radius⟩

/-- The head that serves a locate, by the column of its expected x (R44). -/
def Flow.headFor (w : Flow) (l : Locate) : Option PortId := w.headForColumn (l.x / w.pitch)

/-- A locate joins the end of a head's list (R44, R48). -/
def State.listLocate (s : State) (p : PortId) (l : Locate) : State :=
  s.modAlign (fun a => { a with lists := a.lists.set p (a.lists.get p ++ [l]) })

/-- The entry of a fiducial in a context's alignment record. -/
def State.fidEntry (s : State) (c : CtxId) (i : Fin 3) : FidEntry := (s.align.records.get c).fids.get i

/-- The entry of a fiducial written. -/
def State.setFid (s : State) (c : CtxId) (i : Fin 3) (e : FidEntry) : State :=
  s.modRecord c (fun r => { r with fids := r.fids.set i e })

/-- A fiducial record of a context's program. -/
def State.fiducial (s : State) (c : CtxId) (i : Fin 3) : Option Fiducial :=
  (s.slotOf c).fiducials[i.val]?

/-- The outcome says the fiducial is found. -/
def FidOutcome.isFound : FidOutcome → Bool
  | .found _ _ _ _ => true
  | _ => false

/-- A locate for a fiducial's alternate: listed with the head of its column, or OUT_OF_FIELD (R48). -/
def State.seekAlternate (s : State) (c : CtxId) (i : Fin 3) (f : Fiducial) (alt : Nat × Nat) : State :=
  let l := s.flow.locateAt (.fiducial i) alt.1 alt.2 f.radius
  match s.flow.headFor l with
  | some p => (s.setFid c i ⟨.alternate, .pending⟩).listLocate p l
  | none => s.setFid c i ⟨.alternate, .outOfField⟩

/-- A fiducial resolved with an outcome (R47, R48): a primary that is not found and has an alternate is
sought there; any other outcome is recorded. -/
def State.resolveFiducial (s : State) (c : CtxId) (i : Fin 3) (o : FidOutcome) : State :=
  let e := s.fidEntry c i
  match s.fiducial c i with
  | some f =>
    match f.alternate with
    | some alt =>
      if o.isFound = false ∧ e.searched = .primary then s.seekAlternate c i f alt
      else s.setFid c i ⟨e.searched, o⟩
    | none => s.setFid c i ⟨e.searched, o⟩
  | none => s.setFid c i ⟨e.searched, o⟩

/-- How a bad mark resolves (R50). -/
inductive MarkReading where
  | present | absent | unread
deriving DecidableEq, Repr

/-- A placement joins the skipped set (R43). -/
def State.skipPlacement (s : State) (p : Nat) (cause : SkipCause) : State :=
  s.modAlign (fun a => { a with skipped := mapPut p cause a.skipped })

/-- A bad mark resolved (R50). -/
def State.resolveMark (s : State) (c : CtxId) (placement : Nat) : MarkReading → State
  | .present =>
    (s.skipPlacement placement .badMark).modRecord c
      (fun r => { r with marksPresent := r.marksPresent + 1 })
  | .absent => s.modRecord c (fun r => { r with marksAbsent := r.marksAbsent + 1 })
  | .unread => s.modCtx c (fun x => { x with unverified := x.unverified + 1 })

/-- A primary fiducial taken at list building (R44, item 1): listed, or OUT_OF_FIELD for now. -/
def State.seekPrimary (s : State) (c : CtxId) (i : Fin 3) : State :=
  match s.fiducial c i with
  | none => s
  | some f =>
    let l := s.flow.locateAt (.fiducial i) f.u f.v f.radius
    match s.flow.headFor l with
    | some p => s.listLocate p l
    | none => s.setFid c i ⟨.primary, .outOfField⟩

/-- The placement is in an exclusion set (R26, R44). -/
def excludes (e : Option (BitVec 32)) (placement : Nat) : Bool :=
  match e with
  | some m => m.getLsbD placement
  | none => false

/-- A placement taken at list building (R44, item 2). -/
def State.seekPlacement (s : State) (c : CtxId) (i : Nat) (p : Placement) : State :=
  if excludes (s.ctx c).exclusions i then s.skipPlacement i .excluded
  else
    match p.mark with
    | none => s
    | some m =>
      let l := s.flow.locateAt (.mark i) m.u m.v m.radius
      match s.flow.headFor l with
      | some h => s.listLocate h l
      | none => s.resolveMark c i .unread

/-- The placements taken in ascending index (R44, item 2). -/
def State.seekPlacements (s : State) (c : CtxId) : Nat → List Placement → State
  | _, [] => s
  | i, p :: rest => (s.seekPlacement c i p).seekPlacements c (i + 1) rest

/-- A fiducial whose primary was OUT_OF_FIELD at list building has its alternate sought, if its record
holds one (R44, R48). -/
def State.seekOutOfField (s : State) (c : CtxId) (i : Fin 3) : State :=
  if s.fidEntry c i = ⟨.primary, .outOfField⟩ then s.resolveFiducial c i .outOfField else s

/-- The three fiducial indices. -/
def fiducialIds : List (Fin 3) := [0, 1, 2]

/-- A head with no locate in flight and a listed locate is started (R45). -/
def State.startHead (s : State) (p : PortId) : State :=
  match s.align.inFlight.get p, s.align.lists.get p with
  | none, l :: rest =>
    let n := s.align.nextNumber.get p
    (s.modAlign (fun a =>
      { a with
        lists := a.lists.set p rest
        inFlight := a.inFlight.set p (some ⟨l, n, s.after StationConfig.locateTimeout⟩)
        nextNumber := a.nextNumber.set p (n + 1) })).modPort p
      (Port.send (.locate n (match l.sought with
        | .mark _ => true
        | .fiducial _ => false) l.x l.y l.radius))
  | _, _ => s

/-- Every head that can be started is (R45). -/
def State.startHeads (s : State) : State := portIds.foldl State.startHead s

/-! ### The outcome (R51 to R59) -/

/-- No list holds a locate, no head has one in flight and no fiducial is PENDING (R51). -/
def State.alignmentOver (s : State) (c : CtxId) : Bool :=
  s.align.lists.toList.all List.isEmpty && s.align.inFlight.toList.all Option.isNone
    && fiducialIds.all (fun i => (s.fidEntry c i).outcome != .pending)

/-- The cause in the verdict table of a placement in the skipped set. -/
def SkipCause.cause : SkipCause → Cause
  | .badMark => .badMark
  | .excluded => .excluded

/-- The entry ALIGN_FAULT writes for a joint (R59). -/
def alignFaultEntry (skipped : List (Nat × SkipCause)) (sites j : Nat) : VerdictEntry :=
  match mapGet (j / sites) skipped with
  | some k => ⟨.skipped, some k.cause, FlagSet.none⟩
  | none => ⟨.unmeasured, some .notAligned, FlagSet.none⟩

/-- A verdict written for every joint of the panel, in ascending joint index (R59). -/
def Context.writeAll (x : Context) (f : Nat → VerdictEntry) : Context :=
  (List.range x.verdicts.length).foldl (fun x j => x.write j (f j)) x

/-- The alignment ends in ALIGN_FAULT (R59): flag and cause are set, every joint is written, and the
report makes the normal decision (R125). The skipped set stays until the next alignment begins (the
model's choice, assumption log 36). -/
def State.alignFault (s : State) (c : CtxId) (cause : AlignCause) : State :=
  let skipped := s.align.skipped
  let sites := s.sitesOf c
  let s1 := (s.modRecord c (fun r => { r with cause := some cause })).modAlign
    (fun a => { a with aligning := none })
  let s2 := s1.modCtx c (fun x =>
    { x with alignFault := some cause, skippedPlacements := skipped.length })
  let s3 := (s2.modCtx c (fun x => x.writeAll (alignFaultEntry skipped sites))).reportComplete c
  if s3.decision.records.get c = .complete then s3.makeDecision c .normal s3.now else s3

/-- The alignment succeeds (R58): its terms are recorded and stored, the window engine takes them over
with the skipped set and the region (R87), and the context moves to ARMING (R31). The alignment unit's
own skipped set stays until the next alignment begins (the model's choice, assumption log 36). -/
def State.alignSuccess (s : State) (c : CtxId) (t : Transform) (residual : Nat) (p : Plane) : State :=
  let skipped := s.align.skipped
  let s1 := s.modRecord c (fun r =>
    { r with terms := some (t.a, t.b), residual := some residual, slopes := some (p.gx, p.gy) })
  let s2 := s1.modAlign (fun a =>
    { a with aligning := none, transform := some t, plane := some p })
  let s3 := s2.modCtx c (fun x =>
    { x with skippedPlacements := skipped.length, state := .arming })
  s3.modEngine (fun e =>
    { e with
      service := .arming, served := some ⟨c, t, p, skipped, (s.ctx c).region⟩, visited := 0
      openList := [], front := none, scanRange := none, openSet := [] })

/-- What the arithmetic of an alignment finds (R51). -/
inductive AlignOutcome where
  | success (t : Transform) (residual : Nat) (p : Plane)
  | fault (cause : AlignCause) (residual : Option Nat)
deriving DecidableEq, Repr

/-- The checks of an alignment in their order (R51, R53, R55, R56), from the nominals used and the
measured positions and heights. -/
def alignmentOutcome (h : Header) (n1 n2 n3 m1 m2 m3 : Point) (z1 z2 z3 : Int) : AlignOutcome :=
  let t := solveTransform n1 n2 m1 m2
  if h.scaleLimit < (t.a - 65536).natAbs then .fault .scale none
  else if h.rotationLimit < t.b.natAbs then .fault .rotation none
  else
    let r := residualOf t n3 m3
    if h.residualLimit < r then .fault .residual (some r)
    else if planeDet m1 m2 m3 = 0 then .fault .slope (some r)
    else
      let p := solvePlane m1 m2 m3 z1 z2 z3
      if h.slopeLimit < p.gx.natAbs ∨ h.slopeLimit < p.gy.natAbs then .fault .slope (some r)
      else .success t r p

/-- The nominal and the measured position of a found fiducial (R51). -/
def foundFiducial (e : FidEntry) (f : Fiducial) : Option (Point × Point × Int) :=
  match e.outcome, f.nominal (e.searched == .alternate) with
  | .found x y z _, some n => some (n, (x, y), z)
  | _, _ => none

/-- The outcome of a context's alignment from its record and program: FIDUCIAL_MISSING unless all three
fiducials are found, else what the arithmetic gives (R51). -/
def State.outcomeOf (s : State) (c : CtxId) : AlignOutcome :=
  let at' (i : Fin 3) : Option (Point × Point × Int) :=
    (s.fiducial c i).bind (foundFiducial (s.fidEntry c i))
  match (s.slotOf c).header, at' 0, at' 1, at' 2 with
  | some h, some (n1, m1, z1), some (n2, m2, z2), some (n3, m3, z3) =>
    alignmentOutcome h n1 n2 n3 m1 m2 m3 z1 z2 z3
  | _, _, _, _ => .fault .fiducialMissing none

/-- The alignment ends when its last locate is resolved (R51). -/
def State.alignmentTest (s : State) : State :=
  match s.align.aligning with
  | none => s
  | some c =>
    if s.alignmentOver c then
      match s.outcomeOf c with
      | .success t r p => s.alignSuccess c t r p
      | .fault cause r => (s.modRecord c (fun x => { x with residual := r })).alignFault c cause
    else s

/-- The alignment of a newly arrived context begins: its lists are built and its heads started (R43,
R44). What the skipped set held of an alignment that ended is emptied here (the model's choice, assumption
log 36). -/
def State.beginAlignment (s : State) (c : CtxId) : State :=
  let s1 := s.modAlign (fun a =>
    { a with
      aligning := some c, lists := Quad.all [], inFlight := Quad.all none, skipped := []
      records := a.records.set c AlignRecord.clear })
  let s2 := fiducialIds.foldl (fun s i => s.seekPrimary c i) s1
  let s3 := s2.seekPlacements c 0 (s.slotOf c).placements
  let s4 := fiducialIds.foldl (fun s i => s.seekOutOfField c i) s3
  s4.startHeads.alignmentTest

/-! ### Locate answers (R46, R47, R50, R190) -/

/-- What a LOCATE_RESULT says once its body is checked against the answer it names (R189, R190). -/
inductive LocateAnswer where
  | found (x y z : Int) (quality : Nat)
  | markPresent
  | markAbsent
  | notFound
  | headError
deriving DecidableEq, Repr

/-- The answer of a LOCATE_RESULT body; a body of the wrong length, of an unknown answer code, or that
does not match the answer it names is HEAD_ERROR (R47, R189, R190). -/
def LocateAnswer.ofBody (b : List Byte) : LocateAnswer :=
  if b.length = 15 then
    let z := i32 b 10
    let blank := (b.drop 2).all (fun c => c == 0)
    match u8 b 1 with
    | 0 =>
      if u8 b 14 ≤ 100 ∧ withinI (-32767) 32767 z then .found (i32 b 2) (i32 b 6) z (u8 b 14)
      else .headError
    | 1 => if blank then .markPresent else .headError
    | 2 => if blank then .markAbsent else .headError
    | 3 => if blank then .notFound else .headError
    | _ => .headError
  else .headError

/-- The outcome an answer gives a fiducial (R47). -/
def LocateAnswer.outcome : LocateAnswer → FidOutcome
  | .found x y z q => .found x y z q
  | .notFound => .notFound
  | .markPresent | .markAbsent | .headError => .headError

/-- The reading an answer gives a bad mark (R50). -/
def LocateAnswer.reading : LocateAnswer → MarkReading
  | .markPresent => .present
  | .markAbsent => .absent
  | .found _ _ _ _ | .notFound | .headError => .unread

/-- The locate in flight on a head is resolved: its timer is cancelled, its fiducial or mark takes the
outcome, heads are started again, and the end of the alignment is tested (R45 to R51). -/
def State.resolveLocate (s : State) (p : PortId) (o : FidOutcome) (r : MarkReading) : State :=
  match s.align.inFlight.get p, s.align.aligning with
  | some f, some c =>
    let s1 := s.modAlign (fun a => { a with inFlight := a.inFlight.set p none })
    let s2 := match f.locate.sought with
      | .fiducial i => s1.resolveFiducial c i o
      | .mark m => s1.resolveMark c m r
    s2.startHeads.alignmentTest
  | _, _ => s

/-- A frame from a head restarts the tile timer of a port that is RECEIVING (R77). -/
def State.heard (s : State) (p : PortId) : State :=
  s.modPort p (fun x =>
    if x.scan = .receiving then { x with tileTimer := some (s.after StationConfig.tileTimeout) } else x)

/-- A frame is discarded as stale: STALE rises by 1 (R65, R80). -/
def State.countStale (s : State) (p : PortId) : State :=
  s.modPort p (Port.count (fun k => { k with stale := bump k.stale 1 }))

/-- FRAME_ERRORS rises by 1 (R63, R80). -/
def State.countFrameError (s : State) (p : PortId) : State :=
  s.modPort p (Port.count (fun k => { k with frameErrors := bump k.frameErrors 1 }))

/-- A LOCATE_RESULT taken by the alignment unit (R46): an error end resolves the locate in flight
whatever the frame carries, a good end resolves it when the locate number is its own, and every other
frame is stale. -/
def State.locateFrame (s : State) (p : PortId) (good : Bool) (body : List Byte) : State :=
  match s.align.inFlight.get p, s.align.aligning with
  | some f, some _ =>
    if good = false then (s.resolveLocate p .headError .unread).pump
    else if body.head? = some f.number then
      (s.resolveLocate p (LocateAnswer.ofBody body).outcome (LocateAnswer.ofBody body).reading).pump
    else s.countStale p
  | _, _ => s.countStale p

/-- LOCATE_RESULT (R46, R63): a frame on an unconfigured port is stale; one with an error end or of the
wrong length is counted as a frame error and taken by the alignment unit all the same. -/
def execLocateResult (port : PortId) (good : Bool) (body : List Byte) (s : State) : Result :=
  if s.configured port then
    let s1 := s.heard port
    let s2 := if good && body.length == 15 then s1 else s1.countFrameError port
    .next (s2.locateFrame port good body)
  else .next (s.countStale port)

/-- LOCATE_TIMER_EXPIRY (R49). With no locate in flight on the head no timer runs (assumption log 3). -/
def execLocateTimerExpiry (port : PortId) (s : State) : Result :=
  match s.align.inFlight.get port with
  | some _ =>
    let s1 := s.modAlign (fun a =>
      { a with locateTimeouts := a.locateTimeouts.set port (bump (a.locateTimeouts.get port) 1) })
    .next (s1.resolveLocate port .noAnswer .unread).pump
  | none => .next s

end Sys2Proof.Machine
end

