-- ==== Sys2Proof/Machine/Window.lean ====
section
/-! DEFINITION. Window.lean: the window engine (chapter 5): arming, opening, sample addition and closing,
and the evaluator's taking of the next entry, with the commands ARMING_JOINT_VISIT and ARMING_COMPLETE. -/

namespace Sys2Proof.Machine

/-! ### Rectangles, spans and dependencies (R85, R86, R89) -/

/-- The rectangle about a centre with half-sizes, under pitch P (R85). -/
def rectAbout (P : Nat) (centre : Point) (hx hy : Nat) : Rect :=
  { i0 := ceilDiv (centre.1 - hx) P, i1 := floorDiv (centre.1 + hx) P
    j0 := ceilDiv (centre.2 - hy) P, j1 := floorDiv (centre.2 + hy) P }

/-- The number of samples of a rectangle (R85). -/
def Rect.count (r : Rect) : Nat := ((r.i1 - r.i0 + 1) * (r.j1 - r.j0 + 1)).toNat

/-- The rectangle holds the sample of column i and row j. -/
def Rect.contains (r : Rect) (i j : Int) : Bool :=
  decide (r.i0 ≤ i) && decide (i ≤ r.i1) && decide (r.j0 ≤ j) && decide (j ≤ r.j1)

/-- A column lies in an owned range (R44, R89). -/
def OwnedRange.holds (r : OwnedRange) (i : Int) : Bool := decide ((r.start : Int) ≤ i) && decide (i < r.stop)

/-- Every column of a rectangle lies in some owned range and every row in 0 to 65,535 (R89). -/
def Rect.inField (r : Rect) (ranges : List OwnedRange) : Bool :=
  (List.range (r.i1 - r.i0 + 1).toNat).all (fun k => ranges.any (fun o => o.holds (r.i0 + k)))
    && decide (0 ≤ r.j0) && decide (r.j1 ≤ 65535)

/-- The heads whose owned range shares a column with the span from lo to hi (R86). -/
def dependencies (ranges : List OwnedRange) (lo hi : Int) : List PortId :=
  portIds.filter (fun p =>
    match ranges[p.val]? with
    | some o => decide ((o.start : Int) ≤ hi) && decide (lo < o.stop)
    | none => false)

/-- The region test of R88, step 1: the pad centre lies on or within the region. -/
def Region.admits (r : Region) (p : Point) : Bool :=
  decide ((r.u0 : Int) ≤ p.1) && decide (p.1 ≤ r.u1) && decide ((r.v0 : Int) ≤ p.2)
    && decide (p.2 ≤ r.v1)

/-- What arming makes of a joint (R87 to R89). -/
inductive Armed where
  | skipped (cause : Cause)
  | outOfField
  | listed (e : ArmedJoint)
deriving DecidableEq, Repr

/-- A joint of an inspected placement taken through the steps of R88 and the field check of R89. -/
def armJoint (P : Nat) (ranges : List OwnedRange) (t : Transform) (region : Option Region)
    (margin : Nat) (joint pi si : Nat) (p : Placement) (s : Site) : Armed :=
  let centre := p.point s.bu s.bv
  if region.any (fun r => !r.admits centre) then .skipped .outOfRegion
  else
    let m := t.map centre
    let pad := rectAbout P m s.hx s.hy
    let outer := rectAbout P m (s.hx + margin) (s.hy + margin)
    let gap := s.gap.map (fun g => rectAbout P (t.map (p.point g.u g.v)) g.hx g.hy)
    let all := outer :: gap.toList
    let lo := all.foldl (fun a r => min a r.i0) outer.i0
    let hi := all.foldl (fun a r => max a r.i1) outer.i1
    let m0 := all.foldl (fun a r => min a r.j0) outer.j0
    let m1 := all.foldl (fun a r => max a r.j1) outer.j1
    if all.all (fun r => r.inField ranges) then
      .listed
        { joint := joint, placement := pi, site := si, cls := s.cls, pad := pad, outer := outer
          gap := gap, nExpPad := pad.count, nExpCollar := outer.count - pad.count
          nExpGap := match gap with
            | some g => g.count
            | none => 0
          firstBlock := (floorDiv m0 4).toNat, lastBlock := (floorDiv m1 4).toNat
          deps := dependencies ranges lo hi }
    else .outOfField

/-- An entry placed in the open-order list: by first row block, then by joint index (R91). -/
def insertArmed (e : ArmedJoint) : List ArmedJoint → List ArmedJoint
  | [] => [e]
  | h :: rest =>
    if e.firstBlock < h.firstBlock ∨ (e.firstBlock = h.firstBlock ∧ e.joint < h.joint) then
      e :: h :: rest
    else h :: insertArmed e rest

/-! ### Verdicts written by the window engine (R90) -/

/-- A verdict entry with no flags. -/
def plainEntry (v : Verdict) (cause : Cause) : VerdictEntry := ⟨v, some cause, FlagSet.none⟩

/-- The window engine writes a joint UNMEASURED, hands its defect record, and a write that leaves no
entry UNSET is reported (R90, R110, R154). -/
def State.writeOff (s : State) (c : CtxId) (joint placement site : Nat) (cause : Cause) : State :=
  let s1 := s.modCtx c (fun x => x.write joint (plainEntry .unmeasured cause))
  let r : DefectRecord :=
    { seq := (s.ctx c).seq, placement := placement, site := site, verdict := .unmeasured
      cause := some cause, flags := FlagSet.none, volPct := none, peak := none, offset := none
      coverage := none }
  (s1.logRecord c (.defect r)).reportComplete c

/-- The window engine writes a joint SKIPPED (R87, R88, R90). -/
def State.writeSkipped (s : State) (c : CtxId) (joint : Nat) (cause : Cause) : State :=
  (s.modCtx c (fun x => x.write joint (plainEntry .skipped cause))).reportComplete c

/-! ### Arming (R87 to R92) -/

/-- The cause of a placement in a skipped set, as a verdict cause. -/
def skippedCause (skipped : List (Nat × SkipCause)) (placement : Nat) : Option Cause :=
  match mapGet placement skipped with
  | some .badMark => some .badMark
  | some .excluded => some .excluded
  | none => none

/-- The owned ranges of the configured heads. -/
def Flow.ranges (w : Flow) : List OwnedRange :=
  match w.config with
  | some c => c.ranges
  | none => []

/-- A class record of a context's program. -/
def State.classOf (s : State) (c : CtxId) (cls : Nat) : Option ClassRecord := (s.slotOf c).classes[cls]?

/-- What arming makes of a joint of the served context (R87, R88, R89). -/
def State.armingOf (s : State) (j : Served) (joint : Nat) : Option Armed :=
  let sites := s.sitesOf j.ctx
  match skippedCause j.skipped (joint / sites) with
  | some cause => some (.skipped cause)
  | none =>
    match (s.slotOf j.ctx).placements[joint / sites]?, (s.slotOf j.ctx).sites[joint % sites]? with
    | some p, some t =>
      let margin := match s.classOf j.ctx t.cls with
        | some c => c.collarMargin
        | none => 0
      some (armJoint s.flow.pitch s.flow.ranges j.transform j.region margin joint (joint / sites)
        (joint % sites) p t)
    | _, _ => none

/-- The joint count of a context's panel: its verdict table has one entry per joint (R28). -/
def State.jointCount (s : State) (c : CtxId) : Nat := (s.ctx c).verdicts.length

/-- The engine visits the next joint of the panel it is arming (R87). -/
def State.visitJoint (s : State) : State :=
  match s.engine.service, s.engine.served with
  | .arming, some j =>
    if s.engine.visited < s.jointCount j.ctx then
      let n := s.engine.visited
      let s1 := s.modEngine (fun e => { e with visited := e.visited + 1 })
      match s.armingOf j n with
      | some (.skipped cause) => s1.writeSkipped j.ctx n cause
      | some .outOfField =>
        s1.writeOff j.ctx n (n / s.sitesOf j.ctx) (n % s.sitesOf j.ctx) .outOfField
      | some (.listed a) => s1.modEngine (fun e => { e with openList := insertArmed a e.openList })
      | none => s1
    else s
  | _, _ => s

/-- n joints visited one after another. -/
def State.visitJoints (s : State) : Nat → State
  | 0 => s
  | n + 1 => s.visitJoint.visitJoints n

/-- ARMING_JOINT_VISIT (R87). With no arming in progress, or no joint left, none is visited (assumption
log 3). -/
def execArmingJointVisit (s : State) : Result := .next s.visitJoint.pump

/-- A configured port is set up for a new scan and its head is sent SCAN_START (R66). -/
def Port.scanStart (seq first last : Nat) (r : OwnedRange) (expiry : Nat) (p : Port) : Port :=
  { p.send (.scanStart seq r.start r.stop first last) with
    scan := .starting
    startTimer := some expiry
    tileTimer := none
    intake := []
    record := some
      { seq := seq, first := first, last := last, rangeStart := r.start, rangeStop := r.stop
        lastPos := none, received := 0, mark := (first : Int) - 1, endTaken := false
        silent := false } }

/-- The scan of a context starts on every configured head (R31, R66). -/
def State.startScan (s : State) (c : CtxId) (first last : Nat) : State :=
  s.modConfigured (fun p x =>
    match s.owned p with
    | some r => x.scanStart (s.ctx c).seq first last r (s.after StationConfig.locateTimeout)
    | none => x)

/-- The scan range: the least first and the greatest last row block of the list (R91). -/
def scanRangeOf : List ArmedJoint → Option (Nat × Nat)
  | [] => none
  | e :: rest =>
    some (rest.foldl (fun a x => min a x.firstBlock) e.firstBlock,
      rest.foldl (fun a x => max a x.lastBlock) e.lastBlock)

/-- Arming completes (R92): with a list the engine and the context go to SCANNING and the scan starts;
with none the engine goes IDLE and the context to JUDGING, where it is decided. -/
def State.completeArming (s : State) : State :=
  match s.engine.service, s.engine.served with
  | .arming, some j =>
    match scanRangeOf s.engine.openList with
    | some (first, last) =>
      let s1 := s.modEngine (fun e =>
        { e with service := .scanning, front := none, scanRange := some (first, last) })
      (s1.modCtx j.ctx (fun x => { x with state := .scanning })).startScan j.ctx first last
    | none => (s.modEngine Engine.toIdle).enterJudging j.ctx
  | _, _ => s

/-- The joints arming has still to visit. -/
def State.unvisited (s : State) : Nat :=
  match s.engine.service, s.engine.served with
  | .arming, some j => s.jointCount j.ctx - s.engine.visited
  | _, _ => 0

/-- ARMING_COMPLETE (R92): the joints not yet visited are visited in order, and arming completes
(assumption log 9). -/
def execArmingComplete (s : State) : Result := .next (s.visitJoints s.unvisited).completeArming.pump

/-! ### Opening (R95, R96) -/

/-- An accumulator as a joint takes it (R84). -/
def Accumulator.fresh (c : CtxId) (joint : Nat) : Accumulator :=
  { state := .opened, holder := some (c, joint), padTot := 0, padVal := 0, padSum := 0, padMax := none
    padHi := 0, padSx := 0, padSy := 0, collarTot := 0, collarVal := 0, collarSum := 0, gapTot := 0
    gapHi := 0 }

/-- A joint opens: it takes the lowest-numbered FREE accumulator, or is written UNMEASURED /
NO_ACCUMULATOR (R96, R103). -/
def State.openJoint (s : State) (c : CtxId) (a : ArmedJoint) : State :=
  let n := firstGap s.engine.pool 0
  if n < Config.accumulators then
    s.modEngine (fun e =>
      { e with
        pool := mapPut n (Accumulator.fresh c a.joint) e.pool
        openSet := e.openSet ++ [⟨a, n⟩]
        peak := max e.peak (e.pool.length + 1) })
  else
    (s.modEngine (fun e => { e with exhausted := bump e.exhausted 1 })).writeOff c a.joint a.placement
      a.site .noAccumulator

/-- The listed joints whose first row block is at or below a row block leave the list and open in list
order (R95). -/
def State.openUpTo (s : State) (c : CtxId) (r : Nat) : State :=
  let run := s.engine.openList.takeWhile (fun a => decide (a.firstBlock ≤ r))
  let s1 := s.modEngine (fun e =>
    { e with openList := e.openList.dropWhile (fun a => decide (a.firstBlock ≤ r)) })
  run.foldl (fun s a => s.openJoint c a) s1

/-- The front after an item at row block r (R95). -/
def advanceFront (front : Option Nat) (r : Nat) : Nat :=
  match front with
  | none => r
  | some f => max f r

/-- The opening step of a tile or loss record at row block r (R95). -/
def State.openingStep (s : State) (c : CtxId) (r : Nat) : State :=
  let f := advanceFront s.engine.front r
  (s.modEngine (fun e => { e with front := some f })).openUpTo c f

/-! ### Sample addition (R97, R98) -/

/-- A sample of the pad rectangle (R97); h is its relative height, none for an invalid sample. -/
def Accumulator.addPad (c : ClassRecord) (r : Rect) (i j : Int) (h : Option Int) (a : Accumulator) :
    Accumulator :=
  let a1 := { a with padTot := a.padTot + 1 }
  match h with
  | none => a1
  | some v =>
    let a2 := { a1 with
      padVal := a1.padVal + 1
      padSum := a1.padSum + v
      padMax := some (match a1.padMax with
        | none => v
        | some m => max m v) }
    if (c.tHi : Int) ≤ v then
      { a2 with padHi := a2.padHi + 1, padSx := a2.padSx + (i - r.i0), padSy := a2.padSy + (j - r.j0) }
    else a2

/-- A sample of the collar region (R98). -/
def Accumulator.addCollar (c : ClassRecord) (h : Option Int) (a : Accumulator) : Accumulator :=
  let a1 := { a with collarTot := a.collarTot + 1 }
  match h with
  | some v =>
    if v ≤ (c.collarCeiling : Int) then
      { a1 with collarVal := a1.collarVal + 1, collarSum := a1.collarSum + v }
    else a1
  | none => a1

/-- A sample of the gap rectangle (R98). -/
def Accumulator.addGap (c : ClassRecord) (h : Option Int) (a : Accumulator) : Accumulator :=
  let a1 := { a with gapTot := a.gapTot + 1 }
  match h with
  | some v => if (c.bridgeThreshold : Int) ≤ v then { a1 with gapHi := a1.gapHi + 1 } else a1
  | none => a1

/-- One sample tested against one joint (R97): pad, else collar; and independently the gap. -/
def Accumulator.addSample (c : ClassRecord) (e : ArmedJoint) (i j : Int) (h : Option Int)
    (a : Accumulator) : Accumulator :=
  let a1 :=
    if e.pad.contains i j then a.addPad c e.pad i j h
    else if e.outer.contains i j then a.addCollar c h
    else a
  match e.gap with
  | some g => if g.contains i j then a1.addGap c h else a1
  | none => a1

/-- The relative height of a sample: none for the code -32,768 (R57, R68, R97). -/
def relativeHeight (p : Plane) (P : Nat) (i j h : Int) : Option Int :=
  if h = -32768 then none else some (h - p.height P i j)

/-- The samples of a tile at (r, c) added to one accumulator, in order: sample 64k + m lies at column
c + m and row 4r + k (R68, R97). -/
def addSamples (cls : ClassRecord) (p : Plane) (P : Nat) (e : ArmedJoint) (r c : Nat) :
    Nat → List Int → Accumulator → Accumulator
  | _, [], a => a
  | n, h :: rest, a =>
    let i : Int := (c + n % 64 : Nat)
    let j : Int := (4 * r + n / 64 : Nat)
    addSamples cls p P e r c (n + 1) rest (a.addSample cls e i j (relativeHeight p P i j h))

/-- The accumulator of an open joint after a tile. -/
def State.addTileTo (s : State) (job : Served) (r c : Nat) (samples : List Int)
    (pool : List (Nat × Accumulator)) (o : OpenJoint) : List (Nat × Accumulator) :=
  match mapGet o.acc pool, s.classOf job.ctx o.entry.cls with
  | some a, some cls =>
    mapPut o.acc (addSamples cls job.plane s.flow.pitch o.entry r c 0 samples a) pool
  | _, _ => pool

/-- The sample-addition step of a tile: its samples are tested against every joint of the open set
(R97). -/
def State.additionStep (s : State) (job : Served) (r c : Nat) (samples : List Int) : State :=
  s.modEngine (fun e => { e with pool := e.openSet.foldl (s.addTileTo job r c samples) e.pool })

/-! ### Closing (R99, R100) -/

/-- The progress mark of a port; −1 without a scan record. -/
def State.markOf (s : State) (p : PortId) : Int :=
  match (s.ports.get p).record with
  | some r => r.mark
  | none => -1

/-- A port's progress is complete: its mark is the scan's last row block (R75). -/
def Port.complete (p : Port) : Bool := p.record.any (fun r => r.mark == (r.last : Int))

/-- Every configured port's progress is complete (R100). -/
def State.allComplete (s : State) : Bool :=
  portIds.all (fun p => !s.configured p || (s.ports.get p).complete)

/-- A section of a closing joint holds fewer samples than expected (R99). -/
def isShort (a : ArmedJoint) (x : Accumulator) : Bool :=
  decide (x.padTot < a.nExpPad) || decide (x.collarTot < a.nExpCollar) || decide (x.gapTot < a.nExpGap)

/-- The entry of a closing joint in the evaluation queue (R99). -/
def OpenJoint.entryFor (o : OpenJoint) (c : CtxId) : EvalEntry :=
  { ctx := c, joint := o.entry.joint, placement := o.entry.placement, site := o.entry.site
    cls := o.entry.cls, acc := o.acc, nExpPad := o.entry.nExpPad
    width := o.entry.pad.i1 - o.entry.pad.i0, height := o.entry.pad.j1 - o.entry.pad.j0
    hasGap := o.entry.gap.isSome }

/-- A joint closes: its accumulator becomes QUEUED and its entry joins the evaluation queue; a joint
that lacks samples is counted (R99). -/
def State.closeJoint (s : State) (c : CtxId) (o : OpenJoint) : State :=
  match mapGet o.acc s.engine.pool with
  | none => s
  | some x =>
    (s.modEngine (fun e =>
      { e with
        pool := mapPut o.acc { x with state := .queued } e.pool
        shortJoints := bump e.shortJoints (if isShort o.entry x then 1 else 0) })).modEvaluator
      (fun v => { v with queue := v.queue ++ [o.entryFor c] })

/-- The joints that satisfy a test leave the open set and close in the order in which they opened
(R99). -/
def State.closeWhere (s : State) (c : CtxId) (p : OpenJoint → Bool) : State :=
  let s1 := s.modEngine (fun e => { e with openSet := e.openSet.filter (fun o => !p o) })
  (s.engine.openSet.filter p).foldl (fun s o => s.closeJoint c o) s1

/-- The idle evaluator takes the head entry of its queue, with copies of its class record and of the
pitch (R106). -/
def State.takeEntry (s : State) : State :=
  match s.evaluator.current, s.evaluator.queue with
  | none, e :: rest =>
    match s.classOf e.ctx e.cls with
    | none => s
    | some cls =>
      (s.modEvaluator (fun v => { v with queue := rest, current := some ⟨e, cls, s.flow.pitch, false⟩
        })).modEngine (fun g =>
          { g with
            pool := match mapGet e.acc g.pool with
              | some a => mapPut e.acc { a with state := .evaluating } g.pool
              | none => g.pool })
  | _, _ => s

/-- The closing test (R99), with the end sweep when every configured port's progress is complete
(R100). -/
def State.closingTest (s : State) : State :=
  match s.engine.service, s.engine.served with
  | .scanning, some j =>
    if s.allComplete then
      let last := match s.engine.scanRange with
        | some (_, l) => l
        | none => 0
      let s1 := s.modEngine (fun e => { e with front := some last, openList := [] })
      let s2 := s.engine.openList.foldl (fun s a => s.openJoint j.ctx a) s1
      ((s2.closeWhere j.ctx (fun _ => true)).modEngine Engine.toIdle).takeEntry
    else
      (s.closeWhere j.ctx (fun o =>
        o.entry.deps.all (fun p => decide ((o.entry.lastBlock : Int) ≤ s.markOf p)))).takeEntry
  | _, _ => s

/-! ### The end of a scan (R78) -/

/-- Every configured port is DONE or ABSENT (R78). -/
def State.scanOver (s : State) : Bool :=
  portIds.all (fun p =>
    !s.configured p || (s.ports.get p).scan == .done || (s.ports.get p).scan == .absent)

/-- The head ports report the end of the scan, and the context in SCANNING enters JUDGING (R31, R78). -/
def State.scanEndTest (s : State) : State :=
  if s.scanOver then
    match s.flow.findCtx (fun x => x.state == .scanning) with
    | some c => s.enterJudging c
    | none => s
  else s

end Sys2Proof.Machine
end

