-- ==== Sys2Proof/Machine/Evaluator.lean ====
section
/-! DEFINITION. Evaluator.lean: the completion of an evaluation (chapter 6): what the evaluator hands on
for a kept result and what it discards, with the command EVALUATION_COMPLETE. -/

namespace Sys2Proof.Machine

/-- An accumulator returns to FREE (R83). -/
def Engine.freeAcc (n : Nat) (e : Engine) : Engine := { e with pool := mapDel n e.pool }

/-- The defect record of an evaluated joint (R120). -/
def EvalEntry.defectRecord (e : EvalEntry) (seq : Nat) (r : EvalResult) : DefectRecord :=
  { seq := seq, placement := e.placement, site := e.site, verdict := r.verdict, cause := r.cause
    flags := r.flags
    volPct := if r.verdict.isDefect then r.volPct else none
    peak := if r.verdict.isDefect then r.peak else none
    offset := if r.verdict.isDefect then r.offset else none
    coverage := some r.coverage }

/-- The component index of a site of a context's program. -/
def State.componentOf (s : State) (c : CtxId) (site : Nat) : Nat :=
  match (s.slotOf c).sites[site]? with
  | some t => t.component
  | none => 0

/-- The drift feed of a kept result: every verdict but UNMEASURED feeds vol_pct (R107 step 4, R120). -/
def State.feedResult (s : State) (e : EvalEntry) (r : EvalResult) : State :=
  match r.volPct with
  | some x => if r.verdict = .unmeasured then s else s.feedDrift (s.ctx e.ctx).slot e.cls x
  | none => s

/-- The defect record of a kept result: every verdict but PASS hands one (R107 step 5, R120). -/
def State.logResult (s : State) (e : EvalEntry) (r : EvalResult) : State :=
  if r.verdict = .pass then s
  else s.logRecord e.ctx (.defect (e.defectRecord (s.ctx e.ctx).seq r))

/-- A result is kept: the seven steps of R107 in their order. -/
def State.keepResult (s : State) (e : EvalEntry) (r : EvalResult) : State :=
  let s1 := s.modCtx e.ctx (fun x => x.write e.joint ⟨r.verdict, r.cause, r.flags⟩)
  let s2 := s1.modEngine (Engine.freeAcc e.acc)
  let s3 := s2.modCtx e.ctx
    (fun x => x.setBits e.placement e.site (s.componentOf e.ctx e.site) r.verdict)
  (((s3.feedResult e r).logResult e r).reportComplete e.ctx).modEvaluator
    (fun v => { v with evaluations := bump v.evaluations 1 })

/-- A result is discarded: the accumulator alone is freed and the discard counted (R108). -/
def State.discardResult (s : State) (e : EvalEntry) : State :=
  (s.modEngine (Engine.freeAcc e.acc)).modEvaluator
    (fun v => { v with discarded := bump v.discarded 1 })

/-- An evaluation completes (R107, R108). -/
def State.completeEvaluation (s : State) (x : Evaluation) : State :=
  let s1 := s.modEvaluator (fun v => { v with current := none })
  let s2 :=
    if x.discard then s1.discardResult x.entry
    else
      match mapGet x.entry.acc s.engine.pool with
      | some a => s1.keepResult x.entry (evaluate x.entry x.cls x.pitch a)
      | none => s1
  s2.takeEntry

/-- EVALUATION_COMPLETE (R107, R108). An idle evaluator completes nothing (assumption log 3). -/
def execEvaluationComplete (s : State) : Result :=
  match s.evaluator.current with
  | some x => .next (s.completeEvaluation x).pump
  | none => .next s

end Sys2Proof.Machine
end

