-- ==== Sys2Proof/Machine/Heads.lean ====
section
/-! DEFINITION. Heads.lean: the head ports and the intake arbiter (chapter 4) with the window engine's
intake operation (R94): the frames a head sends, the ports' timers, grants, and progress. -/

namespace Sys2Proof.Machine

/-! ### Grants (R73) -/

/-- The ports in the order the arbiter searches them after the one last granted (R73). -/
def searchOrder (last : PortId) : List PortId := [last + 1, last + 2, last + 3, last + 4]

/-- The port the arbiter grants: the first in turn whose intake list is not empty (R73). -/
def State.nextPort (s : State) : Option PortId :=
  (searchOrder s.arbiter.lastGranted).find? (fun p => !(s.ports.get p).intake.isEmpty)

/-- A pool enters another state. -/
def TilePool.to (st : PoolState) (t : TilePool) : TilePool := { t with state := st }

/-- A port's pool enters another state. -/
def Port.poolTo (k : Fin 2) (st : PoolState) (p : Port) : Port :=
  { p with pools := p.pools.set k ((p.pools.get k).to st) }

/-- The head item of a port's list becomes the item in intake (R73). -/
def State.grantPort (s : State) (p : PortId) : State :=
  match (s.ports.get p).intake with
  | [] => s
  | item :: rest =>
    (s.modPort p (fun x =>
      match item with
      | .tile k => { x with intake := rest }.poolTo k .inIntake
      | _ => { x with intake := rest })).modArbiter
      (fun _ => { lastGranted := p, inIntake := some (p, item) })

/-- The end of an intake operation: its pool is freed, the path is free, and the end of the scan is
tested (R74). -/
def State.releaseIntake (s : State) : State := s.abandonIntake.scanEndTest

/-- Grants while the path is free and an item waits; an item granted while the engine is not SCANNING
completes at once (R73, R94). The first argument bounds the number of grants. -/
def State.grantUpTo : Nat → State → State
  | 0, s => s
  | n + 1, s =>
    match s.arbiter.inIntake, s.nextPort with
    | none, some p =>
      let s1 := s.grantPort p
      if s1.engine.service = .scanning then s1 else State.grantUpTo n s1.releaseIntake
    | _, _ => s

/-- The number of items in all the intake lists. -/
def State.itemsWaiting (s : State) : Nat := (s.ports.toList.map (fun p => p.intake.length)).sum

/-- The arbiter looks for a grant (R73). -/
def State.grant (s : State) : State := State.grantUpTo s.itemsWaiting s

/-! ### Intake lists (R72) -/

/-- An item joins the tail of an intake list; a loss record at the tail is replaced by a new one
(R72). -/
def joinIntake (item : IntakeItem) (l : List IntakeItem) : List IntakeItem :=
  match item, l.getLast? with
  | .loss _ _, some (.loss _ _) => l.dropLast ++ [item]
  | _, _ => l ++ [item]

/-- An item joins a port's intake list. -/
def Port.join (item : IntakeItem) (p : Port) : Port := { p with intake := joinIntake item p.intake }

/-- A port's scan record changed. -/
def Port.modRecord (f : ScanRecord → ScanRecord) (p : Port) : Port := { p with record := p.record.map f }

/-! ### Faulted heads and queries (R64, R67, R77) -/

/-- A port's head is queried with the configured locate timeout (R64). -/
def State.queryPort (s : State) (p : PortId) : State :=
  s.modPort p (Port.query (s.after StationConfig.locateTimeout))

/-- A head is declared faulted: a HEAD_FAULT notice, HEAD_FAULTS up by 1, and a query (R64, R67, R77,
R80). -/
def State.faultHead (s : State) (p : PortId) (cause : HeadFaultCause) (mark : Option Int) : State :=
  let seq := match (s.ports.get p).record with
    | some r => r.seq
    | none => 0
  ((s.raise (.headFault p cause seq mark (s.ports.get p).link)).modPort p
    (Port.count (fun k => { k with headFaults := bump k.headFaults 1 }))).queryPort p

/-- QUERY_TIMER_EXPIRY (R64). With no query timer running nothing expires (assumption log 3). -/
def execQueryTimerExpiry (port : PortId) (s : State) : Result :=
  match (s.ports.get port).queryTimer with
  | some _ => .next (s.modPort port (fun x => { x with queryTimer := none, link := .notAnswering }))
  | none => .next s

/-- START_TIMER_EXPIRY (R67). Outside STARTING no start timer runs (assumption log 3). -/
def execStartTimerExpiry (port : PortId) (s : State) : Result :=
  if (s.ports.get port).scan = .starting then
    let s1 := s.modPort port (fun x =>
      { x with scan := .absent, startTimer := none }.modRecord (fun r => { r with mark := r.last }))
    .next ((s1.faultHead port .noStart none).closingTest.scanEndTest).pump
  else .next s

/-- The tile frame arriving loses its place when its head falls silent: a frame whose pool was FILLING,
or one that had found none, is cut off (R77; assumption log 21). -/
def Course.silenced : Course → Course
  | .filling _ => .cutOff
  | .overrun => .cutOff
  | other => other

/-- The pool of a frame arriving returns to FREE. -/
def Port.freeFilling (p : Port) : Port :=
  match p.course with
  | some (.filling k) => { p with pools := p.pools.set k TilePool.empty }
  | _ => p

/-- TILE_TIMER_EXPIRY (R77): the scan record keeps that the head was silent, so that a SCAN_END it sends
later in the scan is stale. Outside RECEIVING no tile timer runs (assumption log 3). -/
def execTileTimerExpiry (port : PortId) (s : State) : Result :=
  if (s.ports.get port).scan = .receiving then
    let mark := s.markOf port
    let s1 := s.modPort port (fun x =>
      ({ x.freeFilling with
          scan := .ending
          tileTimer := none
          course := x.course.map Course.silenced }.modRecord
            (fun r => { r with silent := true })).join .endRecord)
    .next ((s1.faultHead port .silent (some mark)).grant).pump
  else .next s

/-! ### HEAD_READY (R63, R64, R66) -/

/-- A good-ended HEAD_READY of the right form: an answer to QUERY needs a running query timer, an answer
to START needs STARTING and the scan's sequence number; any other is stale (R64, R66). -/
def State.headReadyFrame (s : State) (p : PortId) (answer seq : Nat) : State :=
  let x := s.ports.get p
  if answer = 1 then
    if x.queryTimer.isSome then
      s.modPort p (fun x => { x with queryTimer := none, link := .answering })
    else s.countStale p
  else if x.scan = .starting ∧ x.record.any (fun r => r.seq == seq) then
    s.modPort p (fun x =>
      { x with
        scan := .receiving
        startTimer := none
        tileTimer := some (s.after StationConfig.tileTimeout)
        link := .answering
        queryTimer := none })
  else s.countStale p

/-- HEAD_READY (R63, R64, R66, R190). -/
def execHeadReady (port : PortId) (good : Bool) (body : List Byte) (s : State) : Result :=
  if s.configured port then
    let s1 := s.heard port
    if good && body.length == 2 && decide (u8 body 0 ≤ 1) then
      .next (s1.headReadyFrame port (u8 body 0) (u8 body 1))
    else .next (s1.countFrameError port)
  else .next (s.countStale port)

/-- HEAD_UNKNOWN_FRAME (R63). -/
def execHeadUnknownFrame (port : PortId) (s : State) : Result :=
  if s.configured port then .next ((s.heard port).countFrameError port)
  else .next (s.countStale port)

/-! ### Tiles (R69, R70) -/

/-- A position is after another (R69, check 3). -/
def positionAfter (a b : Nat × Nat) : Bool := decide (b.1 < a.1) || (b.1 == a.1 && decide (b.2 < a.2))

/-- The position is not that of a tile the scan expects of this port (R69, check 2). -/
def ScanRecord.isStray (r : ScanRecord) (row col : Nat) : Bool :=
  decide (row < r.first) || decide (r.last < row) || col % 64 != 0 || decide (col < r.rangeStart)
    || decide (r.rangeStop < col + 64)

/-- The position is not after the last accepted one (R69, check 3). -/
def ScanRecord.isOutOfOrder (r : ScanRecord) (row col : Nat) : Bool :=
  match r.lastPos with
  | some p => !positionAfter (row, col) p
  | none => false

/-- The first FREE pool of a port. -/
def Port.freePool (p : Port) : Option (Fin 2) :=
  if p.pools.p0.state = .free then some 0 else if p.pools.p1.state = .free then some 1 else none

/-- The checks of R69 in their order; outside RECEIVING a tile is stale. -/
def Port.courseOf (p : Port) (h : TileHeader) : Course :=
  match p.scan, p.record with
  | .receiving, some r =>
    if h.seq ≠ r.seq then .stale
    else if r.isStray h.rowBlock h.column then .stray
    else if r.isOutOfOrder h.rowBlock h.column then .order
    else
      match p.freePool with
      | none => .overrun
      | some k => .filling k
  | _, _ => .stale

/-- The port's part at the arrival of a tile's header (R69): a tile taken under check 4 or 5 becomes the
last accepted position, and under check 5 a pool becomes FILLING. -/
def Port.takeHeader (h : TileHeader) (p : Port) : Port :=
  let c := p.courseOf h
  let p1 := { p with header := some h, course := some c }
  let accepted := p1.modRecord (fun r => { r with lastPos := some (h.rowBlock, h.column) })
  match c with
  | .overrun => accepted
  | .filling k => { accepted with
      pools := accepted.pools.set k ⟨.filling, h.rowBlock, h.column, []⟩ }
  | .stale | .stray | .order | .cutOff => p1

/-- A header whose tile is not for this scan whatever it says: the tile is stale (R69). -/
def Port.passHeader (h : TileHeader) (p : Port) : Port := { p with header := some h, course := some .stale }

/-- TILE_HEADER (R69), with the fields that tileCommands reads from the frame (R190). An unconfigured port
examines nothing: the frame is stale, and is discarded and counted at its end (R63). -/
def execTileHeader (port : PortId) (seq : Byte) (rowBlock column : U16) (s : State) : Result :=
  let h : TileHeader := ⟨seq.toNat, rowBlock.toNat, column.toNat⟩
  if s.configured port then .next (s.modPort port (Port.takeHeader h))
  else .next (s.modPort port (Port.passHeader h))

/-- The samples of a tile from its data bytes (R68, R190). -/
def samplesOf (data : List Byte) : List Int := (List.range 256).map (fun n => i16 data (2 * n))

/-- The received count of a scan up by 1. -/
def Port.countReceived (p : Port) : Port :=
  p.modRecord (fun r => { r with received := bump r.received 1 })

/-- The counter of a tile that was stale, stray or out of order up by 1 (R69). -/
def PortCounters.discarded (c : Course) (k : PortCounters) : PortCounters :=
  match c with
  | .stale | .cutOff => { k with stale := bump k.stale 1 }
  | .stray => { k with stray := bump k.stray 1 }
  | .order => { k with order := bump k.order 1 }
  | .overrun | .filling _ => k

/-- A tile is lost: its pool, if it holds one, is freed, LOST_TILES rises, and a loss record joins the
list (R70). -/
def Port.loseTile (p : Port) : Port :=
  let p1 := p.freeFilling.count (fun k => { k with lostTiles := bump k.lostTiles 1 })
  match p.header with
  | some h => (p1.join (.loss h.rowBlock h.column)).countReceived
  | none => p1

/-- OVERRUNS up by 1 for a tile that found no pool (R69, check 4). -/
def PortCounters.overran (c : Course) (k : PortCounters) : PortCounters :=
  if c = .overrun then { k with overruns := bump k.overruns 1 } else k

/-- The settling of a tile frame at its end marker (R70); damaged says an error end or a wrong
length. -/
def Port.settle (damaged : Bool) (data : List Byte) (p : Port) : Port :=
  match p.course with
  | none =>
    p.count (fun k =>
      { k with lostTiles := bump k.lostTiles 1, frameErrors := bump k.frameErrors 1 })
  | some .cutOff => p.count (PortCounters.discarded .cutOff)
  | some .overrun =>
    (p.loseTile.count (PortCounters.overran .overrun)).count (fun k =>
      if damaged then { k with frameErrors := bump k.frameErrors 1 } else k)
  | some (.filling k) =>
    if damaged then p.loseTile.count (fun k => { k with frameErrors := bump k.frameErrors 1 })
    else
      ((({ p with pools := p.pools.set k { p.pools.get k with
          state := .waiting, samples := samplesOf data } }).join (.tile k)).countReceived).count
        (fun k => { k with tiles := bump k.tiles 1 })
  | some c =>
    if damaged then
      (p.count (PortCounters.discarded c)).count (fun k =>
        { k with frameErrors := bump k.frameErrors 1 })
    else
      let p1 := p.count (PortCounters.discarded c)
      if c = .stale then p1 else p1.countReceived

/-- The header slot is empty again once the frame has ended (R69). -/
def Port.clearHeader (p : Port) : Port := { p with header := none, course := none }

/-- TILE (R63, R70): the end marker of a tile frame. On a frame whose header did not arrive complete the
port has no course for it. -/
def execTile (port : PortId) (good : Bool) (data : List Byte) (s : State) : Result :=
  if s.configured port then
    let damaged := !(good && data.length == 512)
    .next (((s.heard port).modPort port (fun p => (p.settle damaged data).clearHeader)).grant).pump
  else .next ((s.countStale port).modPort port Port.clearHeader)

/-- A TILE_LOST report taken in RECEIVING (R71); in any other scan state it is stale. -/
def Port.reportLost (row col : Nat) (p : Port) : Port :=
  match p.scan, p.record with
  | .receiving, some r =>
    if r.isStray row col then p.count (PortCounters.discarded .stray)
    else if r.isOutOfOrder row col then p.count (PortCounters.discarded .order)
    else
      ((p.modRecord (fun r => { r with lastPos := some (row, col) })).join (.loss row col)).count
        (fun k => { k with lostTiles := bump k.lostTiles 1 })
  | _, _ => p.count (PortCounters.discarded .stale)

/-- TILE_LOST (R63, R71). -/
def execTileLost (port : PortId) (good : Bool) (body : List Byte) (s : State) : Result :=
  if s.configured port then
    let s1 := s.heard port
    if good && body.length == 4 then
      .next ((s1.modPort port (Port.reportLost (u16 body 0) (u16 body 2))).grant).pump
    else .next (s1.countFrameError port)
  else .next (s.countStale port)

/-! ### SCAN_END (R76) -/

/-- The comparison of the tiles sent with the tiles received, recorded as taken (R76). -/
def Port.compareCounts (sent : Nat) (p : Port) : Port :=
  match p.record with
  | some r =>
    let diff := ((sent : Int) - r.received).natAbs
    (p.modRecord (fun r => { r with endTaken := true })).count
      (fun k => { k with missing := bump k.missing diff })
  | none => p

/-- A good-ended SCAN_END (R76): in RECEIVING it ends the head's part, in DONE it is compared once unless
the head was declared silent in the scan (R77; assumption log 35), and otherwise it is stale. -/
def Port.takeScanEnd (sent : Nat) (p : Port) : Port :=
  if p.scan = .receiving then
    ({ p.compareCounts sent with scan := .ending, tileTimer := none }).join .endRecord
  else if p.scan = .done ∧ p.record.any (fun r => !r.endTaken && !r.silent) then p.compareCounts sent
  else p.count (PortCounters.discarded .stale)

/-- SCAN_END (R63, R76). -/
def execScanEnd (port : PortId) (good : Bool) (body : List Byte) (s : State) : Result :=
  if s.configured port then
    let s1 := s.heard port
    if good && body.length == 4 then
      .next ((s1.modPort port (Port.takeScanEnd (u32 body 0))).grant).pump
    else .next (s1.countFrameError port)
  else .next (s.countStale port)

/-! ### The intake operation (R94) and progress (R75) -/

/-- The row block and first column of an item (R72). -/
def State.itemPlace (s : State) (p : PortId) : IntakeItem → Option (Nat × Nat)
  | .tile k => some (((s.ports.get p).pools.get k).rowBlock, ((s.ports.get p).pools.get k).column)
  | .loss r c => some (r, c)
  | .endRecord => none

/-- The progress mark after an item (R75). -/
def ScanRecord.markAfter (r : ScanRecord) (place : Option (Nat × Nat)) : Int :=
  match place with
  | none => r.last
  | some (row, col) =>
    if col + 64 = r.rangeStop then max r.mark row else max r.mark ((row : Int) - 1)

/-- A port in RECEIVING or ENDING whose progress is complete becomes DONE, and an end record still in
its list is removed (R75). -/
def Port.doneTest (p : Port) : Port :=
  if (p.scan = .receiving ∨ p.scan = .ending) ∧ p.complete then
    { p with scan := .done, tileTimer := none, intake := p.intake.filter (fun i => i != .endRecord) }
  else p

/-- The port's part of the progress step (R74, R75). -/
def Port.progress (place : Option (Nat × Nat)) (p : Port) : Port :=
  (p.modRecord (fun r => { r with mark := r.markAfter place })).doneTest

/-- The opening step of a tile or a loss record and the sample addition of a tile (R94). -/
def State.itemSteps (s : State) (job : Served) (p : PortId) : IntakeItem → State
  | .tile k =>
    let t := (s.ports.get p).pools.get k
    (s.openingStep job.ctx t.rowBlock).additionStep job t.rowBlock t.column t.samples
  | .loss r _ => s.openingStep job.ctx r
  | .endRecord => s

/-- The three steps of an intake operation on an item of a port (R94), closing test included. -/
def State.intakeSteps (s : State) (job : Served) (p : PortId) (item : IntakeItem) : State :=
  ((s.itemSteps job p item).modPort p (Port.progress (s.itemPlace p item))).closingTest

/-- INTAKE_COMPLETE (R94, R74): the operation's steps are made, its pool is freed, the end of the scan is
tested and the arbiter makes its next grant (assumption log 11). With no item in intake there is no
operation to complete (assumption log 3). -/
def execIntakeComplete (s : State) : Result :=
  match s.arbiter.inIntake with
  | none => .next s
  | some (p, item) =>
    let s1 :=
      match s.engine.service, s.engine.served with
      | .scanning, some job => s.intakeSteps job p item
      | _, _ => s
    .next (s1.releaseIntake.grant).pump

end Sys2Proof.Machine
end

