-- ==== Sys2Proof/Machine/Flow.lean ====
section
/-! DEFINITION. Flow.lean: the flow controller's inputs (chapter 2): the rises and falls of the line port
and the exit timer, with arrival, shift, release, removal and the entry to STOPPED and FAULT. -/

namespace Sys2Proof.Machine

/-! ### Arrival (R30) -/

/-- What an arriving panel takes: the head descriptor, or the default slot with a zero tag (R30, step
2). -/
def State.arrivingAs (s : State) : Option Descriptor :=
  match s.flow.queue with
  | d :: _ => some d
  | [] => s.defaultUsable.map (fun k => ⟨k, List.replicate 16 0, none, none⟩)

/-- A context as a panel takes it (R28). -/
def Context.arrived (d : Descriptor) (seq joints taktLimit now : Nat) (process : Bool) : Context :=
  { Context.freed with
    state := .aligning, position := .measure, seq := seq, tag := d.tag, slot := d.slot
    region := d.region, exclusions := d.exclusions, processFlag := process, arrival := now
    deadline := now + taktLimit, taktRunning := true
    verdicts := List.replicate joints VerdictEntry.unset, unset := joints }

/-- The joints of a slot's program: placements × sites (R4, R109). -/
def Slot.joints (k : Slot) : Nat := k.placements.length * k.sites.length

/-- The takt limit of a slot's program (R4). -/
def Slot.taktLimit (k : Slot) : Nat :=
  match k.header with
  | some h => h.taktLimit
  | none => 0

/-- An arrival takes a context (R30). A descriptor's pin passes to the context; a default slot is pinned
anew. -/
def State.arrive (s : State) (c : CtxId) (d : Descriptor) : State :=
  let slot := s.slots.get d.slot
  let seq := (s.flow.seq + 1) % 256
  let s1 := if s.flow.queue.isEmpty then s.pin d.slot else s
  let x := Context.arrived d seq slot.joints slot.taktLimit s.now s.processFlag
  let s2 := s1.modFlow (fun w =>
    { w with
      queue := w.queue.drop 1
      seq := seq
      ctxs := w.ctxs.set c x
      counters := { w.counters with arrivals := bump w.counters.arrivals 1 } })
  let s3 := (s2.countDownHold.modLog (fun g => { g with overflow := g.overflow.set c false })).setDecision
    c .waiting
  s3.beginAlignment c

/-- MEASURE_OCC_RISE (R30, R33): an arrival while the entry condition holds; otherwise an unexpected
board, marked as untracked. -/
def execMeasureOccRise (s : State) : Result :=
  let s1 := s.modPins (fun p => { p with measureOcc := true })
  match s1.entryCondition, s1.flow.freeCtx, s1.arrivingAs with
  | true, some c, some d => .next ((s1.arrive c d).driveLines).pump
  | _, _, _ =>
    .next ((s1.modFlow (fun w => { w.count (fun k =>
      { k with unexpectedBoard := bump k.unexpectedBoard 1 }) with untrackedMeasure := true })).driveLines).pump

/-! ### Removal (R40) -/

/-- A board is taken as removed (R40): the context is flagged and counted, aborted when it is being
measured, and freed when it is DECIDED. -/
def State.removeBoard (s : State) (c : CtxId) : State :=
  let s1 := (s.modCtx c (fun x => { x with removed := true })).modFlow
    (Flow.count (fun k => { k with removed := bump k.removed 1 }))
  if (s.ctx c).measuring then s1.abortContext c
  else if (s.ctx c).state = .decided then s1.freeContext c
  else s1

/-- MEASURE_OCC_FALL (R33, R34, R40): clears the untracked mark; with SHIFT high it starts the shift of
the context at MEASURE, and otherwise it is the removal of a context there that is not in transit and
not already removed. -/
def execMeasureOccFall (s : State) : Result :=
  let s1 := (s.modPins (fun p => { p with measureOcc := false })).modFlow
    (fun w => { w with untrackedMeasure := false })
  let s2 :=
    match s1.flow.findCtx (fun x => x.position == .measure && !x.inTransit && !x.removed) with
    | some c =>
      if s1.flow.shift then s1.modCtx c (fun x => { x with inTransit := true }) else s1.removeBoard c
    | none => s1
  .next s2.driveLines.pump

/-- EXIT_OCC_RISE (R33, R34): completes the shift of a context in transit; otherwise an unexpected board
at the exit buffer. -/
def execExitOccRise (s : State) : Result :=
  let s1 := s.modPins (fun p => { p with exitOcc := true })
  let s2 :=
    match s1.flow.findCtx (fun x => x.inTransit && x.state != .free) with
    | some c => s1.modCtx c (fun x => { x with position := .exit, inTransit := false })
    | none => s1.modFlow (fun w => { w.count (fun k =>
        { k with unexpectedExit := bump k.unexpectedExit 1 }) with untrackedExit := true })
  .next s2.driveLines.pump

/-- The counter of a completed release, by route (R35). -/
def FlowCounters.released (r : Route) (k : FlowCounters) : FlowCounters :=
  match r with
  | .pass => { k with releasedPass := bump k.releasedPass 1 }
  | .rework => { k with releasedRework := bump k.releasedRework 1 }
  | .review => { k with releasedReview := bump k.releasedReview 1 }

/-- A release completes (R35). -/
def State.completeRelease (s : State) (c : CtxId) : State :=
  let r := (s.decision.records.get c).route
  (s.modFlow (fun w =>
    { w.count (FlowCounters.released r) with release := false, exitTimer := none })).freeContext c

/-- EXIT_OCC_FALL (R33, R35, R40): clears the untracked mark; it completes the release of a RELEASING
context, and otherwise it is the removal of a context at EXIT that is not already removed. -/
def execExitOccFall (s : State) : Result :=
  let s1 := (s.modPins (fun p => { p with exitOcc := false })).modFlow
    (fun w => { w with untrackedExit := false })
  let s2 :=
    match s1.flow.findCtx (fun x => x.state == .releasing) with
    | some c => s1.completeRelease c
    | none =>
      match s1.flow.findCtx (fun x => x.position == Position.exit && !x.removed) with
      | some c => s1.removeBoard c
      | none => s1
  .next s2.driveLines.pump

/-- DOWNSTREAM_READY_RISE (R24, R35): an occasion for the release test. -/
def execDownstreamReadyRise (s : State) : Result :=
  .next ((s.modPins (fun p => { p with downstreamReady := true })).driveLines).pump

/-! ### STOP and the exit timer (R24, R36, R37) -/

/-- A context being measured is aborted (R37). -/
def State.abortIfMeasuring (s : State) (c : CtxId) : State :=
  if (s.ctx c).measuring then s.abortContext c else s

/-- The entry to STOPPED or FAULT (R37): the notice first, then the outputs dropped and the exit timer
cancelled, then a context being measured aborted; of two, context 0 first (assumption log 30). -/
def State.enterHeld (s : State) (target : StationState) (cause : StationCause) : State :=
  let s1 := (s.changeStation target cause).modFlow (fun w =>
    { w with
      entryEnable := false
      shift := false
      release := false
      exitTimer := none
      counters :=
        if target = .stopped then { w.counters with stops := bump w.counters.stops 1 }
        else w.counters })
  (s1.abortIfMeasuring 0).abortIfMeasuring 1

/-- STOP_FALL (R24): the low time of STOP starts, again if STOP was low already (assumption log 4). -/
def execStopFall (s : State) : Result :=
  .next ((s.modPins (fun p => { p with stop := false })).modFlow
    (fun w => { w with stopLowSince := some s.now }))

/-- The low time that a rise of STOP ends is long enough to qualify it (R24). -/
def State.stopQualified (s : State) : Bool :=
  match s.flow.stopLowSince with
  | some t => decide (t + Config.stopLowMin ≤ s.now)
  | none => false

/-- STOP_RISE (R22, R24, R37): a qualified rise stops the station, except in OFFLINE and STOPPED. -/
def execStopRise (s : State) : Result :=
  let s1 := (s.modPins (fun p => { p with stop := true })).modFlow
    (fun w => { w with stopLowSince := none })
  if s.stopQualified && s.flow.station != .offline && s.flow.station != .stopped then
    .next ((s1.enterHeld .stopped .stopInput).driveLines).pump
  else .next s1

/-- EXIT_TIMER_EXPIRY (R36): an exit jam, while the exit timer runs with a context RELEASING; otherwise
nothing expires (assumption log 3). -/
def execExitTimerExpiry (s : State) : Result :=
  if s.flow.exitTimer.isSome && (s.flow.findCtx (fun x => x.state == .releasing)).isSome then
    let s1 := s.modFlow (Flow.count (fun k => { k with exitJams := bump k.exitJams 1 }))
    .next ((s1.enterHeld .fault .exitJam).driveLines).pump
  else .next s

end Sys2Proof.Machine
end

