-- ==== Sys2Proof/Machine/Wire.lean ====
section
/-! DEFINITION. Wire.lean: the host frames on the lane (R164 to R166, R185): the CRC, the encoding of a
frame, the receive framer, and the check of a completed frame. -/

namespace Sys2Proof.Machine

/-! ### The CRC (R164) -/

/-- One shift of the CRC register. -/
def crcShift (r : U16) : U16 := if r.msb then (r <<< 1) ^^^ 0x1021 else r <<< 1

/-- n shifts of the CRC register. -/
def crcShifts : Nat → U16 → U16
  | 0, r => r
  | n + 1, r => crcShifts n (crcShift r)

/-- One byte combined into the upper eight bits of the register, then shifted through. -/
def crcByte (r : U16) (b : Byte) : U16 := crcShifts 8 (r ^^^ (b.setWidth 16 <<< 8))

/-- The CRC of some bytes. -/
def crc16 (bytes : List Byte) : U16 := bytes.foldl crcByte 0xFFFF

/-! ### Frames on the lane (R164, R185) -/

/-- The delimiter. -/
def delimiter : Byte := 0xC5

/-- The escape byte. -/
def escapeByte : Byte := 0xCA

/-- The decoded bytes of a frame before its CRC. -/
def Frame.content (f : Frame) : List Byte := [f.kind, f.tag] ++ be16 f.body.length ++ f.body

/-- The decoded bytes of a frame. -/
def Frame.decoded (f : Frame) : List Byte := f.content ++ be16 (crc16 f.content).toNat

/-- The encoding of one decoded byte. -/
def escaped (b : Byte) : List Byte :=
  if b = delimiter ∨ b = escapeByte then [escapeByte, b ^^^ 0x40] else [b]

/-- The bytes sent for some decoded bytes: delimiters about the escaped contents. -/
def onLane (decoded : List Byte) : List Byte := delimiter :: (decoded.flatMap escaped ++ [delimiter])

/-- The bytes sent for a frame. -/
def Frame.wire (f : Frame) : List Byte := onLane f.decoded

/-! ### Checks of a completed frame (R166) -/

/-- What the checks find. -/
inductive FrameCheck where
  | format
  | crc
  | length
  | valid (f : Frame)
deriving DecidableEq, Repr

/-- The checks of a completed frame, in their order. -/
def checkFrame (b : List Byte) : FrameCheck :=
  if b.length < 6 then .format
  else if be16 (crc16 (b.take (b.length - 2))).toNat ≠ b.drop (b.length - 2) then .crc
  else if Config.bodyMax < u16 b 2 ∨ u16 b 2 ≠ b.length - 6 then .length
  else .valid ⟨b.getD 0 0, b.getD 1 0, bytesAt b 4 (b.length - 6)⟩

/-! ### The receive framer (R165) -/

/-- The framer with nothing received of a frame, in a given state. -/
def Framer.empty (st : FramerState) : Framer := ⟨st, [], 0⟩

/-- The decoded bytes counted of the frame in progress, stored or not. -/
def Framer.count (f : Framer) : Nat := f.buffer.length + f.unstored

/-- What a received byte does beyond moving the framer. -/
inductive FramerEvent where
  | none
  | formatError
  | complete (decoded : List Byte) (unstored : Nat)
deriving DecidableEq, Repr

/-- A decoded byte appended to the frame in progress: stored, or counted only while a frame is held
(R168); one past 1,030 makes the frame overlong. -/
def Framer.append (held : Bool) (b : Byte) (f : Framer) : Framer × FramerEvent :=
  if Config.frameMax ≤ f.count then (Framer.empty .hunt, .formatError)
  else if held then (⟨.frame, f.buffer, f.unstored + 1⟩, .none)
  else (⟨.frame, f.buffer ++ [b], f.unstored⟩, .none)

/-- A byte taken in FRAME. -/
def Framer.inFrame (held : Bool) (b : Byte) (f : Framer) : Framer × FramerEvent :=
  if b = delimiter then
    if f.count = 0 then (Framer.empty .frame, .none)
    else (Framer.empty .frame, .complete f.buffer f.unstored)
  else if b = escapeByte then ({ f with state := .escape }, .none)
  else f.append held b

/-- A byte taken in ESCAPE. -/
def Framer.inEscape (held : Bool) (b : Byte) (f : Framer) : Framer × FramerEvent :=
  if b = 0x85 then f.append held delimiter
  else if b = 0x8A then f.append held escapeByte
  else if b = delimiter then (Framer.empty .frame, .formatError)
  else (Framer.empty .hunt, .formatError)

/-- A byte taken in HUNT. -/
def Framer.inHunt (b : Byte) (f : Framer) : Framer × FramerEvent :=
  if b = delimiter then (Framer.empty .frame, .none) else (f, .none)

/-- A byte taken by the framer (R165). An error before the first byte of a frame is counted (assumption
log 15). -/
def Framer.take (held : Bool) (b : Byte) (stopBit : Bool) (f : Framer) : Framer × FramerEvent :=
  match f.state with
  | .hunt => if stopBit then f.inHunt b else (f, .none)
  | .frame => if stopBit then f.inFrame held b else (Framer.empty .hunt, .formatError)
  | .escape => if stopBit then f.inEscape held b else (Framer.empty .hunt, .formatError)

end Sys2Proof.Machine
end

