-- ==== Sys2Proof/Machine/Replies.lean ====
section
/-! DEFINITION. Replies.lean: the byte layouts of what the 7620 sends: records and notices (R183, R188),
the frames towards the heads (R189), and the replies that report state: PROGRAM_STATUS, PANEL_STATUS, the counters, and the values of IDENTIFY
(R17, R176, R177, R179, R186). -/

namespace Sys2Proof.Machine

/-! ### Records and notices (R188) -/

/-- A verdict entry as read: verdict, cause, flag set. -/
def VerdictEntry.bytes (e : VerdictEntry) : List Byte := [e.verdict.code, causeCode e.cause, e.flags.code]

/-- A defect record, 16 bytes. -/
def DefectRecord.bytes (d : DefectRecord) : List Byte :=
  [1] ++ presence [d.cause.isSome, d.volPct.isSome, d.peak.isSome, d.offset.isSome, d.coverage.isSome]
    ++ [byteOf d.seq, byteOf d.placement] ++ be16 d.site
    ++ [d.verdict.code, causeCode d.cause, d.flags.code] ++ optionalPart 2 (d.volPct.map be16)
    ++ optionalPart 2 (d.peak.map beI16) ++ optionalPart 2 (d.offset.map be16)
    ++ optionalPart 1 (d.coverage.map (fun n => [byteOf n]))

/-- The eight verdict counts, three bytes each. -/
def VerdictCounts.bytes (k : VerdictCounts) : List Byte :=
  [k.pass, k.bridge, k.openJoint, k.low, k.high, k.shift, k.unmeasured, k.skipped].flatMap be24

/-- A summary record, 57 bytes. -/
def Summary.bytes (s : Summary) : List Byte :=
  [2, byteOf s.seq] ++ s.tag ++ [byteOf s.slot.val, s.route.code,
    byteOf (s.late.toNat + 2 * s.aborted.toNat + 4 * s.process.toNat + 8 * s.alignFault.isSome.toNat),
    alignCauseCode s.alignFault] ++ s.counts.bytes ++ be24 s.defective
    ++ [byteOf s.skippedPlacements, byteOf s.unverified] ++ be24 s.lostLog ++ be24 s.timeToDecision

/-- A record of the log. -/
def LogRecord.bytes : LogRecord → List Byte
  | .defect d => d.bytes
  | .summary s => s.bytes

/-- The data of a notice. -/
def NoticeData.bytes : NoticeData → List Byte
  | .panelDecided s => s.bytes
  | .segmentReady seg count => byteOf seg.val :: be16 count
  | .logOverflow c seq seg => [byteOf c.val, byteOf seq, byteOf seg.val]
  | .drift k cls before after e =>
    [byteOf k.val, byteOf cls, before.code, after.code, flagByte e.isSome]
      ++ optionalPart 3 (e.map (fun x => be24 x.toNat))
  | .repeatSite k site value seq => [byteOf k.val] ++ be16 site ++ [byteOf value, byteOf seq]
  | .ovenCode new previous time deviating hold =>
    [byteOf new.toNat, byteOf previous.toNat] ++ be48 time ++ [flagByte deviating, byteOf hold]
  | .headFault head cause seq mark link =>
    [byteOf head.val, cause.code, byteOf seq] ++ optionalPart 2 (mark.map beI16) ++ [link.code]
  | .stationState new previous cause => [new.code, previous.code, cause.code]

/-- The frame being sent (R168, R172, R185). -/
def Sending.frame : Sending → Frame
  | .reply f => f
  | .answer a => ⟨a.kind, a.tag, [a.status.code]⟩
  | .notice n => ⟨0x40, 0, byteOf n.data.kind :: (be16 n.count ++ n.data.bytes)⟩

/-- The kind byte and the body of a frame towards a head (R189). -/
def HeadFrame.bytes : HeadFrame → List Byte
  | .scanStart seq start stop first last =>
    [0x01, byteOf seq] ++ be16 start ++ be16 stop ++ be16 first ++ be16 last
  | .scanStop => [0x02]
  | .locate number mark x y radius =>
    [0x03, number, flagByte mark] ++ be32 x ++ be32 y ++ be16 radius
  | .headQuery => [0x04]

/-! ### IDENTIFY (R176) -/

/-- The values of IDENTIFY in the order and widths of R186. -/
def identification : List Byte :=
  be16 0x2D4E ++ be16 7620 ++ [3, 4, 2, 4] ++ be16 1024 ++ be16 1024 ++ be16 4096 ++ be16 1024 ++ [16]
    ++ be16 1024 ++ be32 65536

/-! ### Counters (R179, R186) -/

/-- The counters of one head port with the alignment unit's LOCATE_TIMEOUTS for it. -/
def State.portCounters (s : State) (p : PortId) : List Nat :=
  let k := (s.ports.get p).counters
  [k.tiles, k.lostTiles, k.overruns, k.stale, k.stray, k.order, k.missing, k.frameErrors, k.headFaults,
    s.align.locateTimeouts.get p]

/-- The 77 counters in the order of R179. -/
def State.counters (s : State) : List Nat :=
  let l := s.link.counters
  let f := s.flow.counters
  [l.framesValid, l.formatErrors, l.crcErrors, l.lengthErrors, l.overruns, l.unknownKinds,
    l.busyReplies, l.noticesSent, l.coalesced,
    f.arrivals, f.unexpectedBoard, f.unexpectedExit, f.releasedPass, f.releasedRework,
    f.releasedReview, f.exitJams, f.jamCleared, f.removed, f.stops]
    ++ portIds.flatMap s.portCounters
    ++ [s.engine.exhausted, s.engine.shortJoints, s.engine.peak,
      s.evaluator.evaluations, s.evaluator.discarded, s.evaluator.entriesRemoved,
      s.decision.normal, s.decision.late, s.decision.aborted, s.decision.pass, s.decision.rework,
      s.decision.review,
      s.monitor.updates, s.monitor.requestsLost, s.monitor.recognitions,
      s.log.completed, s.log.recordsDropped, s.log.summariesDropped]

/-- The results of READ_COUNTERS: 77 counters and the four link states. -/
def State.counterBytes (s : State) : List Byte :=
  s.counters.flatMap be32 ++ s.ports.toList.map (fun p => p.link.code)

/-! ### PROGRAM_STATUS (R17) -/

/-- The results of PROGRAM_STATUS: presence, state, pin count, then the header and the fill counts as
one optional part (assumption log 16). -/
def Slot.statusBytes (k : Slot) : List Byte :=
  let part := if k.state = .empty then none
    else k.header.map (fun h => h.bytes ++ [0, 1, 2, 3].flatMap (fun n => be16 (k.fill n)))
  presence [part.isSome] ++ [k.state.code, byteOf k.pins] ++ optionalPart 45 part

/-! ### PANEL_STATUS (R177, R62, R78, R104, R121, R137) -/

/-- A run of optional and fixed parts: the width and bytes of each, with whether it is optional. -/
structure Part where
  optional : Bool
  width : Nat
  bytes : Option (List Byte)
deriving DecidableEq, Repr

/-- A part that is always there. -/
def Part.fixed (b : List Byte) : Part := ⟨false, b.length, some b⟩

/-- A part that may be absent. -/
def Part.maybe (width : Nat) (b : Option (List Byte)) : Part := ⟨true, width, b⟩

/-- The presence bytes of the optional parts, then every part in its place (R183). -/
def layOut (parts : List Part) : List Byte :=
  presence ((parts.filter Part.optional).map (fun p => p.bytes.isSome))
    ++ parts.flatMap (fun p => optionalPart p.width p.bytes)

/-- The flow controller's part. -/
def Context.flowParts (x : Context) : List Part :=
  [.fixed ([flagByte x.inTransit, flagByte x.removed, byteOf x.seq] ++ x.tag ++ [byteOf x.slot.val]),
    .maybe 16 (x.region.map (fun r => be32 r.u0 ++ be32 r.v0 ++ be32 r.u1 ++ be32 r.v1)),
    .maybe 4 (x.exclusions.map (fun m => be32 m.toNat)),
    .fixed ([flagByte x.processFlag, flagByte x.lateFlag, flagByte x.abortedFlag,
      alignCauseCode x.alignFault] ++ be48 x.arrival ++ be48 x.deadline)]

/-- The report of one fiducial: position searched, outcome, and the measured values when found. -/
def FidEntry.parts (e : FidEntry) : List Part :=
  [.fixed [e.searched.code, e.outcome.code],
    .maybe 13 (match e.outcome with
      | .found x y z q => some (beI32 x ++ beI32 y ++ beI32 z ++ [byteOf q])
      | _ => none)]

/-- The alignment unit's part: the context's alignment record (R62). -/
def AlignRecord.parts (r : AlignRecord) : List Part :=
  r.fids.t0.parts ++ r.fids.t1.parts ++ r.fids.t2.parts
    ++ [.fixed [byteOf r.marksPresent, byteOf r.marksAbsent],
      .maybe 8 (r.terms.map (fun t => beI32 t.1 ++ beI32 t.2)),
      .maybe 4 (r.residual.map (fun n => beI32 n)),
      .maybe 8 (r.slopes.map (fun t => beI32 t.1 ++ beI32 t.2)),
      .maybe 1 (r.cause.map (fun c => [alignCauseCode (some c)]))]

/-- The number of accumulators a context holds in a state (R104). -/
def Engine.held (e : Engine) (c : CtxId) (st : AccState) : Nat :=
  e.pool.countP (fun a => a.2.state == st && a.2.holder.any (fun h => h.1 == c))

/-- The number of FREE accumulators. -/
def Engine.freeCount (e : Engine) : Nat := Config.accumulators - e.pool.length

/-- The window engine's part (R104). -/
def Engine.parts (e : Engine) (c : CtxId) : List Part :=
  let arming := e.serves c && e.service == .arming
  let scanning := e.serves c && e.service == .scanning
  let range := e.scanRange.getD (0, 0)
  [.fixed (be16 (e.held c .opened) ++ be16 (e.held c .queued) ++ be16 (e.held c .evaluating)
      ++ be16 e.freeCount),
    .maybe 3 (if arming then some (be24 e.visited) else none),
    .maybe 4 (if scanning then some (be16 range.1 ++ be16 range.2) else none),
    .maybe 2 (if scanning then e.front.map be16 else none),
    .fixed (if scanning then be24 e.openList.length ++ be16 e.openSet.length
      else List.replicate 5 0)]

/-- A head port's part, while the context is SCANNING (R78). -/
def State.portPart (s : State) (c : CtxId) (p : PortId) : Part :=
  let x := s.ports.get p
  let received := match x.record with
    | some r => r.received
    | none => 0
  .maybe 7 (if (s.ctx c).state = .scanning ∧ s.configured p then
    some ([x.scan.code] ++ beI16 (s.markOf p) ++ be32 received) else none)

/-- The evaluator's part (R121). -/
def State.evaluatorPart (s : State) (c : CtxId) : Part :=
  let x := s.ctx c
  .fixed (x.counts.bytes ++ be24 x.unset ++ be24 x.defective
    ++ [byteOf x.skippedPlacements, byteOf x.unverified] ++ be24 x.lostLog
    ++ be16 (s.evaluator.queue.countP (fun e => e.ctx == c))
    ++ [flagByte (s.evaluator.current.any (fun v => v.entry.ctx == c && !v.discard))])

/-- The decision unit's part (R137). -/
def DecisionRecord.parts (r : DecisionRecord) : List Part :=
  [.fixed [r.code],
    .maybe 9 (match r with
      | .decided d => some ([d.kind.code, d.route.code, d.causes.code] ++ be48 d.time)
      | _ => none)]

/-- The parts of a context that is not FREE, in the order of R177. -/
def State.contextParts (s : State) (c : CtxId) : List Part :=
  (s.ctx c).flowParts ++ (s.align.records.get c).parts ++ s.engine.parts c
    ++ portIds.map (s.portPart c) ++ [s.evaluatorPart c] ++ (s.decision.records.get c).parts

/-- What every PANEL_STATUS reply carries: station state, descriptors queued, context state and
position (R177). -/
def State.statusHead (s : State) (c : CtxId) : List Byte :=
  [s.flow.station.code, byteOf s.flow.queue.length, (s.ctx c).state.code, (s.ctx c).position.code]

/-- The results of PANEL_STATUS (R177, R183; assumption log 16). -/
def State.panelStatusBytes (s : State) (c : CtxId) : List Byte :=
  if (s.ctx c).state = .free then s.statusHead c
  else layOut (.fixed (s.statusHead c) :: s.contextParts c)

end Sys2Proof.Machine
end

