-- ==== Sys2Proof/Machine/Library.lean ====
section
/-! DEFINITION. Library.lean: the requests of the program library (chapter 1): PROGRAM_BEGIN,
PROGRAM_DATA, PROGRAM_END, PROGRAM_ERASE and PROGRAM_STATUS as their owner carries them out, with the
event VALIDATION_COMPLETE. Each takes the request's body, already of a length R186 allows. -/

namespace Sys2Proof.Machine

/-- The station is OFFLINE. -/
def State.offline (s : State) : Bool := s.flow.station == .offline

/-- Another slot than k is LOADING or VALIDATING (R9). -/
def State.loadElsewhere (s : State) (k : SlotId) : Bool :=
  portIds.any (fun j => j != k &&
    ((s.slots.get j).state == .loading || (s.slots.get j).state == .validating))

/-- What an accepted PROGRAM_BEGIN does (R9, R141, R146). -/
def State.beginLoad (s : State) (k : SlotId) (h : Header) : State :=
  let s1 := s.modSlot k (fun x =>
    { x with
      state := .loading, header := some h, classes := [], sites := [], placements := []
      fiducials := [] })
  ((s1.unprimeRun k 0 64).modMonitor
    (fun m => (m.discardRequests k).zeroRepeats k)).driveEntry

/-- PROGRAM_BEGIN (R9). -/
def State.serveProgramBegin (s : State) (b : List Byte) : State :=
  match quadIndex (u8 b 0) with
  | none => s.refuse .badArg
  | some k =>
    let h := Header.ofBytes (b.drop 1)
    if s.offline then s.refuse .badState
    else if (s.slots.get k).pins ≠ 0 then s.refuse .slotBusy
    else if s.loadElsewhere k then s.refuse .loadActive
    else if h.ok then (s.beginLoad k h).reply .ok []
    else s.refuse .badArg

/-- The reply that reports a section's current fill count (R10, R170). -/
def State.replyFill (s : State) (st : Status) (x : Slot) (sect : Nat) : State :=
  s.reply st (be16 (x.fill sect))

/-- The records of a PROGRAM_DATA taken in order (R10). -/
def State.appendRecords (s : State) (k : SlotId) (h : Header) (sect size count : Nat) (b : List Byte) :
    State :=
  let r := Slot.appendRun h sect size count b (s.slots.get k)
  let s1 := s.modSlot k (fun _ => r.1)
  if r.2 then s1.replyFill .ok r.1 sect
  else s1.reply .badArg (byteOf sect :: be16 (r.1.fill sect))

/-- PROGRAM_DATA (R10). -/
def State.serveProgramData (s : State) (b : List Byte) : State :=
  match quadIndex (u8 b 0) with
  | none => s.refuse .badArg
  | some k =>
    let x := s.slots.get k
    let sect := u8 b 1
    let first := u16 b 2
    let count := u8 b 4
    if s.offline then s.refuse .badState
    else if x.state ≠ .loading then s.refuse .badState
    else
      match sectionRecordSize sect, x.header with
      | some size, some h =>
        if count < 1 ∨ 32 < count ∨ b.length ≠ 5 + count * size then s.refuse .badArg
        else if first ≠ x.fill sect then s.replyFill .sequence x sect
        else if h.required sect < first + count then s.replyFill .overflow x sect
        else s.appendRecords k h sect size count (b.drop 5)
      | _, _ => s.refuse .badArg

/-- PROGRAM_END (R11): the slot becomes VALIDATING and the request stays in service. -/
def State.serveProgramEnd (s : State) (b : List Byte) : State :=
  match quadIndex (u8 b 0) with
  | none => s.refuse .badArg
  | some k =>
    if s.offline ∨ (s.slots.get k).state ≠ .loading then s.refuse .badState
    else s.modSlot k (fun x => { x with state := .validating })

/-- A slot emptied of its header and records; its pin count stays (R15, R16, R18). -/
def Slot.emptyOut (x : Slot) : Slot := { Slot.emptied with pins := x.pins }

/-- PROGRAM_ERASE (R16). -/
def State.serveProgramErase (s : State) (b : List Byte) : State :=
  match quadIndex (u8 b 0) with
  | none => s.refuse .badArg
  | some k =>
    if s.offline then s.refuse .badState
    else if (s.slots.get k).pins ≠ 0 then s.refuse .slotBusy
    else ((s.modSlot k Slot.emptyOut).driveEntry).reply .ok []

/-- PROGRAM_STATUS (R17). -/
def State.serveProgramStatus (s : State) (b : List Byte) : State :=
  match quadIndex (u8 b 0) with
  | none => s.refuse .badArg
  | some k => s.reply .ok (s.slots.get k).statusBytes

/-- The slot being validated. -/
def State.validatingSlot (s : State) : Option SlotId :=
  portIds.find? (fun k => (s.slots.get k).state == .validating)

/-- The outcome of a validation set into its slot and answered (R15). -/
def State.settleValidation (s : State) (k : SlotId) : Validation → State
  | .passed n =>
    ((s.modSlot k (fun x => { x with state := .valid })).driveEntry).reply .ok (be16 n)
  | .failed detail index =>
    ((s.modSlot k Slot.emptyOut).driveEntry).reply .invalid (detail :: be16 index)

/-- VALIDATION_COMPLETE (R15). With no slot VALIDATING there is nothing to complete (assumption
log 3). -/
def execValidationComplete (s : State) : Result :=
  match s.validatingSlot with
  | none => .next s
  | some k =>
    match (s.slots.get k).header with
    | some h => .next (s.settleValidation k (validateSlot h (s.slots.get k))).pump
    | none => .next s

end Sys2Proof.Machine
end

