-- ==== Sys2Proof/Machine/Requests.lean ====
section
/-! DEFINITION. Requests.lean: the requests of the flow controller, the evaluator, the defect log, the
process monitor and the link controller, as their owners carry them out. Each takes the request's body,
already of a length R186 allows. -/

namespace Sys2Proof.Machine

/-! ### The flow controller (chapter 2) -/

/-- A configuration taken into force by the ports: those at or above the head count become UNCONFIGURED
with no query timer and no scan, the others UNKNOWN and queried (R64; assumption log 22). -/
def Port.configure (isConfigured : Bool) (expiry : Nat) (p : Port) : Port :=
  if isConfigured then { p with link := .unknown }.query expiry
  else { p with link := .unconfigured, queryTimer := none, scan := .idle, record := none }

/-- A configuration replaces the one in force (R21, R64). -/
def State.configure (s : State) (c : StationConfig) : State :=
  let s1 := s.modFlow (fun w => { w with config := some c })
  let s2 := s1.modPorts (fun q => q.mapIdx (fun p x =>
    x.configure (decide (p.val < c.heads)) (s.now + c.locateTimeout)))
  if s.flow.station = .offline then s2.changeStation .idle .configured else s2

/-- CONFIGURE_STATION may not be taken with this pitch (R21). -/
def State.configureBarred (s : State) (pitch : Nat) : Bool :=
  !(s.flow.station == .offline
    || (s.flow.station == .idle && s.flow.bothFree
        && (s.flow.queue.isEmpty || pitch == s.flow.pitch)))

/-- CONFIGURE_STATION (R20, R21). -/
def State.serveConfigure (s : State) (b : List Byte) : State :=
  if s.configureBarred (u8 b 0) then s.refuse .badState
  else
    match StationConfig.ofBytes b with
    | none => s.refuse .badArg
    | some c => ((s.configure c).driveEntry).reply .ok []

/-- A mode set in a state that takes it (R23). -/
def State.setMode (s : State) (drain : Bool) : State :=
  match drain, s.flow.station with
  | false, .idle => s.changeStation .running .run
  | false, .draining => s.changeStation .running .run
  | true, .running =>
    if s.flow.bothFree then s.changeStation .idle .drained else s.changeStation .draining .drain
  | _, _ => s

/-- The station takes SET_MODE (R23). -/
def Flow.takesMode (w : Flow) : Bool :=
  w.station == .idle || w.station == .running || w.station == .draining

/-- SET_MODE (R23): the reply carries the station state after the request. -/
def State.serveSetMode (s : State) (b : List Byte) : State :=
  if !s.flow.takesMode then s.refuse .badState
  else if 1 < u8 b 0 then s.refuse .badArg
  else
    let s1 := (s.setMode (u8 b 0 == 1)).driveLines
    s1.reply .ok [s1.flow.station.code]

/-- The pitch of a slot's program, 0 without a header. -/
def Slot.pitch (k : Slot) : Nat :=
  match k.header with
  | some h => h.pitch
  | none => 0

/-- QUEUE_PANEL (R26). -/
def State.serveQueuePanel (s : State) (b : List Byte) : State :=
  if s.offline then s.refuse .badState
  else
    match Descriptor.ofBytes b with
    | none => s.refuse .badArg
    | some d =>
      if Config.entryQueueSize ≤ s.flow.queue.length then s.refuse .queueFull
      else if (s.slots.get d.slot).state ≠ .valid then s.refuse .slotEmpty
      else if (s.slots.get d.slot).pitch ≠ s.flow.pitch then s.refuse .pitchMismatch
      else if d.region.any Region.inverted then s.refuse .badArg
      else
        let s1 := (s.modFlow (fun w => { w with queue := w.queue ++ [d] })).pin d.slot
        s1.driveEntry.reply .ok [byteOf s1.flow.queue.length]

/-- CANCEL_QUEUE (R27). -/
def State.serveCancelQueue (s : State) : State :=
  if s.offline then s.refuse .badState
  else
    let s1 := s.flow.queue.foldl (fun s d => s.unpin d.slot) s
    ((s1.modFlow (fun w => { w with queue := [] })).driveEntry).reply .ok
      [byteOf s.flow.queue.length]

/-- CLEAR_STOP (R38). -/
def State.serveClearStop (s : State) : State :=
  if s.flow.station ≠ .stopped ∨ s.pins.stop then s.refuse .badState
  else ((s.changeStation .idle .cleared).driveLines).reply .ok []

/-- CLEAR_FAULT (R39): a RELEASING context is freed and counted, and the reply carries how many were. -/
def State.serveClearFault (s : State) : State :=
  if s.flow.station ≠ .fault then s.refuse .badState
  else
    match s.flow.findCtx (fun x => x.state == .releasing) with
    | some c =>
      let s1 := (s.modFlow (Flow.count (fun k => { k with jamCleared := bump k.jamCleared 1 }))).freeContext c
      ((s1.changeStation .idle .cleared).driveLines).reply .ok [1]
    | none => ((s.changeStation .idle .cleared).driveLines).reply .ok [0]

/-! ### The evaluator (chapter 6) -/

/-- READ_VERDICTS (R178). -/
def State.serveReadVerdicts (s : State) (b : List Byte) : State :=
  match pairIndex (u8 b 0) with
  | none => s.refuse .badArg
  | some c =>
    let first := u16 b 1
    let count := u16 b 3
    if count < 1 ∨ 256 < count then s.refuse .badArg
    else if (s.ctx c).state = .free then s.refuse .badState
    else if (s.ctx c).verdicts.length < first + count then s.refuse .badArg
    else s.reply .ok ((((s.ctx c).verdicts.drop first).take count).flatMap VerdictEntry.bytes)

/-! ### The defect log (chapter 9) -/

/-- READ_LOG (R160). -/
def State.serveReadLog (s : State) (b : List Byte) : State :=
  match quadIndex (u8 b 0) with
  | none => s.refuse .badArg
  | some g =>
    let seg := s.log.segments.get g
    let first := u16 b 1
    let count := u8 b 3
    if count < 1 ∨ 32 < count then s.refuse .badArg
    else if seg.state ≠ .ready then s.refuse .badState
    else if seg.records.length < first + count then s.refuse .badArg
    else
      s.reply .ok (be16 seg.records.length
        ++ ((seg.records.drop first).take count).flatMap LogRecord.bytes)

/-- A segment is freed by a set that names it: only a READY one is (R161). -/
def DefectLog.freedBy (g : DefectLog) (set : Byte) (k : SegId) : Bool :=
  set.getLsbD k.val && (g.segments.get k).state == .ready

/-- The state and record count of a segment as RELEASE_SEGMENT reports them (R161; assumption log
18). -/
def Segment.report (g : Segment) : List Byte :=
  Config.segmentStateCode g.state.index :: be16 g.records.length

/-- RELEASE_SEGMENT (R161). -/
def State.serveReleaseSegment (s : State) (b : List Byte) : State :=
  let set := b.headD 0
  if 15 < set.toNat then s.refuse .badArg
  else
    let freed := byteOf (portIds.foldl
      (fun n k => if s.log.freedBy set k then n + 2 ^ k.val else n) 0)
    let s1 := s.modLog (fun g =>
      { g with
        segments := g.segments.mapIdx (fun k x => if g.freedBy set k then Segment.empty else x) })
    s1.reply .ok (freed :: s1.log.segments.toList.flatMap Segment.report ++ [byteOf s.log.writePos.val])

/-! ### The process monitor (chapter 8) -/

/-- READ_DRIFT (R142). -/
def State.serveReadDrift (s : State) (b : List Byte) : State :=
  match quadIndex (u8 b 0) with
  | none => s.refuse .badArg
  | some k =>
    let first := u8 b 1
    let count := u8 b 2
    if count < 1 ∨ 64 < count ∨ 64 < first + count then s.refuse .badArg
    else
      s.reply .ok (layOut ((List.range count).flatMap (fun n =>
        let v := s.monitor.driftOf k (first + n)
        [.fixed [flagByte v.isSome], .maybe 3 (v.map (fun d => be24 d.e.toNat)),
          .fixed [(bandOf v).code]])))

/-- RESET_DRIFT (R141). -/
def State.serveResetDrift (s : State) (b : List Byte) : State :=
  if s.offline then s.refuse .badState
  else
    match quadIndex (u8 b 0) with
    | none => s.refuse .badArg
    | some k =>
      let first := u8 b 1
      let last := u8 b 2
      if 63 < last ∨ last < first then s.refuse .badArg
      else
        let n := last + 1 - first
        let primed := (List.range n).countP (fun i => (s.monitor.driftOf k (first + i)).isSome)
        (s.unprimeRun k first n).reply .ok [byteOf primed]

/-- READ_REPEAT (R147). -/
def State.serveReadRepeat (s : State) (b : List Byte) : State :=
  match quadIndex (u8 b 0) with
  | none => s.refuse .badArg
  | some k =>
    let first := u16 b 1
    let count := u16 b 3
    if count < 1 ∨ 256 < count ∨ 8192 < first + count then s.refuse .badArg
    else
      let next : Option Nat :=
        match s.monitor.work with
        | some w => if w.request.slot = k then some w.next else none
        | none => none
      s.reply .ok (layOut
        [.fixed ((List.range count).map (fun n => byteOf (s.monitor.repeatOf k (first + n)))
            ++ [byteOf (s.monitor.requests.countP (fun r => r.slot == k)), flagByte next.isSome]),
          .maybe 2 (next.map be16)])

/-- CLEAR_REPEAT (R146). -/
def State.serveClearRepeat (s : State) (b : List Byte) : State :=
  if s.offline then s.refuse .badState
  else
    match quadIndex (u8 b 0) with
    | none => s.refuse .badArg
    | some k =>
      (s.modMonitor (fun m => (m.discardRequests k).zeroRepeats k)).reply .ok
        [byteOf (s.monitor.requestsFor k)]

/-- A recorded change as READ_OVEN_CODES reports it: code and time of recognition (R151). -/
def changeBytes (c : BitVec 4 × Nat) : List Byte := byteOf c.1.toNat :: be48 c.2

/-- READ_OVEN_CODES (R151): the buffer is emptied once the reply is formed (assumption log 17). -/
def State.serveReadOvenCodes (s : State) : State :=
  let m := s.monitor
  (s.modMonitor (fun m => { m with changes := [], overwrites := 0 })).reply .ok (layOut
    [.fixed [byteOf m.recognized.toNat, flagByte (s.flow.deviating m.recognized), byteOf m.hold,
        byteOf m.changes.length],
      .maybe 7 (m.changes[0]?.map changeBytes), .maybe 7 (m.changes[1]?.map changeBytes),
      .fixed (be16 m.overwrites)])

/-! ### The link controller (chapter 10) -/

/-- The coalesced count of a kind's pending notice, 0 for an empty slot (R175). -/
def Link.pendingCount (l : Link) (k : Nat) : Nat :=
  match mapGet k l.pending with
  | some n => n.count
  | none => 0

/-- SET_NOTICE_MASK (R175): the old mask and pending counts are reported, and the drain follows. -/
def State.serveSetNoticeMask (s : State) (b : List Byte) : State :=
  (s.reply .ok (s.link.mask :: (List.range 8).flatMap (fun k => be16 (s.link.pendingCount k)))).modLink
    (fun l => Link.drain { l with mask := b.headD 0 })

/-- PANEL_STATUS (R177). -/
def State.servePanelStatus (s : State) (b : List Byte) : State :=
  match pairIndex (u8 b 0) with
  | none => s.refuse .badArg
  | some c => s.reply .ok (s.panelStatusBytes c)

/-- Every counter set to 0, except PEAK_ACCUMULATORS, set to the accumulators held (R103, R180). -/
def State.clearCounters (s : State) : State :=
  { s with
    link := s.link.count (fun _ => LinkCounters.zero)
    flow := s.flow.count (fun _ => FlowCounters.zero)
    ports := s.ports.mapIdx (fun _ p => p.count (fun _ => PortCounters.zero))
    align := { s.align with locateTimeouts := Quad.all 0 }
    engine := { s.engine with exhausted := 0, shortJoints := 0, peak := s.engine.pool.length }
    evaluator := { s.evaluator with evaluations := 0, discarded := 0, entriesRemoved := 0 }
    decision := { s.decision with normal := 0, late := 0, aborted := 0, pass := 0, rework := 0, review := 0 }
    monitor := { s.monitor with updates := 0, requestsLost := 0, recognitions := 0 }
    log := { s.log with completed := 0, recordsDropped := 0, summariesDropped := 0 } }

/-- CLEAR_COUNTERS (R180): the reply gives the values as they stood. -/
def State.serveClearCounters (s : State) : State := s.clearCounters.reply .ok s.counterBytes

end Sys2Proof.Machine
end

