-- ==== Sys2Proof/Machine/Reset.lean ====
section
/-! DEFINITION. Reset.lean: the station reset (R181) as each block carries out its part, and the cold
reset (R42, R182). -/

namespace Sys2Proof.Machine

/-- The flow controller's part of a station reset (R42). -/
def Flow.stationReset (pins : Pins) (w : Flow) : Flow :=
  { w with
    station := .idle, queue := [], ctxs := Pair.all Context.freed, exitTimer := none
    entryEnable := false, shift := false, release := false, route := .review
    untrackedMeasure := pins.measureOcc, untrackedExit := pins.exitOcc }

/-- The program library's part: a load in progress is discarded and every pin count becomes 0 (R2,
R18). -/
def Slot.stationReset (k : Slot) : Slot :=
  if k.state = .loading ∨ k.state = .validating then Slot.emptied else { k with pins := 0 }

/-- The alignment unit's part (R61). -/
def Align.stationReset (a : Align) : Align :=
  { Align.initial with nextNumber := a.nextNumber, locateTimeouts := a.locateTimeouts }

/-- A head port's part: a configured head is sent one SCAN_STOP and is then queried (R64, R79, R81). -/
def Port.stationReset (configured : Bool) (expiry : Nat) (p : Port) : Port :=
  let p1 := { (if configured then p.send .scanStop else p) with
    queryTimer := none, scan := .idle, startTimer := none, tileTimer := none, record := none
    pools := Pair.all TilePool.empty, header := none, intake := []
    course := p.course.map Course.stopped }
  if configured then { p1 with link := .unknown }.query expiry else p1

/-- The window engine's part: every accumulator is FREE and the counters are kept (R102). -/
def Engine.stationReset (e : Engine) : Engine := { e.toIdle with pool := [] }

/-- The evaluator's part: an evaluation in progress ends without completion (R123). -/
def Evaluator.stationReset (v : Evaluator) : Evaluator := { v with queue := [], current := none }

/-- The process monitor's part (R153). -/
def Monitor.stationReset (m : Monitor) : Monitor :=
  { m with requests := [], work := none, changes := [], overwrites := 0 }

/-- The defect log's part (R163). -/
def DefectLog.stationReset (g : DefectLog) : DefectLog :=
  { g with segments := Quad.all Segment.empty, writePos := 0, overflow := Pair.all false }

/-- The parts of every block but the link controller; they touch different blocks, so their order does
not matter (R181). -/
def State.resetBlocks (s : State) : State :=
  { s with
    flow := s.flow.stationReset s.pins
    slots := s.slots.mapIdx (fun _ => Slot.stationReset)
    align := s.align.stationReset
    ports := s.ports.mapIdx (fun p x =>
      x.stationReset (s.configured p) (s.after StationConfig.locateTimeout))
    arbiter := Arbiter.initial
    engine := s.engine.stationReset
    evaluator := s.evaluator.stationReset
    decision := { s.decision with records := Pair.all .absent }
    monitor := s.monitor.stationReset
    log := s.log.stationReset }

/-- The number of contexts that are not FREE. -/
def Flow.occupied (w : Flow) : Nat :=
  (if w.ctxs.p0.state = .free then 0 else 1) + (if w.ctxs.p1.state = .free then 0 else 1)

/-- RESET_STATION (R42, R181): the request stays in service until the last part has completed
(assumption log 12). -/
def State.serveResetStation (s : State) : State :=
  if s.offline then s.refuse .badState
  else s.resetBlocks.modLink (fun l => { l with resetCount := some s.flow.occupied })

/-- STATION_RESET_COMPLETE (R181): the notices not yet begun are lost and the reply is formed. With no
reset in progress there is nothing to complete (assumption log 3). -/
def execStationResetComplete (s : State) : Result :=
  match s.link.resetCount with
  | none => .next s
  | some n =>
    .next ((s.modLink (fun l => { l with notices := [], pending := [], resetCount := none })).reply .ok
      [byteOf n]).pump

/-- COLD_RESET (R42, R182): every block returns to its initial state; the input lines keep their levels,
the time begins again at 0, and the commands that wait outside are the sender's. -/
def execColdReset (s : State) : Result :=
  .next { State.reset with
    pins := s.pins
    flow := Flow.afterColdReset s.pins.measureOcc s.pins.exitOcc s.pins.stop
    pending := s.pending }

end Sys2Proof.Machine
end

