-- ==== Sys2Proof/Machine/HostLink.lean ====
section
/-! DEFINITION. HostLink.lean: the link controller's taking of frames (R165 to R169), with the events
HOST_BYTE_RECEIVED, HOST_FRAME_RECEIVED, HELD_FRAME_TAKEN and TRANSMIT_COMPLETE, and the 25 requests as
commands of their own. -/

namespace Sys2Proof.Machine

/-! ### Taking a frame (R167, R168) -/

/-- A request handed to its owner (R167, step 3; the table of section 10.2). -/
def State.serve (s : State) (k : ReqKind) (b : List Byte) : State :=
  match k with
  | .identify => s.reply .ok identification
  | .configureStation => s.serveConfigure b
  | .setMode => s.serveSetMode b
  | .programBegin => s.serveProgramBegin b
  | .programData => s.serveProgramData b
  | .programEnd => s.serveProgramEnd b
  | .programErase => s.serveProgramErase b
  | .programStatus => s.serveProgramStatus b
  | .queuePanel => s.serveQueuePanel b
  | .cancelQueue => s.serveCancelQueue
  | .panelStatus => s.servePanelStatus b
  | .readVerdicts => s.serveReadVerdicts b
  | .readLog => s.serveReadLog b
  | .releaseSegment => s.serveReleaseSegment b
  | .readDrift => s.serveReadDrift b
  | .resetDrift => s.serveResetDrift b
  | .readRepeat => s.serveReadRepeat b
  | .clearRepeat => s.serveClearRepeat b
  | .readOvenCodes => s.serveReadOvenCodes
  | .setNoticeMask => s.serveSetNoticeMask b
  | .clearStop => s.serveClearStop
  | .clearFault => s.serveClearFault
  | .resetStation => s.serveResetStation
  | .readCounters => s.reply .ok s.counterBytes
  | .clearCounters => s.serveClearCounters

/-- UNKNOWN_KINDS up by 1 (R167, R168). -/
def State.countUnknownKind (s : State) : State :=
  s.modLink (Link.count (fun k => { k with unknownKinds := bump k.unknownKinds 1 }))

/-- A frame that has become the request in service is answered or handed to its owner (R167). -/
def State.serveFrame (s : State) (f : Frame) : State :=
  match ReqKind.ofByte f.kind with
  | none => s.countUnknownKind.refuse .badKind
  | some k => if k.bodyFits f.body.length then s.serve k f.body else s.refuse .badArg

/-- A frame taken while another request is in service: an answer joins the refusal list (R168). -/
def State.turnAway (s : State) (f : Frame) : State :=
  match ReqKind.ofByte f.kind with
  | none =>
    s.countUnknownKind.modLink (fun l =>
      { l with refusals := l.refusals ++ [⟨f.kind + 0x80, f.tag, .badKind⟩] })
  | some _ =>
    s.modLink (fun l =>
      { l with
        refusals := l.refusals ++ [⟨f.kind + 0x80, f.tag, .busy⟩]
        counters := { l.counters with busyReplies := bump l.counters.busyReplies 1 } })

/-- A valid frame is taken, turned away, or held for want of room in the refusal list (R167, R168). -/
def State.takeFrame (s : State) (f : Frame) : State :=
  match s.link.inService with
  | none => (s.modLink (fun l => { l with inService := some (f.kind, f.tag) })).serveFrame f
  | some _ =>
    if s.link.refusals.length < Config.refusalListSize then s.turnAway f
    else s.modLink (fun l => { l with held := some f })

/-- RX_OVERRUNS up by 1 (R168). -/
def State.countOverrun (s : State) : State :=
  s.modLink (Link.count (fun k => { k with overruns := bump k.overruns 1 }))

/-- RX_FORMAT_ERRORS up by 1 (R165, R166). -/
def State.countFormatError (s : State) : State :=
  s.modLink (Link.count (fun k => { k with formatErrors := bump k.formatErrors 1 }))

/-- A frame that passes the checks of R166 is counted and taken; one completed while a frame is held is
discarded and counted (R166, R168). -/
def State.deliver (s : State) (f : Frame) : State :=
  if s.link.held.isSome then s.countOverrun
  else
    (s.modLink (Link.count (fun k => { k with framesValid := bump k.framesValid 1 }))).takeFrame f

/-- A frame completed by its closing delimiter (R166, R168). -/
def State.completeFrame (s : State) (decoded : List Byte) : State :=
  if s.link.held.isSome then s.countOverrun
  else
    match checkFrame decoded with
    | .format => s.countFormatError
    | .crc => s.modLink (Link.count (fun k => { k with crcErrors := bump k.crcErrors 1 }))
    | .length => s.modLink (Link.count (fun k => { k with lengthErrors := bump k.lengthErrors 1 }))
    | .valid f => s.deliver f

/-- HOST_FRAME_RECEIVED (R165, R166): a frame given by its decoded bytes. No bytes between delimiters is
idle fill, and more than 1,030 is an overlong frame (assumption log 7). -/
def execHostFrameReceived (decoded : List Byte) (s : State) : Result :=
  if decoded = [] then .next s
  else if Config.frameMax < decoded.length then .next s.countFormatError
  else .next (s.completeFrame decoded).pump

/-- What a received byte brings about beyond the framer's own move (R165, R168; assumption log 14). -/
def State.framerEvent (s : State) : FramerEvent → State
  | .none => s
  | .formatError => s.countFormatError
  | .complete decoded unstored =>
    if 0 < unstored then s.countOverrun else s.completeFrame decoded

/-- HOST_BYTE_RECEIVED (R165). -/
def execHostByteReceived (byte : Byte) (stopBit : Bool) (s : State) : Result :=
  let r := s.link.framer.take s.link.held.isSome byte stopBit
  .next ((s.modLink (fun l => { l with framer := r.1 })).framerEvent r.2).pump

/-- HELD_FRAME_TAKEN (R168): the held frame is taken once no request is in service or the refusal list
has room; until then, or with no frame held, nothing is taken (assumption logs 3 and 12). -/
def execHeldFrameTaken (s : State) : Result :=
  match s.link.held with
  | none => .next s
  | some f =>
    if s.link.inService.isNone || decide (s.link.refusals.length < Config.refusalListSize) then
      .next ((s.modLink (fun l => { l with held := none })).takeFrame f).pump
    else .next s

/-- The frame being sent is a reply (R167, R169). -/
def Sending.isReply : Sending → Bool
  | .reply _ => true
  | .answer _ => false
  | .notice _ => false

/-- TRANSMIT_COMPLETE (R167, R169): the frame being sent has gone whole; a reply's end clears the
in-service flag, and the transmitter chooses again. A free transmitter completes nothing (assumption
log 3). -/
def execTransmitComplete (s : State) : Result :=
  match s.link.sending with
  | none => .next s
  | some x =>
    .next ((s.modLink (fun l =>
      { l with sending := none, inService := if x.isReply then none else l.inService }))).pump

/-! ### The requests as commands (R186)

A request command is a valid frame of its kind with its tag and its body, completed on the link
(assumption log 7). -/

/-- A request's frame is completed on the link. -/
def State.request (s : State) (k : ReqKind) (tag : Byte) (body : List Byte) : Result :=
  .next (s.deliver ⟨k.byte, tag, body⟩).pump

/-- A two-byte field of a request body (R183). -/
def fieldOf (x : U16) : List Byte := be16 x.toNat

/-- IDENTIFY (R176). -/
def execIdentify (tag : Byte) (s : State) : Result := s.request .identify tag []

/-- CONFIGURE_STATION (R21). -/
def execConfigureStation (tag : Byte) (record : List Byte) (s : State) : Result :=
  s.request .configureStation tag record

/-- SET_MODE (R23). -/
def execSetMode (tag mode : Byte) (s : State) : Result := s.request .setMode tag [mode]

/-- PROGRAM_BEGIN (R9). -/
def execProgramBegin (tag slot : Byte) (header : List Byte) (s : State) : Result :=
  s.request .programBegin tag (slot :: header)

/-- PROGRAM_DATA (R10). -/
def execProgramData (tag slot sect : Byte) (first : U16) (count : Byte) (records : List Byte)
    (s : State) : Result :=
  s.request .programData tag ([slot, sect] ++ fieldOf first ++ [count] ++ records)

/-- PROGRAM_END (R11). -/
def execProgramEnd (tag slot : Byte) (s : State) : Result := s.request .programEnd tag [slot]

/-- PROGRAM_ERASE (R16). -/
def execProgramErase (tag slot : Byte) (s : State) : Result := s.request .programErase tag [slot]

/-- PROGRAM_STATUS (R17). -/
def execProgramStatus (tag slot : Byte) (s : State) : Result := s.request .programStatus tag [slot]

/-- QUEUE_PANEL (R26). -/
def execQueuePanel (tag : Byte) (descriptor : List Byte) (s : State) : Result :=
  s.request .queuePanel tag descriptor

/-- CANCEL_QUEUE (R27). -/
def execCancelQueue (tag : Byte) (s : State) : Result := s.request .cancelQueue tag []

/-- PANEL_STATUS (R177). -/
def execPanelStatus (tag context : Byte) (s : State) : Result := s.request .panelStatus tag [context]

/-- READ_VERDICTS (R178). -/
def execReadVerdicts (tag context : Byte) (first count : U16) (s : State) : Result :=
  s.request .readVerdicts tag (context :: (fieldOf first ++ fieldOf count))

/-- READ_LOG (R160). -/
def execReadLog (tag segment : Byte) (first : U16) (count : Byte) (s : State) : Result :=
  s.request .readLog tag (segment :: (fieldOf first ++ [count]))

/-- RELEASE_SEGMENT (R161). -/
def execReleaseSegment (tag segments : Byte) (s : State) : Result :=
  s.request .releaseSegment tag [segments]

/-- READ_DRIFT (R142). -/
def execReadDrift (tag slot first count : Byte) (s : State) : Result :=
  s.request .readDrift tag [slot, first, count]

/-- RESET_DRIFT (R141). -/
def execResetDrift (tag slot first last : Byte) (s : State) : Result :=
  s.request .resetDrift tag [slot, first, last]

/-- READ_REPEAT (R147). -/
def execReadRepeat (tag slot : Byte) (first count : U16) (s : State) : Result :=
  s.request .readRepeat tag (slot :: (fieldOf first ++ fieldOf count))

/-- CLEAR_REPEAT (R146). -/
def execClearRepeat (tag slot : Byte) (s : State) : Result := s.request .clearRepeat tag [slot]

/-- READ_OVEN_CODES (R151). -/
def execReadOvenCodes (tag : Byte) (s : State) : Result := s.request .readOvenCodes tag []

/-- SET_NOTICE_MASK (R175). -/
def execSetNoticeMask (tag kinds : Byte) (s : State) : Result := s.request .setNoticeMask tag [kinds]

/-- CLEAR_STOP (R38). -/
def execClearStop (tag : Byte) (s : State) : Result := s.request .clearStop tag []

/-- CLEAR_FAULT (R39). -/
def execClearFault (tag : Byte) (s : State) : Result := s.request .clearFault tag []

/-- RESET_STATION (R181). -/
def execResetStation (tag : Byte) (s : State) : Result := s.request .resetStation tag []

/-- READ_COUNTERS (R179). -/
def execReadCounters (tag : Byte) (s : State) : Result := s.request .readCounters tag []

/-- CLEAR_COUNTERS (R180). -/
def execClearCounters (tag : Byte) (s : State) : Result := s.request .clearCounters tag []

end Sys2Proof.Machine
end

