-- ==== Sys2Proof/Machine/Dispatch.lean ====
section
/-! DEFINITION. Dispatch.lean: the meaning of every command, one arm per constructor. -/

namespace Sys2Proof.Machine

/-- What a command does to everything but the queue of waiting commands. -/
def exec (i : Instr) (s : State) : Host.Outcome State Fault Refusal :=
  match i with
  | .coldReset => Sys2Proof.Machine.execColdReset s
  | .hostFrameReceived decoded => Sys2Proof.Machine.execHostFrameReceived decoded s
  | .heldFrameTaken => Sys2Proof.Machine.execHeldFrameTaken s
  | .transmitComplete => Sys2Proof.Machine.execTransmitComplete s
  | .identify tag => Sys2Proof.Machine.execIdentify tag s
  | .configureStation tag record => Sys2Proof.Machine.execConfigureStation tag record s
  | .setMode tag mode => Sys2Proof.Machine.execSetMode tag mode s
  | .programBegin tag slot header => Sys2Proof.Machine.execProgramBegin tag slot header s
  | .programData tag slot sect first count records => Sys2Proof.Machine.execProgramData tag slot sect first count records s
  | .programEnd tag slot => Sys2Proof.Machine.execProgramEnd tag slot s
  | .validationComplete => Sys2Proof.Machine.execValidationComplete s
  | .programErase tag slot => Sys2Proof.Machine.execProgramErase tag slot s
  | .programStatus tag slot => Sys2Proof.Machine.execProgramStatus tag slot s
  | .queuePanel tag descriptor => Sys2Proof.Machine.execQueuePanel tag descriptor s
  | .cancelQueue tag => Sys2Proof.Machine.execCancelQueue tag s
  | .panelStatus tag context => Sys2Proof.Machine.execPanelStatus tag context s
  | .readVerdicts tag context first count => Sys2Proof.Machine.execReadVerdicts tag context first count s
  | .readLog tag segment first count => Sys2Proof.Machine.execReadLog tag segment first count s
  | .releaseSegment tag segments => Sys2Proof.Machine.execReleaseSegment tag segments s
  | .readDrift tag slot first count => Sys2Proof.Machine.execReadDrift tag slot first count s
  | .resetDrift tag slot first last => Sys2Proof.Machine.execResetDrift tag slot first last s
  | .readRepeat tag slot first count => Sys2Proof.Machine.execReadRepeat tag slot first count s
  | .clearRepeat tag slot => Sys2Proof.Machine.execClearRepeat tag slot s
  | .readOvenCodes tag => Sys2Proof.Machine.execReadOvenCodes tag s
  | .setNoticeMask tag kinds => Sys2Proof.Machine.execSetNoticeMask tag kinds s
  | .clearStop tag => Sys2Proof.Machine.execClearStop tag s
  | .clearFault tag => Sys2Proof.Machine.execClearFault tag s
  | .resetStation tag => Sys2Proof.Machine.execResetStation tag s
  | .stationResetComplete => Sys2Proof.Machine.execStationResetComplete s
  | .readCounters tag => Sys2Proof.Machine.execReadCounters tag s
  | .clearCounters tag => Sys2Proof.Machine.execClearCounters tag s
  | .measureOccRise => Sys2Proof.Machine.execMeasureOccRise s
  | .measureOccFall => Sys2Proof.Machine.execMeasureOccFall s
  | .exitOccRise => Sys2Proof.Machine.execExitOccRise s
  | .exitOccFall => Sys2Proof.Machine.execExitOccFall s
  | .downstreamReadyRise => Sys2Proof.Machine.execDownstreamReadyRise s
  | .stopFall => Sys2Proof.Machine.execStopFall s
  | .stopRise => Sys2Proof.Machine.execStopRise s
  | .exitTimerExpiry => Sys2Proof.Machine.execExitTimerExpiry s
  | .taktDeadlineExpiry ctx => Sys2Proof.Machine.execTaktDeadlineExpiry ctx s
  | .locateResult port good body => Sys2Proof.Machine.execLocateResult port good body s
  | .locateTimerExpiry port => Sys2Proof.Machine.execLocateTimerExpiry port s
  | .armingComplete => Sys2Proof.Machine.execArmingComplete s
  | .headReady port good body => Sys2Proof.Machine.execHeadReady port good body s
  | .queryTimerExpiry port => Sys2Proof.Machine.execQueryTimerExpiry port s
  | .startTimerExpiry port => Sys2Proof.Machine.execStartTimerExpiry port s
  | .tileHeader port seq rowBlock column => Sys2Proof.Machine.execTileHeader port seq rowBlock column s
  | .tile port good data => Sys2Proof.Machine.execTile port good data s
  | .tileLost port good body => Sys2Proof.Machine.execTileLost port good body s
  | .scanEnd port good body => Sys2Proof.Machine.execScanEnd port good body s
  | .headUnknownFrame port => Sys2Proof.Machine.execHeadUnknownFrame port s
  | .tileTimerExpiry port => Sys2Proof.Machine.execTileTimerExpiry port s
  | .intakeComplete => Sys2Proof.Machine.execIntakeComplete s
  | .evaluationComplete => Sys2Proof.Machine.execEvaluationComplete s
  | .repeatSiteUpdate => Sys2Proof.Machine.execRepeatSiteUpdate s
  | .ovenRecognition code => Sys2Proof.Machine.execOvenRecognition code s
  | .ovenSample code ready => Sys2Proof.Machine.execOvenSample code ready s
  | .hostByteReceived byte stopBit => Sys2Proof.Machine.execHostByteReceived byte stopBit s
  | .armingJointVisit => Sys2Proof.Machine.execArmingJointVisit s

end Sys2Proof.Machine
end

