-- ==== Sys2Proof/Safety.lean ====
section
/-! DEFINITION. Safety.lean: what a sound state is, block by block, in the terms the statements use, and
the words they share for requests and their replies. -/

namespace Sys2Proof.Machine

/-! ### The output lines (R22, R25, R29, R36) -/

/-- ENTRY_ENABLE is high only in RUNNING, SHIFT and RELEASE only in RUNNING and DRAINING (the table of
R22), and the exit timer runs exactly while RELEASE is high (R36). -/
structure Flow.LinesOk (w : Flow) : Prop where
  entry : w.entryEnable = true → w.station = .running
  moving : w.moving = false → w.shift = false ∧ w.release = false
  timer : w.exitTimer.isSome = w.release

/-- The default slot is usable (R29): one is configured, it is VALID, and its program pitch equals the
station pitch. -/
def State.DefaultUsable (s : State) : Prop :=
  ∃ (f : StationConfig) (k : SlotId) (h : Header), s.flow.config = some f ∧ f.defaultSlot = some k
    ∧ (s.slots.get k).header = some h ∧ (s.slots.get k).state = .valid ∧ h.pitch = f.pitch

/-- The terms of R29. -/
structure State.EntryTerms (s : State) : Prop where
  running : s.flow.station = .running
  free : ∃ c, (s.ctx c).state = .free
  measure : ∀ c, (s.ctx c).position ≠ .measure
  untracked : s.flow.untrackedMeasure = false
  panel : s.flow.queue ≠ [] ∨ s.DefaultUsable

/-- The terms of R34 for the context at MEASURE. -/
structure State.ShiftTerms (s : State) : Prop where
  context : ∃ c, (s.ctx c).position = .measure
    ∧ ((s.ctx c).state = .judging ∨ (s.ctx c).state = .decided)
    ∧ (s.ctx c).inTransit = false ∧ (s.ctx c).removed = false
  exitLow : s.pins.exitOcc = false
  exit : ∀ c, (s.ctx c).position ≠ .exit
  untracked : s.flow.untrackedExit = false
  moving : s.flow.station = .running ∨ s.flow.station = .draining

/-- Every single line is as its terms say: ENTRY_ENABLE by R29, SHIFT by R34, RELEASE high while a
context is RELEASING and the station moves (R35), and the exit timer runs while RELEASE is high (R36). -/
structure State.LinesFollow (s : State) : Prop where
  entry : s.flow.entryEnable = true ↔ s.EntryTerms
  shift : s.flow.shift = true ↔ s.ShiftTerms
  release : s.flow.release = true ↔ (∃ c, (s.ctx c).state = .releasing)
    ∧ (s.flow.station = .running ∨ s.flow.station = .draining)
  timer : s.flow.exitTimer.isSome = s.flow.release

/-- The context the alignment unit aligns is in ALIGNING, and the one the window engine arms is in
ARMING (R31). -/
structure State.PhasesOk (s : State) : Prop where
  aligning : ∀ c, s.align.aligning = some c → (s.ctx c).state = .aligning
  arming : s.engine.service = .arming → ∀ j, s.engine.served = some j →
    (s.ctx j.ctx).state = .arming

/-! ### The verdict tables (R109 to R111) -/

/-- The number of entries of a table that hold a verdict. -/
def tally (v : Verdict) (l : List VerdictEntry) : Nat := l.countP (fun e => e.verdict == v)

/-- A context's UNSET count and eight verdict counts are what its table holds. -/
structure Context.Tallied (x : Context) : Prop where
  unset : x.unset = tally .unset x.verdicts
  pass : x.counts.pass = tally .pass x.verdicts
  bridge : x.counts.bridge = tally .bridge x.verdicts
  openJoint : x.counts.openJoint = tally .openJoint x.verdicts
  low : x.counts.low = tally .low x.verdicts
  high : x.counts.high = tally .high x.verdicts
  shift : x.counts.shift = tally .shift x.verdicts
  unmeasured : x.counts.unmeasured = tally .unmeasured x.verdicts
  skipped : x.counts.skipped = tally .skipped x.verdicts

/-! ### The host link (R165, R168, R169, R172 to R174) -/

/-- The pending slots are in canonical form: rising kinds below 8, each with a notice of its own kind and
a count of 1 to 65,535. -/
structure Link.PendingOk (l : Link) : Prop where
  wf : mapWf l.pending
  kind : ∀ e ∈ l.pending, e.1 = e.2.data.kind
  count : ∀ e ∈ l.pending, 1 ≤ e.2.count ∧ e.2.count ≤ 65535

/-- The queue is full, or no kind that is not masked has a pending notice (R174). -/
def Link.Drained (l : Link) : Prop :=
  l.notices.length = Config.noticeQueueSize ∨
    ∀ k, l.masked k = false → mapGet k l.pending = none

/-- The transmitter is busy, or nothing waits for it (R169). -/
def Link.Settled (l : Link) : Prop :=
  l.sending = none → l.replySlot = none ∧ l.refusals = [] ∧ l.notices = []

/-- The link controller's capacities and its two standing rules. -/
structure Link.Ok (l : Link) : Prop where
  notices : l.notices.length ≤ Config.noticeQueueSize
  refusals : l.refusals.length ≤ Config.refusalListSize
  framer : l.framer.count ≤ Config.frameMax
  pending : l.PendingOk
  drained : l.Drained
  settled : l.Settled

/-! ### The defect log (R156 to R159) -/

/-- A FREE segment is empty, a FILLING one holds 1 to 1,023 records, a READY one 1 to 1,024. -/
def Segment.Ok (g : Segment) : Prop :=
  match g.state with
  | .free => g.records = []
  | .filling => 1 ≤ g.records.length ∧ g.records.length < Config.segmentSize
  | .ready => 1 ≤ g.records.length ∧ g.records.length ≤ Config.segmentSize

/-- Every segment is as its state says, and only the one at the write position is FILLING. -/
structure DefectLog.Ok (g : DefectLog) : Prop where
  segments : ∀ k, (g.segments.get k).Ok
  filling : ∀ k, (g.segments.get k).state = .filling → k = g.writePos

/-! ### Buffers and maps of the other blocks (R26, R83, R138, R143, R149) -/

/-- The process monitor's lists are in canonical form and within their capacities. -/
structure Monitor.Ok (m : Monitor) : Prop where
  drift : mapWf m.drift
  repeats : mapWf m.repeats
  values : ∀ e ∈ m.repeats, 1 ≤ e.2 ∧ e.2 ≤ 255
  requests : m.requests.length ≤ Config.repeatListSize
  idle : m.work = none → m.requests = []
  changes : m.changes.length ≤ 2

/-- The accumulator pool lists held accumulators by rising number below 1,024, and PEAK_ACCUMULATORS is
no less than their number (R83, R103). -/
structure Engine.PoolOk (e : Engine) : Prop where
  wf : mapWf e.pool
  numbers : ∀ a ∈ e.pool, a.1 < Config.accumulators
  peak : e.pool.length ≤ e.peak

/-- The defect log, the process monitor and the accumulator pool are in their standing form. -/
structure State.BuffersOk (s : State) : Prop where
  log : s.log.Ok
  monitor : s.monitor.Ok
  pool : s.engine.PoolOk

/-! ### Requests and replies (R167 to R169, R185) -/

/-- A request completed now is carried out: none is in service and no frame is held. -/
def State.Takes (s : State) : Prop := s.link.inService = none ∧ s.link.held = none

/-- The reply frame to a request of a kind and tag (R167, R185). -/
def replyFrame (kind tag : Byte) (st : Status) (results : List Byte) : Frame :=
  ⟨kind + 0x80, tag, st.code :: results⟩

/-- The link controller once it has taken a request, counted its frame, formed its reply and begun to
send it if the transmitter was free (R166, R167, R169). -/
def Link.answered (l : Link) (kind tag : Byte) (st : Status) (results : List Byte) : Link :=
  { l with
    inService := some (kind, tag)
    counters := { l.counters with framesValid := bump l.counters.framesValid 1 }
    replySlot := if l.sending.isNone then none else some (replyFrame kind tag st results)
    sending := if l.sending.isNone then some (.reply (replyFrame kind tag st results)) else l.sending }

/-- The state in which a request has been answered and nothing else has changed. -/
def State.answered (s : State) (k : ReqKind) (tag : Byte) (st : Status) (results : List Byte) : State :=
  { s with link := s.link.answered k.byte tag st results }

/-- The state in which the request in service has been answered and nothing else has changed (R167,
R169). -/
def State.replied (s : State) (kind tag : Byte) (st : Status) (results : List Byte) : State :=
  { s with link := { s.link with
      replySlot := if s.link.sending.isNone then none else some (replyFrame kind tag st results)
      sending := if s.link.sending.isNone then some (.reply (replyFrame kind tag st results))
        else s.link.sending } }

/-- The link controller once it has taken a request and counted its frame (R166, R167). -/
def Link.taken (l : Link) (kind tag : Byte) : Link :=
  { l with
    inService := some (kind, tag)
    counters := { l.counters with framesValid := bump l.counters.framesValid 1 } }

/-- The frame a request command stands for; none for any other command. -/
def requestFrame : Instr → Option Frame
  | .identify tag => some ⟨0x01, tag, []⟩
  | .configureStation tag record => some ⟨0x02, tag, record⟩
  | .setMode tag mode => some ⟨0x03, tag, [mode]⟩
  | .programBegin tag slot header => some ⟨0x10, tag, slot :: header⟩
  | .programData tag slot sect first count records =>
    some ⟨0x11, tag, [slot, sect] ++ be16 first.toNat ++ [count] ++ records⟩
  | .programEnd tag slot => some ⟨0x12, tag, [slot]⟩
  | .programErase tag slot => some ⟨0x13, tag, [slot]⟩
  | .programStatus tag slot => some ⟨0x14, tag, [slot]⟩
  | .queuePanel tag descriptor => some ⟨0x20, tag, descriptor⟩
  | .cancelQueue tag => some ⟨0x21, tag, []⟩
  | .panelStatus tag context => some ⟨0x22, tag, [context]⟩
  | .readVerdicts tag context first count =>
    some ⟨0x23, tag, context :: (be16 first.toNat ++ be16 count.toNat)⟩
  | .readLog tag segment first count => some ⟨0x28, tag, segment :: (be16 first.toNat ++ [count])⟩
  | .releaseSegment tag segments => some ⟨0x29, tag, [segments]⟩
  | .readDrift tag slot first count => some ⟨0x30, tag, [slot, first, count]⟩
  | .resetDrift tag slot first last => some ⟨0x31, tag, [slot, first, last]⟩
  | .readRepeat tag slot first count =>
    some ⟨0x32, tag, slot :: (be16 first.toNat ++ be16 count.toNat)⟩
  | .clearRepeat tag slot => some ⟨0x33, tag, [slot]⟩
  | .readOvenCodes tag => some ⟨0x34, tag, []⟩
  | .setNoticeMask tag kinds => some ⟨0x38, tag, [kinds]⟩
  | .clearStop tag => some ⟨0x39, tag, []⟩
  | .clearFault tag => some ⟨0x3A, tag, []⟩
  | .resetStation tag => some ⟨0x3B, tag, []⟩
  | .readCounters tag => some ⟨0x3C, tag, []⟩
  | .clearCounters tag => some ⟨0x3D, tag, []⟩
  | .coldReset | .hostFrameReceived _ | .heldFrameTaken | .transmitComplete | .validationComplete
  | .stationResetComplete | .measureOccRise | .measureOccFall | .exitOccRise | .exitOccFall
  | .downstreamReadyRise | .stopFall | .stopRise | .exitTimerExpiry | .taktDeadlineExpiry _
  | .locateResult _ _ _ | .locateTimerExpiry _ | .armingComplete | .headReady _ _ _
  | .queryTimerExpiry _ | .startTimerExpiry _ | .tileHeader _ _ _ _ | .tile _ _ _ | .tileLost _ _ _
  | .scanEnd _ _ _ | .headUnknownFrame _ | .tileTimerExpiry _ | .intakeComplete
  | .evaluationComplete | .repeatSiteUpdate | .ovenRecognition _ | .ovenSample _ _
  | .hostByteReceived _ _ | .armingJointVisit => none

/-- The requests that are not available in a state (R171), each with the arguments that its own rule
checks before the state in range. -/
def State.Unavailable (s : State) : Instr → Prop
  | .configureStation _ record => record.length = 38 ∧
    (s.flow.station = .running ∨ s.flow.station = .draining ∨ s.flow.station = .stopped
      ∨ s.flow.station = .fault ∨ (s.flow.station = .idle ∧ s.flow.bothFree = false))
  | .setMode _ _ =>
    s.flow.station = .offline ∨ s.flow.station = .stopped ∨ s.flow.station = .fault
  | .programBegin _ slot header => slot.toNat < 4 ∧ header.length = 37 ∧ s.flow.station = .offline
  | .programData _ slot _ _ _ records =>
    slot.toNat < 4 ∧ 19 ≤ records.length ∧ records.length ≤ 1019 ∧ s.flow.station = .offline
  | .programEnd _ slot | .programErase _ slot => slot.toNat < 4 ∧ s.flow.station = .offline
  | .queuePanel _ descriptor => descriptor.length = 38 ∧ s.flow.station = .offline
  | .cancelQueue _ | .resetStation _ | .clearRepeat _ _ | .resetDrift _ _ _ _ =>
    s.flow.station = .offline
  | .readVerdicts _ context _ count => ∃ c : CtxId, context.toNat = c.val ∧ 1 ≤ count.toNat
    ∧ count.toNat ≤ 256 ∧ (s.ctx c).state = .free
  | .readLog _ segment _ count => ∃ g : SegId, segment.toNat = g.val ∧ 1 ≤ count.toNat
    ∧ count.toNat ≤ 32 ∧ (s.log.segments.get g).state ≠ .ready
  | .clearStop _ => s.flow.station ≠ .stopped ∨ s.pins.stop = true
  | .clearFault _ => s.flow.station ≠ .fault
  | .coldReset | .hostFrameReceived _ | .heldFrameTaken | .transmitComplete | .validationComplete
  | .stationResetComplete | .measureOccRise | .measureOccFall | .exitOccRise | .exitOccFall
  | .downstreamReadyRise | .stopFall | .stopRise | .exitTimerExpiry | .taktDeadlineExpiry _
  | .locateResult _ _ _ | .locateTimerExpiry _ | .armingComplete | .headReady _ _ _
  | .queryTimerExpiry _ | .startTimerExpiry _ | .tileHeader _ _ _ _ | .tile _ _ _ | .tileLost _ _ _
  | .scanEnd _ _ _ | .headUnknownFrame _ | .tileTimerExpiry _ | .intakeComplete
  | .evaluationComplete | .repeatSiteUpdate | .ovenRecognition _ | .ovenSample _ _
  | .hostByteReceived _ _ | .armingJointVisit | .identify _ | .programStatus _ _ | .panelStatus _ _
  | .releaseSegment _ _ | .readDrift _ _ _ _ | .readRepeat _ _ _ _ | .readOvenCodes _
  | .setNoticeMask _ _ | .readCounters _ | .clearCounters _ => False

/-- The reply that has been formed and not yet gone whole: waiting in the reply slot, or being sent. -/
def State.replyOf (s : State) : Option Frame :=
  match s.link.replySlot with
  | some f => some f
  | none =>
    match s.link.sending with
    | some (.reply f) => some f
    | _ => none

/-- A number of steps one after another. -/
def stepMany : Nat → State → Result
  | 0, s => .next s
  | n + 1, s =>
    match step s with
    | .next t => stepMany n t
    | .fault r => .fault r
    | .refused r => .refused r

end Sys2Proof.Machine
end

