-- ==== Sys2Proof/Certificates/Slice0/Obligations.lean ====
section
/-! DEFINITION. Obligations.lean: the statements for the provers. A statement about an exact next state
says by that equation what every part of the machine holds afterwards, those the command leaves alone
among them. -/

open Sys2Proof Sys2Proof.Machine

/-! ### Steps and commands -/

/-- A step is the command at the front of the queue carried out with the queue's rest; a step on an empty
queue changes nothing (the model's choice, assumption log 23). -/
def Obligations.StepRunsTheFrontCommand : Prop :=
  (∀ (c : Instr) (s : State), step { s with pending := c :: s.pending } = exec c s) ∧
  (∀ (c : Instr) (rest : List Instr) (s : State), s.pending = c :: rest →
    step s = exec c { s with pending := rest }) ∧
  ∀ s : State, s.pending = [] → step s = .next s

/-- Every command answers a next state in every state, and leaves the queue of waiting commands alone. -/
def Obligations.EveryCommandIsCarriedOut : Prop :=
  ∀ (c : Instr) (s : State), ∃ t, exec c s = .next t ∧ t.pending = s.pending

/-! ### Frames on the host link (R164 to R169) -/

/-- The checks of R166 find in the decoded bytes of a frame (R164, R185) that very frame. -/
def Obligations.HostFrameRoundTrip : Prop :=
  ∀ f : Frame, f.body.length ≤ 1024 → checkFrame f.decoded = .valid f

/-- The bytes of a frame as R164 sends it, received one after another by a framer in HUNT or in FRAME with
nothing received, are that frame received whole: no byte of the encoding is lost or added. -/
def Obligations.FramerReassemblesTheFrame : Prop :=
  ∀ (s : State) (f : Frame), f.body.length ≤ 1024 → s.link.held = none → s.link.Settled →
    (s.link.framer.state = .hunt ∨ s.link.framer = ⟨.frame, [], 0⟩) →
    stepMany f.wire.length
        { s with pending := f.wire.map (fun b => Instr.hostByteReceived b true) ++ s.pending }
      = exec (.hostFrameReceived f.decoded)
          { s with link := { s.link with framer := ⟨.frame, [], 0⟩ } }

/-- A request command is the frame of R185 and R186 with its kind, tag and body, received whole (the
model's choice, assumption log 7). -/
def Obligations.RequestIsItsFrame : Prop :=
  ∀ (c : Instr) (f : Frame) (s : State), requestFrame c = some f → f.body.length ≤ 1024 →
    exec c s = exec (.hostFrameReceived f.decoded) s

/-- The checks of a completed frame in their order (R166). The link is settled: its transmitter is busy or
nothing waits for it. -/
def Obligations.CompletedFrameIsChecked : Prop :=
  ∀ (s : State) (d : List Byte), s.link.held = none → s.link.Settled → d ≠ [] → d.length ≤ 1030 →
    (d.length < 6 →
      exec (.hostFrameReceived d) s = .next (s.modLink (Link.count (fun k =>
        { k with formatErrors := bump k.formatErrors 1 })))) ∧
    (6 ≤ d.length → be16 (crc16 (d.take (d.length - 2))).toNat ≠ d.drop (d.length - 2) →
      exec (.hostFrameReceived d) s = .next (s.modLink (Link.count (fun k =>
        { k with crcErrors := bump k.crcErrors 1 })))) ∧
    (6 ≤ d.length → be16 (crc16 (d.take (d.length - 2))).toNat = d.drop (d.length - 2) →
      (1024 < u16 d 2 ∨ u16 d 2 ≠ d.length - 6) →
      exec (.hostFrameReceived d) s = .next (s.modLink (Link.count (fun k =>
        { k with lengthErrors := bump k.lengthErrors 1 })))) ∧
    (6 ≤ d.length → be16 (crc16 (d.take (d.length - 2))).toNat = d.drop (d.length - 2) →
      u16 d 2 = d.length - 6 →
      exec (.hostFrameReceived d) s = .next (((s.modLink (Link.count (fun k =>
        { k with framesValid := bump k.framesValid 1 }))).takeFrame
          ⟨d.getD 0 0, d.getD 1 0, (d.drop 4).take (d.length - 6)⟩).pump))

/-- The table of the receive framer (R165), a byte at a time, while no frame is held and every byte of the
frame in progress is stored (RefusedWhileInService has the other bytes). Every clause but the completion
says that the framer and at most RX_FORMAT_ERRORS change. An error before the first byte of a frame is
counted (the model's reading, assumption log 15). -/
def Obligations.FramerTakesAByte : Prop :=
  (∀ (s : State) (st : FramerState) (b : List Byte) (x : Byte),
    s.link.held = none → s.link.Settled → s.link.framer = ⟨st, b, 0⟩ → b.length ≤ 1030 →
    let moves (st' : FramerState) (b' : List Byte) : Result :=
      .next { s with link := { s.link with framer := ⟨st', b', 0⟩ } }
    let error (st' : FramerState) : Result :=
      .next { s with link := { s.link with
        framer := ⟨st', [], 0⟩
        counters := { s.link.counters with formatErrors := bump s.link.counters.formatErrors 1 } } }
    (st = .hunt → x = 0xC5 → exec (.hostByteReceived x true) s = moves .frame []) ∧
    (st = .hunt → x ≠ 0xC5 → exec (.hostByteReceived x true) s = .next s) ∧
    (st = .frame → x = 0xC5 → b = [] → exec (.hostByteReceived x true) s = moves .frame []) ∧
    (st = .frame → x = 0xC5 → b ≠ [] →
      exec (.hostByteReceived x true) s = exec (.hostFrameReceived b)
        { s with link := { s.link with framer := ⟨.frame, [], 0⟩ } }) ∧
    (st = .frame → x = 0xCA → exec (.hostByteReceived x true) s = moves .escape b) ∧
    (st = .frame → x ≠ 0xC5 → x ≠ 0xCA → b.length < 1030 →
      exec (.hostByteReceived x true) s = moves .frame (b ++ [x])) ∧
    (st = .frame → x ≠ 0xC5 → x ≠ 0xCA → b.length = 1030 →
      exec (.hostByteReceived x true) s = error .hunt) ∧
    (st = .escape → x = 0x85 → b.length < 1030 →
      exec (.hostByteReceived x true) s = moves .frame (b ++ [0xC5])) ∧
    (st = .escape → x = 0x8A → b.length < 1030 →
      exec (.hostByteReceived x true) s = moves .frame (b ++ [0xCA])) ∧
    (st = .escape → (x = 0x85 ∨ x = 0x8A) → b.length = 1030 →
      exec (.hostByteReceived x true) s = error .hunt) ∧
    (st = .escape → x = 0xC5 → exec (.hostByteReceived x true) s = error .frame) ∧
    (st = .escape → x ≠ 0xC5 → x ≠ 0x85 → x ≠ 0x8A →
      exec (.hostByteReceived x true) s = error .hunt) ∧
    (st = .hunt → exec (.hostByteReceived x false) s = .next s) ∧
    (st ≠ .hunt → exec (.hostByteReceived x false) s = error .hunt)) ∧
  (∀ s : State, ∃ t, exec .coldReset s = .next t ∧ t.link.framer = ⟨.hunt, [], 0⟩) ∧
  (∀ (s : State) (tag : Byte), ∃ t, exec (.resetStation tag) s = .next t ∧
    t.link.framer = s.link.framer) ∧
  ∀ s : State, ∃ t, exec .stationResetComplete s = .next t ∧ t.link.framer = s.link.framer

/-- A valid frame taken while no request is in service and no frame is held (R167, R186): a kind byte that
the table of R186 does not give is answered BAD_KIND at once, a body shorter than the least or longer than
the greatest length of its kind BAD_ARG, and every other frame goes to its owner as the request in
service. The rows are the kind bytes of R186, the request each names, and its least and greatest body. -/
def Obligations.RequestIsTaken : Prop :=
  let rows : List (Byte × ReqKind × Nat × Nat) := [
    (0x01, .identify, 0, 0), (0x02, .configureStation, 38, 38), (0x03, .setMode, 1, 1),
    (0x10, .programBegin, 38, 38), (0x11, .programData, 24, 1024), (0x12, .programEnd, 1, 1),
    (0x13, .programErase, 1, 1), (0x14, .programStatus, 1, 1), (0x20, .queuePanel, 38, 38),
    (0x21, .cancelQueue, 0, 0), (0x22, .panelStatus, 1, 1), (0x23, .readVerdicts, 5, 5),
    (0x28, .readLog, 4, 4), (0x29, .releaseSegment, 1, 1), (0x30, .readDrift, 3, 3),
    (0x31, .resetDrift, 3, 3), (0x32, .readRepeat, 5, 5), (0x33, .clearRepeat, 1, 1),
    (0x34, .readOvenCodes, 0, 0), (0x38, .setNoticeMask, 1, 1), (0x39, .clearStop, 0, 0),
    (0x3A, .clearFault, 0, 0), (0x3B, .resetStation, 0, 0), (0x3C, .readCounters, 0, 0),
    (0x3D, .clearCounters, 0, 0)]
  ∀ (s : State) (f : Frame), s.Takes → f.body.length ≤ 1024 →
    ((∀ r ∈ rows, r.1 ≠ f.kind) →
      exec (.hostFrameReceived f.decoded) s = .next { s with
        link := (s.link.count (fun k => { k with unknownKinds := bump k.unknownKinds 1 })).answered
          f.kind f.tag .badKind [] }) ∧
    ∀ (k : ReqKind) (least greatest : Nat), (f.kind, k, least, greatest) ∈ rows →
      (f.body.length < least ∨ greatest < f.body.length →
        exec (.hostFrameReceived f.decoded) s = .next { s with
          link := s.link.answered f.kind f.tag .badArg [] }) ∧
      (least ≤ f.body.length → f.body.length ≤ greatest →
        exec (.hostFrameReceived f.decoded) s = .next ((({ s with link := { s.link with
          inService := some (f.kind, f.tag)
          counters := { s.link.counters with
            framesValid := bump s.link.counters.framesValid 1 } } }).serve k f.body).pump))

/-- Frames that arrive while a request is in service (R168, R186): an answer BUSY or BAD_KIND joins a
refusal list with room, the frame is held when the list is full, and the held frame is taken later. A
HELD_FRAME_TAKEN while the list is full and a request in service changes nothing (the model's choice,
assumption log 3). While a frame is held the framer takes each byte by the table of R165, but decoded bytes
are counted and not stored, and a closing delimiter discards its frame and raises RX_OVERRUNS. A frame of
which some bytes were counted and not stored goes on as such a frame once the held frame has been taken:
its bytes then are stored, and its closing delimiter raises RX_OVERRUNS (the model's choice, assumption
log 14). An error before the first byte of a frame is counted (the model's reading, assumption log 15). -/
def Obligations.RefusedWhileInService : Prop :=
  let kinds : List Byte := [0x01, 0x02, 0x03, 0x10, 0x11, 0x12, 0x13, 0x14, 0x20, 0x21, 0x22, 0x23, 0x28,
    0x29, 0x30, 0x31, 0x32, 0x33, 0x34, 0x38, 0x39, 0x3A, 0x3B, 0x3C, 0x3D]
  (∀ (s : State) (f : Frame) (r : Byte × Byte), s.link.inService = some r → s.link.held = none →
    f.body.length ≤ 1024 →
    let n : LinkCounters :=
      { s.link.counters with framesValid := bump s.link.counters.framesValid 1 }
    (s.link.refusals.length < 4 → f.kind ∉ kinds →
      exec (.hostFrameReceived f.decoded) s = .next ({ s with link := { s.link with
        refusals := s.link.refusals ++ [(⟨f.kind + 0x80, f.tag, .badKind⟩ : Answer)]
        counters := { n with unknownKinds := bump n.unknownKinds 1 } } }).pump) ∧
    (s.link.refusals.length < 4 → f.kind ∈ kinds →
      exec (.hostFrameReceived f.decoded) s = .next ({ s with link := { s.link with
        refusals := s.link.refusals ++ [(⟨f.kind + 0x80, f.tag, .busy⟩ : Answer)]
        counters := { n with busyReplies := bump n.busyReplies 1 } } }).pump) ∧
    (4 ≤ s.link.refusals.length →
      exec (.hostFrameReceived f.decoded) s = .next ({ s with link := { s.link with
        held := some f, counters := n } }).pump)) ∧
  (∀ (s : State) (f : Frame) (d : List Byte), s.link.held = some f → s.link.Settled → d ≠ [] →
    d.length ≤ 1030 →
    exec (.hostFrameReceived d) s = .next (s.modLink (Link.count (fun k =>
      { k with overruns := bump k.overruns 1 })))) ∧
  (∀ (s : State) (st : FramerState) (b : List Byte) (u : Nat) (x : Byte), s.link.Settled →
    s.link.framer = ⟨st, b, u⟩ → b.length + u ≤ 1030 → (s.link.held ≠ none ∨ 0 < u) →
    let moves (f : Framer) : Result := .next { s with link := { s.link with framer := f } }
    let grows (y : Byte) : Result :=
      moves (if s.link.held = none then ⟨.frame, b ++ [y], u⟩ else ⟨.frame, b, u + 1⟩)
    let error (st' : FramerState) : Result :=
      .next { s with link := { s.link with
        framer := ⟨st', [], 0⟩
        counters := { s.link.counters with formatErrors := bump s.link.counters.formatErrors 1 } } }
    (st = .hunt → x = 0xC5 → exec (.hostByteReceived x true) s = moves ⟨.frame, [], 0⟩) ∧
    (st = .hunt → x ≠ 0xC5 → exec (.hostByteReceived x true) s = .next s) ∧
    (st = .frame → x = 0xC5 → b.length + u = 0 →
      exec (.hostByteReceived x true) s = moves ⟨.frame, [], 0⟩) ∧
    (st = .frame → x = 0xC5 → b.length + u ≠ 0 →
      exec (.hostByteReceived x true) s = .next { s with link := { s.link with
        framer := ⟨.frame, [], 0⟩
        counters := { s.link.counters with overruns := bump s.link.counters.overruns 1 } } }) ∧
    (st = .frame → x = 0xCA → exec (.hostByteReceived x true) s = moves ⟨.escape, b, u⟩) ∧
    (st = .frame → x ≠ 0xC5 → x ≠ 0xCA → b.length + u < 1030 →
      exec (.hostByteReceived x true) s = grows x) ∧
    (st = .frame → x ≠ 0xC5 → x ≠ 0xCA → b.length + u = 1030 →
      exec (.hostByteReceived x true) s = error .hunt) ∧
    (st = .escape → x = 0x85 → b.length + u < 1030 →
      exec (.hostByteReceived x true) s = grows 0xC5) ∧
    (st = .escape → x = 0x8A → b.length + u < 1030 →
      exec (.hostByteReceived x true) s = grows 0xCA) ∧
    (st = .escape → (x = 0x85 ∨ x = 0x8A) → b.length + u = 1030 →
      exec (.hostByteReceived x true) s = error .hunt) ∧
    (st = .escape → x = 0xC5 → exec (.hostByteReceived x true) s = error .frame) ∧
    (st = .escape → x ≠ 0xC5 → x ≠ 0x85 → x ≠ 0x8A →
      exec (.hostByteReceived x true) s = error .hunt) ∧
    (st = .hunt → exec (.hostByteReceived x false) s = .next s) ∧
    (st ≠ .hunt → exec (.hostByteReceived x false) s = error .hunt)) ∧
  (∀ (s : State) (f : Frame), s.link.held = some f →
    (s.link.inService = none ∨ s.link.refusals.length < 4) →
    exec .heldFrameTaken s
      = .next (({ s with link := { s.link with held := none } }).takeFrame f).pump) ∧
  ∀ (s : State) (f : Frame), s.link.held = some f → s.link.inService ≠ none →
    4 ≤ s.link.refusals.length → exec .heldFrameTaken s = .next s

/-- The end of a transmission (R167, R169): the in-service flag clears at the end of a reply, and the
transmitter, free again, chooses the reply, else the oldest answer, else the oldest notice, whose leaving
makes room for pending ones. While it sends, nothing is chosen. A TRANSMIT_COMPLETE with nothing being
sent changes nothing (the model's choice, assumption log 3). -/
def Obligations.TransmitterChooses : Prop :=
  (∀ (s : State) (x : Sending), s.link.sending = some x →
    let l : Link := { s.link with
      sending := none
      inService := match x with
        | .reply _ => none
        | _ => s.link.inService }
    (∀ f, s.link.replySlot = some f → exec .transmitComplete s = .next { s with
      link := { l with sending := some (.reply f), replySlot := none } }) ∧
    (∀ a rest, s.link.replySlot = none → s.link.refusals = a :: rest →
      exec .transmitComplete s = .next { s with
        link := { l with sending := some (.answer a), refusals := rest } }) ∧
    (∀ n rest, s.link.replySlot = none → s.link.refusals = [] → s.link.notices = n :: rest →
      exec .transmitComplete s = .next { s with
        link := ({ l with
          sending := some (.notice n)
          notices := rest
          counters := { l.counters with
            noticesSent := bump l.counters.noticesSent 1 } } : Link).drain }) ∧
    (s.link.replySlot = none → s.link.refusals = [] → s.link.notices = [] →
      exec .transmitComplete s = .next { s with link := l })) ∧
  (∀ s : State, s.link.sending = none → exec .transmitComplete s = .next s) ∧
  ∀ (l : Link) (x : Sending), l.sending = some x → l.pump = l

/-- The request is not available in the state (R171): each command whose arguments pass the checks that
its rule places before the state check. -/
def Obligations.UnavailableRequestIsRefused : Prop :=
  ∀ (c : Instr) (k : ReqKind) (tag : Byte) (body : List Byte) (s : State),
    requestFrame c = some ⟨k.byte, tag, body⟩ → s.Takes → s.Unavailable c →
    exec c s = .next (s.answered k tag .badState [])

/-! ### Notices (R172 to R175) -/

/-- What a raise does (R173), that a cold reset leaves no notice and no masked kind, and the frames the
link sends (R168, R172, R185) with the kind number and the data bytes of each notice (R188). -/
def Obligations.NoticeIsRaised : Prop :=
  (∀ (l : Link) (d : NoticeData),
    (l.masked d.kind = false → l.notices.length < 16 → mapGet d.kind l.pending = none →
      l.raise d = { l with notices := l.notices ++ [⟨d, 1⟩] }) ∧
    ((l.masked d.kind = true ∨ 16 ≤ l.notices.length) → mapGet d.kind l.pending = none →
      l.raise d = { l with pending := mapPut d.kind ⟨d, 1⟩ l.pending }) ∧
    (∀ n, mapGet d.kind l.pending = some n →
      l.raise d = { l with
        pending := mapPut d.kind ⟨d, min (n.count + 1) 65535⟩ l.pending
        counters := { l.counters with coalesced := bump l.counters.coalesced 1 } })) ∧
  (∀ s : State, ∃ t, exec .coldReset s = .next t ∧ t.link.notices = [] ∧ t.link.pending = [] ∧
    ∀ k, t.link.masked k = false) ∧
  (∀ f : Frame, (Sending.reply f).frame = f) ∧
  (∀ a : Answer, (Sending.answer a).frame = ⟨a.kind, a.tag, [a.status.code]⟩) ∧
  (∀ n : Notice, (Sending.notice n).frame
    = ⟨0x40, 0, [byteOf n.data.kind, byteOf (n.count / 256), byteOf n.count] ++ n.data.bytes⟩) ∧
  (let laid (d : NoticeData) (kind : Nat) (data : List Byte) : Prop := d.kind = kind ∧ d.bytes = data
   (∀ x : Summary, laid (.panelDecided x) 0 (LogRecord.summary x).bytes) ∧
   (∀ (g : SegId) (n : Nat), laid (.segmentReady g n) 1 (byteOf g.val :: be16 n)) ∧
   (∀ (c : CtxId) (q : Nat) (g : SegId),
     laid (.logOverflow c q g) 2 [byteOf c.val, byteOf q, byteOf g.val]) ∧
   (∀ (k : SlotId) (c : Nat) (before after : Band),
     laid (.drift k c before after none) 3
       [byteOf k.val, byteOf c, before.code, after.code, 0, 0, 0, 0] ∧
     ∀ e : Nat, laid (.drift k c before after (some e)) 3
       ([byteOf k.val, byteOf c, before.code, after.code, 1] ++ be24 e)) ∧
   (∀ (k : SlotId) (i v q : Nat),
     laid (.repeatSite k i v q) 4 (byteOf k.val :: be16 i ++ [byteOf v, byteOf q])) ∧
   (∀ (new previous : BitVec 4) (time : Nat) (deviating : Bool) (hold : Nat),
     laid (.ovenCode new previous time deviating hold) 5
       ([byteOf new.toNat, byteOf previous.toNat] ++ be48 time
         ++ [if deviating then 1 else 0, byteOf hold])) ∧
   (∀ (p : PortId) (q : Nat) (l : LinkState),
     laid (.headFault p .noStart q none l) 6 [byteOf p.val, 0, byteOf q, 0, 0, l.code] ∧
     ∀ m : Int, laid (.headFault p .silent q (some m) l) 6
       ([byteOf p.val, 1, byteOf q] ++ beI16 m ++ [l.code])) ∧
   ∀ (new previous : StationState) (cause : StationCause),
     laid (.stationState new previous cause) 7 [new.code, previous.code, cause.code])

/-- SET_NOTICE_MASK (R174, R175): the reply carries the old mask and the pending counts, the mask is
replaced, and the pending notices of the kinds no longer masked join the queue in kind order as far as it
has room, each leaving its slot. -/
def Obligations.NoticeMaskIsSet : Prop :=
  ∀ (s : State) (tag kinds : Byte), s.Takes → s.link.notices.length ≤ 16 →
    let open' (k : Nat) : Option Notice :=
      if kinds.getLsbD k then none else mapGet k s.link.pending
    let moved := ((List.range 8).filterMap open').take (16 - s.link.notices.length)
    ∃ l : Link,
      exec (.setNoticeMask tag kinds) s = .next { s with link := l } ∧
      ({ s with link := l } : State).replyOf = some (replyFrame 0x38 tag .ok
        (s.link.mask :: (List.range 8).flatMap (fun k => be16 (match mapGet k s.link.pending with
          | some n => n.count
          | none => 0)))) ∧
      l.mask = kinds ∧ l.notices = s.link.notices ++ moved ∧
      (∀ k, k < 8 → mapGet k l.pending =
        if (((List.range k).filterMap open').length + s.link.notices.length < 16 ∧ open' k ≠ none)
        then none else mapGet k s.link.pending) ∧
      l.inService = some (0x38, tag) ∧ l.framer = s.link.framer ∧ l.held = s.link.held ∧
      l.refusals = s.link.refusals ∧ l.resetCount = s.link.resetCount ∧
      l.counters = { s.link.counters with framesValid := bump s.link.counters.framesValid 1 }

/-- The link controller keeps its capacities and its standing rules at every step: no more than 16
notices, 4 answers and 1,030 decoded bytes, pending slots of rising kinds with counts of 1 to 65,535, no
free place in the queue while an unmasked kind is pending, and no free transmitter while something
waits. -/
def Obligations.LinkStaysSound : Prop :=
  ∀ s t : State, s.link.Ok → step s = .next t → t.link.Ok

/-- ENTRY_ENABLE, SHIFT, RELEASE and the exit timer are at every step as their terms say (R25, R29, R34,
R35, R36), given that the alignment unit aligns a context in ALIGNING and the window engine arms one in
ARMING; and those phases are kept (R31). -/
def Obligations.LinesFollowTheirTerms : Prop :=
  ∀ s t : State, s.LinesFollow → s.PhasesOk → step s = .next t → t.LinesFollow ∧ t.PhasesOk

/-! ### Requests that report (R17, R142, R147, R151, R160, R176 to R180) -/

/-- IDENTIFY reports its values and changes nothing but the link (R176, with the widths of R186). -/
def Obligations.IdentifyReportsItsValues : Prop :=
  ∀ (s : State) (tag : Byte), s.Takes →
    exec (.identify tag) s = .next (s.answered .identify tag .ok
      [0x2D, 0x4E, 0x1D, 0xC4, 3, 4, 2, 4, 0x04, 0x00, 0x04, 0x00, 0x10, 0x00, 0x04, 0x00, 16,
        0x04, 0x00, 0x00, 0x01, 0x00, 0x00])

/-- READ_COUNTERS reports the counters as they stand, its own frame counted, owner by owner in the order of
R179 with the ports' lines as R186 gives them, then the four link states, and changes nothing but the link;
CLEAR_COUNTERS reports the same and sets every counter to 0 but PEAK_ACCUMULATORS, set to the accumulators
held (R103, R179, R180). What it does not change is listed: of the link, all but the counters, the request in
service and its reply. -/
def Obligations.CountersAreReadAndCleared : Prop :=
  let port (u : State) (p : PortId) : List Nat :=
    let k := (u.ports.get p).counters
    [k.tiles, k.lostTiles, k.overruns, k.stale, k.stray, k.order, k.missing, k.frameErrors, k.headFaults,
      u.align.locateTimeouts.get p]
  let listed (u : State) : List Nat :=
    let l := u.link.counters
    let f := u.flow.counters
    [l.framesValid, l.formatErrors, l.crcErrors, l.lengthErrors, l.overruns, l.unknownKinds, l.busyReplies,
      l.noticesSent, l.coalesced] ++
    [f.arrivals, f.unexpectedBoard, f.unexpectedExit, f.releasedPass, f.releasedRework, f.releasedReview,
      f.exitJams, f.jamCleared, f.removed, f.stops] ++
    port u 0 ++ port u 1 ++ port u 2 ++ port u 3 ++
    [u.engine.exhausted, u.engine.shortJoints, u.engine.peak] ++
    [u.evaluator.evaluations, u.evaluator.discarded, u.evaluator.entriesRemoved] ++
    [u.decision.normal, u.decision.late, u.decision.aborted, u.decision.pass, u.decision.rework,
      u.decision.review] ++
    [u.monitor.updates, u.monitor.requestsLost, u.monitor.recognitions] ++
    [u.log.completed, u.log.recordsDropped, u.log.summariesDropped]
  ∀ (s : State) (tag : Byte), s.Takes →
    let counted : State := { s with link := s.link.count (fun k =>
      { k with framesValid := bump k.framesValid 1 }) }
    let report := (listed counted).flatMap be32
      ++ [s.ports.q0.link.code, s.ports.q1.link.code, s.ports.q2.link.code, s.ports.q3.link.code]
    report.length = 312 ∧
    exec (.readCounters tag) s = .next (s.answered .readCounters tag .ok report) ∧
    ∃ t, exec (.clearCounters tag) s = .next t ∧
      t.replyOf = some (replyFrame 0x3D tag .ok report) ∧
      listed t = (List.replicate 61 0 ++ [s.engine.pool.length] ++ List.replicate 15 0) ∧
      (∀ p, t.ports.get p = { s.ports.get p with counters := PortCounters.zero }) ∧
      t.flow = { s.flow with counters := FlowCounters.zero } ∧
      t.monitor = { s.monitor with updates := 0, requestsLost := 0, recognitions := 0 } ∧
      t.engine = { s.engine with exhausted := 0, shortJoints := 0, peak := s.engine.pool.length } ∧
      t.evaluator = { s.evaluator with evaluations := 0, discarded := 0, entriesRemoved := 0 } ∧
      t.decision.records = s.decision.records ∧ t.log.segments = s.log.segments ∧
      t.log.writePos = s.log.writePos ∧ t.log.overflow = s.log.overflow ∧ t.slots = s.slots ∧
      t.align = { s.align with locateTimeouts := Quad.all 0 } ∧ t.pins = s.pins ∧
      t.arbiter = s.arbiter ∧ t.now = s.now ∧ t.pending = s.pending ∧
      let r := replyFrame 0x3D tag .ok report
      t.link = { s.link with
        inService := some (0x3D, tag)
        counters := ⟨0, 0, 0, 0, 0, 0, 0, 0, 0⟩
        replySlot := if s.link.sending = none then none else some r
        sending := if s.link.sending = none then some (.reply r) else s.link.sending }

/-- PROGRAM_STATUS reports a slot, with the header and the fill counts of one that is not EMPTY, and
changes nothing but the link (R17, R183). A slot number above 3 is refused. The layout of the optional
part is the model's reading (assumption log 16). -/
def Obligations.SlotStatusIsReported : Prop :=
  ∀ (s : State) (tag slot : Byte), s.Takes →
    (3 < slot.toNat →
      exec (.programStatus tag slot) s = .next (s.answered .programStatus tag .badArg [])) ∧
    ∀ k : SlotId, slot.toNat = k.val →
      let x := s.slots.get k
      (x.state = .empty → exec (.programStatus tag slot) s = .next (s.answered .programStatus tag .ok
        ([0, 0, byteOf x.pins] ++ List.replicate 45 0))) ∧
      ∀ h, x.state ≠ .empty → x.header = some h →
        exec (.programStatus tag slot) s = .next (s.answered .programStatus tag .ok
          ([1, x.state.code, byteOf x.pins] ++ h.bytes ++ be16 x.classes.length
            ++ be16 x.sites.length ++ be16 x.placements.length ++ be16 x.fiducials.length))

/-- PANEL_STATUS reports a context and changes nothing but the link (R177): for a FREE context the station
state, the descriptors queued, the context's state and its position, and for any other context three
presence bytes, the same four fields, and after them the bytes of each owner in the order of R177: the
flow controller, the alignment unit, the window engine, the head ports, the evaluator and the decision
unit, an absent part as zeros in its place (R183). The layout of the optional parts is the model's reading
(assumption log 16). -/
def Obligations.PanelStatusIsReported : Prop :=
  ∀ (s : State) (tag context : Byte), s.Takes →
    (1 < context.toNat →
      exec (.panelStatus tag context) s = .next (s.answered .panelStatus tag .badArg [])) ∧
    ∀ c : CtxId, context.toNat = c.val →
      let x := s.ctx c
      let head : List Byte :=
        [s.flow.station.code, byteOf s.flow.queue.length, x.state.code, x.position.code]
      (x.state = .free →
        exec (.panelStatus tag context) s = .next (s.answered .panelStatus tag .ok head)) ∧
      (x.state ≠ .free →
        let r := s.align.records.get c
        let opt (width : Nat) (part : Option (List Byte)) : List Byte :=
          part.getD (List.replicate width 0)
        let found (e : FidEntry) : Option (List Byte) := match e.outcome with
          | .found mx my z quality => some (beI32 mx ++ beI32 my ++ beI32 z ++ [byteOf quality])
          | _ => none
        let fid (e : FidEntry) : List Byte := [e.searched.code, e.outcome.code] ++ opt 13 (found e)
        let region := x.region.map (fun r => be32 r.u0 ++ be32 r.v0 ++ be32 r.u1 ++ be32 r.v1)
        let exclusions := x.exclusions.map (fun m => be32 m.toNat)
        let terms := r.terms.map (fun v => beI32 v.1 ++ beI32 v.2)
        let residual := r.residual.map (fun n => beI32 n)
        let slopes := r.slopes.map (fun v => beI32 v.1 ++ beI32 v.2)
        let cause := r.cause.map (fun v => [alignCauseCode (some v)])
        let held (st : AccState) : Nat :=
          s.engine.pool.countP (fun a => a.2.state == st && a.2.holder.any (fun h => h.1 == c))
        let serves (phase : Service) : Prop := s.engine.serves c = true ∧ s.engine.service = phase
        let visited := if serves .arming then some (be24 s.engine.visited) else none
        let range := if serves .scanning then
            some (be16 (s.engine.scanRange.getD (0, 0)).1 ++ be16 (s.engine.scanRange.getD (0, 0)).2)
          else none
        let front := if serves .scanning then s.engine.front.map be16 else none
        let port (p : PortId) : Option (List Byte) :=
          if x.state = .scanning ∧ p.val < s.flow.heads then
            some ([(s.ports.get p).scan.code] ++ beI16 (s.markOf p)
              ++ be32 (((s.ports.get p).record.map ScanRecord.received).getD 0))
          else none
        let decided := match s.decision.records.get c with
          | .decided d => some ([d.kind.code, d.route.code, d.causes.code] ++ be48 d.time)
          | _ => none
        exec (.panelStatus tag context) s = .next (s.answered .panelStatus tag .ok
          (presence [region.isSome, exclusions.isSome, (found r.fids.t0).isSome,
              (found r.fids.t1).isSome, (found r.fids.t2).isSome, terms.isSome, residual.isSome,
              slopes.isSome, cause.isSome, visited.isSome, range.isSome, front.isSome,
              (port 0).isSome, (port 1).isSome, (port 2).isSome, (port 3).isSome, decided.isSome]
            ++ head
            ++ ([flagByte x.inTransit, flagByte x.removed, byteOf x.seq] ++ x.tag
              ++ [byteOf x.slot.val] ++ opt 16 region ++ opt 4 exclusions
              ++ [flagByte x.processFlag, flagByte x.lateFlag, flagByte x.abortedFlag,
                alignCauseCode x.alignFault] ++ be48 x.arrival ++ be48 x.deadline)
            ++ (fid r.fids.t0 ++ fid r.fids.t1 ++ fid r.fids.t2
              ++ [byteOf r.marksPresent, byteOf r.marksAbsent] ++ opt 8 terms ++ opt 4 residual
              ++ opt 8 slopes ++ opt 1 cause)
            ++ (be16 (held .opened) ++ be16 (held .queued) ++ be16 (held .evaluating)
              ++ be16 (1024 - s.engine.pool.length) ++ opt 3 visited ++ opt 4 range ++ opt 2 front
              ++ if serves .scanning then
                  be24 s.engine.openList.length ++ be16 s.engine.openSet.length
                else [0, 0, 0, 0, 0])
            ++ (opt 7 (port 0) ++ opt 7 (port 1) ++ opt 7 (port 2) ++ opt 7 (port 3))
            ++ ([x.counts.pass, x.counts.bridge, x.counts.openJoint, x.counts.low, x.counts.high,
                x.counts.shift, x.counts.unmeasured, x.counts.skipped].flatMap be24
              ++ be24 x.unset ++ be24 x.defective
              ++ [byteOf x.skippedPlacements, byteOf x.unverified] ++ be24 x.lostLog
              ++ be16 (s.evaluator.queue.countP (fun e => e.ctx == c))
              ++ [flagByte (s.evaluator.current.any (fun v => v.entry.ctx == c && !v.discard))])
            ++ ([(s.decision.records.get c).code] ++ opt 9 decided))))

/-- READ_VERDICTS (R178): its three checks in their order, and the entries of the table as they stand,
three bytes each, with nothing changed but the link. -/
def Obligations.VerdictsAreRead : Prop :=
  ∀ (s : State) (tag context : Byte) (first count : U16), s.Takes →
    let ask := exec (.readVerdicts tag context first count) s
    ((1 < context.toNat ∨ count.toNat < 1 ∨ 256 < count.toNat) →
      ask = .next (s.answered .readVerdicts tag .badArg [])) ∧
    ∀ c : CtxId, context.toNat = c.val → 1 ≤ count.toNat → count.toNat ≤ 256 →
      ((s.ctx c).state = .free → ask = .next (s.answered .readVerdicts tag .badState [])) ∧
      ((s.ctx c).state ≠ .free → (s.ctx c).verdicts.length < first.toNat + count.toNat →
        ask = .next (s.answered .readVerdicts tag .badArg [])) ∧
      ((s.ctx c).state ≠ .free → first.toNat + count.toNat ≤ (s.ctx c).verdicts.length →
        ask = .next (s.answered .readVerdicts tag .ok
          ((((s.ctx c).verdicts.drop first.toNat).take count.toNat).flatMap (fun e =>
            [e.verdict.code, causeCode e.cause, e.flags.code]))))

/-- READ_LOG (R160): its checks in their order, and the records of a READY segment, with nothing changed
but the link; and the bytes of a defect record and of a summary, field by field (R188). -/
def Obligations.LogIsRead : Prop :=
  (∀ (s : State) (tag segment : Byte) (first : U16) (count : Byte), s.Takes →
    let ask := exec (.readLog tag segment first count) s
    ((3 < segment.toNat ∨ count.toNat < 1 ∨ 32 < count.toNat) →
      ask = .next (s.answered .readLog tag .badArg [])) ∧
    ∀ g : SegId, segment.toNat = g.val → 1 ≤ count.toNat → count.toNat ≤ 32 →
      let x := s.log.segments.get g
      (x.state ≠ .ready → ask = .next (s.answered .readLog tag .badState [])) ∧
      (x.state = .ready → x.records.length < first.toNat + count.toNat →
        ask = .next (s.answered .readLog tag .badArg [])) ∧
      (x.state = .ready → first.toNat + count.toNat ≤ x.records.length →
        ask = .next (s.answered .readLog tag .ok (be16 x.records.length
          ++ ((x.records.drop first.toNat).take count.toNat).flatMap LogRecord.bytes)))) ∧
  (∀ d : DefectRecord, (LogRecord.defect d).bytes
    = [1, byteOf (d.cause.isSome.toNat + 2 * d.volPct.isSome.toNat + 4 * d.peak.isSome.toNat
          + 8 * d.offset.isSome.toNat + 16 * d.coverage.isSome.toNat),
        byteOf d.seq, byteOf d.placement] ++ be16 d.site
      ++ [d.verdict.code, causeCode d.cause, d.flags.code] ++ (d.volPct.map be16).getD [0, 0]
      ++ (d.peak.map beI16).getD [0, 0] ++ (d.offset.map be16).getD [0, 0]
      ++ [(d.coverage.map byteOf).getD 0] ∧
    (LogRecord.defect d).bytes.length = 16) ∧
  ∀ x : Summary, x.tag.length = 16 → (LogRecord.summary x).bytes
    = [2, byteOf x.seq] ++ x.tag ++ [byteOf x.slot.val, x.route.code,
        byteOf (x.late.toNat + 2 * x.aborted.toNat + 4 * x.process.toNat
          + 8 * x.alignFault.isSome.toNat), alignCauseCode x.alignFault]
      ++ (be24 x.counts.pass ++ be24 x.counts.bridge ++ be24 x.counts.openJoint
        ++ be24 x.counts.low ++ be24 x.counts.high ++ be24 x.counts.shift
        ++ be24 x.counts.unmeasured ++ be24 x.counts.skipped)
      ++ be24 x.defective ++ [byteOf x.skippedPlacements, byteOf x.unverified]
      ++ be24 x.lostLog ++ be24 x.timeToDecision ∧
    (LogRecord.summary x).bytes.length = 57

/-- RELEASE_SEGMENT (R161): every named READY segment becomes FREE, every other segment is left as it is,
and the reply carries the set freed, the state and count of each segment afterwards, and the write
position. The codes of the segment states are a free value (assumption log 18). -/
def Obligations.SegmentsAreReleased : Prop :=
  ∀ (s : State) (tag set : Byte), s.Takes →
    (15 < set.toNat →
      exec (.releaseSegment tag set) s = .next (s.answered .releaseSegment tag .badArg [])) ∧
    (set.toNat ≤ 15 →
      ∃ (segs : Quad Segment) (freed : Byte),
        exec (.releaseSegment tag set) s = .next
          (({ s with log := { s.log with segments := segs } } : State).answered .releaseSegment tag .ok
            (freed :: ([segs.q0, segs.q1, segs.q2, segs.q3].flatMap (fun g =>
              Config.segmentStateCode g.state.index :: be16 g.records.length)
              ++ [byteOf s.log.writePos.val]))) ∧
        ∀ g : SegId,
          (set.getLsbD g.val = true ∧ (s.log.segments.get g).state = .ready →
            segs.get g = ⟨.free, []⟩ ∧ freed.getLsbD g.val = true) ∧
          (¬ (set.getLsbD g.val = true ∧ (s.log.segments.get g).state = .ready) →
            segs.get g = s.log.segments.get g ∧ freed.getLsbD g.val = false))

/-- READ_DRIFT (R142): its checks, and for each class from the first upward the primed flag, E when primed
and the band state, with nothing changed but the link, the reply's first bytes being its presence bytes.
RESET_DRIFT (R141): its checks, and every value of the slot from the first class to the last unprimed, no
other value changed, a DRIFT notice for each that was ABOVE or BELOW, and the reply with the number that
were primed. The notices come in ascending class, which is the model's choice (assumption log 26). -/
def Obligations.DriftIsReadAndReset : Prop :=
  (∀ (s : State) (tag slot first count : Byte), s.Takes →
    let ask := exec (.readDrift tag slot first count) s
    ((3 < slot.toNat ∨ count.toNat < 1 ∨ 64 < count.toNat ∨ 64 < first.toNat + count.toNat) →
      ask = .next (s.answered .readDrift tag .badArg [])) ∧
    ∀ k : SlotId, slot.toNat = k.val → 1 ≤ count.toNat → first.toNat + count.toNat ≤ 64 →
      let value (n : Nat) := s.monitor.driftOf k (first.toNat + n)
      ask = .next (s.answered .readDrift tag .ok
        (presence ((List.range count.toNat).map (fun n => (value n).isSome))
          ++ (List.range count.toNat).flatMap (fun n => match value n with
            | some d => [1] ++ be24 d.e.toNat ++ [d.band.code]
            | none => [0, 0, 0, 0, 0])))) ∧
  ∀ (s : State) (tag slot first last : Byte), s.Takes → s.flow.station ≠ .offline →
    let ask := exec (.resetDrift tag slot first last) s
    ((3 < slot.toNat ∨ 63 < last.toNat ∨ last.toNat < first.toNat) →
      ask = .next (s.answered .resetDrift tag .badArg [])) ∧
    ∀ k : SlotId, slot.toNat = k.val → last.toNat ≤ 63 → first.toNat ≤ last.toNat →
      let named := (List.range (last.toNat + 1 - first.toNat)).map (fun n => first.toNat + n)
      ∃ m : Monitor,
        ask = .next (({ s with
            monitor := m
            link := (named.filterMap (fun c => match s.monitor.driftOf k c with
              | some d => if d.band = .inside then none
                  else some (NoticeData.drift k c d.band .inside none)
              | none => none)).foldl (fun l d => l.raise d) s.link } : State).answered .resetDrift tag
            .ok [byteOf (named.countP (fun c => (s.monitor.driftOf k c).isSome))]) ∧
        (∀ (j : SlotId) (c : Nat), c < 64 → m.driftOf j c =
          if j = k ∧ first.toNat ≤ c ∧ c ≤ last.toNat then none else s.monitor.driftOf j c) ∧
        { m with drift := s.monitor.drift } = s.monitor

/-- READ_REPEAT (R147): its checks, and the counters from the first site upward with the slot's requests
waiting, whether one is in progress and its next site, with nothing changed but the link. CLEAR_REPEAT
(R146): its checks, every counter of the slot 0 and no other changed, the slot's requests discarded and
the others kept in order, the head of the list begun when the running one was discarded, and the reply
with their number. -/
def Obligations.RepeatCountersAreReadAndCleared : Prop :=
  (∀ (s : State) (tag slot : Byte) (first count : U16), s.Takes →
    let ask := exec (.readRepeat tag slot first count) s
    ((3 < slot.toNat ∨ count.toNat < 1 ∨ 256 < count.toNat ∨ 8192 < first.toNat + count.toNat) →
      ask = .next (s.answered .readRepeat tag .badArg [])) ∧
    ∀ k : SlotId, slot.toNat = k.val → 1 ≤ count.toNat → count.toNat ≤ 256 →
      first.toNat + count.toNat ≤ 8192 →
      let counters := (List.range count.toNat).map (fun n =>
        byteOf (s.monitor.repeatOf k (first.toNat + n)))
      let waiting := byteOf (s.monitor.requests.countP (fun r => r.slot == k))
      (∀ w, s.monitor.work = some w → w.request.slot = k →
        ask = .next (s.answered .readRepeat tag .ok
          ([1] ++ counters ++ [waiting, 1] ++ be16 w.next))) ∧
      ((∀ w, s.monitor.work = some w → w.request.slot ≠ k) →
        ask = .next (s.answered .readRepeat tag .ok ([0] ++ counters ++ [waiting, 0, 0, 0])))) ∧
  ∀ (s : State) (tag slot : Byte), s.Takes → s.flow.station ≠ .offline →
    let ask := exec (.clearRepeat tag slot) s
    (3 < slot.toNat → ask = .next (s.answered .clearRepeat tag .badArg [])) ∧
    ∀ k : SlotId, slot.toNat = k.val →
      let rest := s.monitor.requests.filter (fun r => r.slot != k)
      let discarded := s.monitor.requests.length - rest.length
      ∃ m : Monitor,
        (∀ (j : SlotId) (i : Nat), i < 8192 →
          m.repeatOf j i = if j = k then 0 else s.monitor.repeatOf j i) ∧
        { m with repeats := [], requests := [], work := none }
          = { s.monitor with repeats := [], requests := [], work := none } ∧
        (∀ w, s.monitor.work = some w → w.request.slot = k →
          ask = .next (({ s with monitor := m } : State).answered .clearRepeat tag .ok
            [byteOf (discarded + 1)]) ∧
          m.work = rest.head?.map (fun r => ⟨r, 0⟩) ∧ m.requests = rest.tail) ∧
        ((∀ w, s.monitor.work = some w → w.request.slot ≠ k) →
          ask = .next (({ s with monitor := m } : State).answered .clearRepeat tag .ok
            [byteOf discarded]) ∧
          m.work = s.monitor.work ∧ m.requests = rest)

/-- READ_OVEN_CODES (R151): the recognized code, its deviating mark, H and the changes are reported, and
the change buffer and its overwrite count are emptied, nothing else but the link changing. The layout of
the pairs and their count is the model's reading (assumption log 17). -/
def Obligations.OvenCodesAreRead : Prop :=
  ∀ (s : State) (tag : Byte), s.Takes →
    let m := s.monitor
    let pair (c : Option (BitVec 4 × Nat)) : List Byte := match c with
      | some c => byteOf c.1.toNat :: be48 c.2
      | none => List.replicate 7 0
    exec (.readOvenCodes tag) s
      = .next (({ s with monitor := { m with changes := [], overwrites := 0 } } : State).answered
          .readOvenCodes tag .ok
          ([byteOf ((m.changes[0]?).isSome.toNat + 2 * (m.changes[1]?).isSome.toNat)]
            ++ [byteOf m.recognized.toNat, flagByte (s.flow.deviating m.recognized), byteOf m.hold,
              byteOf m.changes.length] ++ pair m.changes[0]? ++ pair m.changes[1]?
            ++ be16 m.overwrites))

/-! ### The program library (R9 to R16) -/

/-- PROGRAM_BEGIN (R9): its checks in their order, with the fields of the header by their offsets (R187)
and their ranges (R4), and the load it begins: the slot LOADING with the new header and no record, the
drift values and repeat counters of the slot cleared, its repeat requests discarded and the others kept in
order, the head of the list begun when the running one was discarded (R141, R146), ENTRY_ENABLE as R29
gives it, and nothing else changed. The DRIFT notices come in ascending class (the model's choice,
assumption log 26). -/
def Obligations.ProgramIsBegun : Prop :=
  ∀ (s : State) (tag slot : Byte) (header : List Byte), s.Takes → header.length = 37 →
    let h : Header :=
      { name := header.take 16, pitch := u8 header 16, sites := u16 header 17
        classes := u8 header 19, components := u16 header 20, placements := u8 header 22
        taktLimit := u24 header 23, unmeasuredLimit := u16 header 26, repeatLimit := u8 header 28
        residualLimit := u16 header 29, scaleLimit := u16 header 31
        rotationLimit := u16 header 33, slopeLimit := u16 header 35 }
    let inRange : Prop := (∀ i, i < 16 → 0x20 ≤ u8 header i ∧ u8 header i ≤ 0x7E) ∧
      (h.pitch = 10 ∨ h.pitch = 12 ∨ h.pitch = 15 ∨ h.pitch = 20) ∧
      (1 ≤ h.sites ∧ h.sites ≤ 8192) ∧ (1 ≤ h.classes ∧ h.classes ≤ 64) ∧
      (1 ≤ h.components ∧ h.components ≤ 4096) ∧ (1 ≤ h.placements ∧ h.placements ≤ 32) ∧
      (1000 ≤ h.taktLimit ∧ h.taktLimit ≤ 600000) ∧
      (h.repeatLimit = 0 ∨ 2 ≤ h.repeatLimit) ∧ (5 ≤ h.residualLimit ∧ h.residualLimit ≤ 500) ∧
      (1 ≤ h.scaleLimit ∧ h.scaleLimit ≤ 655) ∧ (1 ≤ h.rotationLimit ∧ h.rotationLimit ≤ 1144) ∧
      (1 ≤ h.slopeLimit ∧ h.slopeLimit ≤ 20971) ∧ h.sites * h.placements ≤ 65536
    let ask := exec (.programBegin tag slot header) s
    (3 < slot.toNat → ask = .next (s.answered .programBegin tag .badArg [])) ∧
    ∀ k : SlotId, slot.toNat = k.val →
      (s.flow.station = .offline → ask = .next (s.answered .programBegin tag .badState [])) ∧
      (s.flow.station ≠ .offline → (s.slots.get k).pins ≠ 0 →
        ask = .next (s.answered .programBegin tag .slotBusy [])) ∧
      (s.flow.station ≠ .offline → (s.slots.get k).pins = 0 →
        (∃ j, j ≠ k ∧ ((s.slots.get j).state = .loading ∨ (s.slots.get j).state = .validating)) →
        ask = .next (s.answered .programBegin tag .loadActive [])) ∧
      (s.flow.station ≠ .offline → (s.slots.get k).pins = 0 →
        (∀ j, j ≠ k → (s.slots.get j).state ≠ .loading ∧ (s.slots.get j).state ≠ .validating) →
        (¬ inRange → ask = .next (s.answered .programBegin tag .badArg [])) ∧
        (inRange → ∃ (m : Monitor) (e : Bool),
          let t : State := { s with
            flow := { s.flow with entryEnable := e }
            slots := s.slots.set k ⟨.loading, 0, some h, [], [], [], []⟩
            monitor := m
            link := ((List.range 64).filterMap (fun c => match s.monitor.driftOf k c with
              | some d => if d.band = .inside then none
                  else some (NoticeData.drift k c d.band .inside none)
              | none => none)).foldl (fun l d => l.raise d) s.link }
          ask = .next (t.answered .programBegin tag .ok []) ∧ (e = true ↔ t.EntryTerms) ∧
          (∀ (j : SlotId) (c : Nat), c < 64 →
            m.driftOf j c = if j = k then none else s.monitor.driftOf j c) ∧
          (∀ (j : SlotId) (i : Nat), i < 8192 →
            m.repeatOf j i = if j = k then 0 else s.monitor.repeatOf j i) ∧
          (let rest := s.monitor.requests.filter (fun r => r.slot != k)
           (∀ w, s.monitor.work = some w → w.request.slot = k →
             m.work = rest.head?.map (fun r => ⟨r, 0⟩) ∧ m.requests = rest.tail) ∧
           ((∀ w, s.monitor.work = some w → w.request.slot ≠ k) →
             m.work = s.monitor.work ∧ m.requests = rest)) ∧
          { m with drift := [], repeats := [], requests := [], work := none }
            = { s.monitor with drift := [], repeats := [], requests := [], work := none }))

/-- PROGRAM_DATA (R10): its checks in their order, the records appended up to the first that fails, the
reply with the fill count, and nothing changed but the slot and the link; and the fields of each kind of
record by their offsets (R187) with the ranges that let it be appended (R5 to R8). -/
def Obligations.RecordsAreAppended : Prop :=
  (∀ (s : State) (tag slot sect : Byte) (first : U16) (count : Byte) (records : List Byte), s.Takes →
    19 ≤ records.length → records.length ≤ 1019 →
    let ask := exec (.programData tag slot sect first count records) s
    let refused (st : Status) (b : List Byte) := Host.Outcome.next (s.answered .programData tag st b)
    (3 < slot.toNat → ask = refused .badArg []) ∧
    ∀ k : SlotId, slot.toNat = k.val →
      let x := s.slots.get k
      ((s.flow.station = .offline ∨ x.state ≠ .loading) → ask = refused .badState []) ∧
      ∀ h, s.flow.station ≠ .offline → x.state = .loading → x.header = some h →
        (3 < sect.toNat → ask = refused .badArg []) ∧
        ∀ size, (sect.toNat, size) ∈ [(0, 29), (1, 28), (2, 20), (3, 19)] →
          ((count.toNat < 1 ∨ 32 < count.toNat ∨ records.length ≠ count.toNat * size) →
            ask = refused .badArg []) ∧
          (1 ≤ count.toNat → count.toNat ≤ 32 → records.length = count.toNat * size →
            (first.toNat ≠ x.fill sect.toNat →
              ask = refused .sequence (be16 (x.fill sect.toNat))) ∧
            (first.toNat = x.fill sect.toNat →
              h.required sect.toNat < first.toNat + count.toNat →
              ask = refused .overflow (be16 (x.fill sect.toNat))) ∧
            (first.toNat = x.fill sect.toNat →
              first.toNat + count.toNat ≤ h.required sect.toNat →
              ∃ (n : Nat) (y : Slot), n ≤ count.toNat ∧
                (List.range n).foldlM (fun z i =>
                  z.append h sect.toNat ((records.drop (i * size)).take size)) x = some y ∧
                (n < count.toNat →
                  y.append h sect.toNat ((records.drop (n * size)).take size) = none) ∧
                y.fill sect.toNat = x.fill sect.toNat + n ∧ y.state = .loading ∧
                y.header = some h ∧ y.pins = x.pins ∧
                ask = .next (({ s with slots := s.slots.set k y } : State).answered .programData tag
                  (if n = count.toNat then .ok else .badArg)
                  ((if n = count.toNat then [] else [sect]) ++ be16 (y.fill sect.toNat)))))) ∧
  (∀ (x : Slot) (h : Header), x.fill 0 = x.classes.length ∧ x.fill 1 = x.sites.length ∧
    x.fill 2 = x.placements.length ∧ x.fill 3 = x.fiducials.length ∧ h.required 0 = h.classes ∧
    h.required 1 = h.sites ∧ h.required 2 = h.placements ∧ h.required 3 = 3) ∧
  ∀ (x : Slot) (h : Header) (b : List Byte),
    let c : ClassRecord :=
      { vNom := u32 b 0, volLow := u16 b 4, volHigh := u16 b 6, peakMin := u16 b 8, tHi := u16 b 10
        collarMargin := u16 b 12, collarCeiling := u16 b 14, coverageMin := u8 b 16
        collarMin := u16 b 17, bridgeThreshold := u16 b 19, bridgeMin := u16 b 21
        shiftMax := u16 b 23, driftLow := u16 b 25, driftHigh := u16 b 27 }
    let t : Site :=
      { component := u16 b 1, cls := u8 b 3, bu := i32 b 4, bv := i32 b 8, hx := u16 b 12
        hy := u16 b 14
        gap := if u8 b 0 = 1 then some ⟨i32 b 16, i32 b 20, u16 b 24, u16 b 26⟩ else none }
    let p : Placement :=
      { pu := u32 b 1, pv := u32 b 5, turned := u8 b 9 == 1
        mark := if u8 b 0 = 1 then some ⟨u32 b 10, u32 b 14, u16 b 18⟩ else none }
    let f : Fiducial :=
      { u := u32 b 1, v := u32 b 5, radius := u16 b 9
        alternate := if u8 b 0 = 1 then some (u32 b 11, u32 b 15) else none }
    let offset (v : Int) : Prop := -400000 ≤ v ∧ v ≤ 400000
    let half (n : Nat) : Prop := h.pitch ≤ n ∧ n ≤ 2047
    let classOk : Prop := (1 ≤ c.vNom ∧ c.vNom ≤ 2147483647) ∧ c.volLow ≤ 998 ∧
      (1 ≤ c.volHigh ∧ c.volHigh ≤ 999) ∧ c.peakMin ≤ 2000 ∧ (1 ≤ c.tHi ∧ c.tHi ≤ 2000) ∧
      (10 ≤ c.collarMargin ∧ c.collarMargin ≤ 1000) ∧ c.collarCeiling ≤ 500 ∧
      (1 ≤ c.collarMin ∧ c.collarMin ≤ 4096) ∧ (10 ≤ c.coverageMin ∧ c.coverageMin ≤ 100) ∧
      (1 ≤ c.bridgeThreshold ∧ c.bridgeThreshold ≤ 2000) ∧
      (1 ≤ c.bridgeMin ∧ c.bridgeMin ≤ 4096) ∧ c.shiftMax ≤ 2000 ∧ c.driftLow ≤ 999 ∧
      c.driftHigh ≤ 999 ∧ c.volLow < c.volHigh ∧ c.driftLow + 4 ≤ c.driftHigh
    let siteOk : Prop := u8 b 0 ≤ 1 ∧ t.component ≤ 4095 ∧ t.cls ≤ 63 ∧ offset t.bu ∧ offset t.bv ∧
      half t.hx ∧ half t.hy ∧
      ∀ g, t.gap = some g → offset g.u ∧ offset g.v ∧ half g.hx ∧ half g.hy
    let placementOk : Prop := u8 b 0 ≤ 1 ∧ u8 b 9 ≤ 1 ∧ p.pu ≤ 600000 ∧ p.pv ≤ 600000 ∧
      ∀ m, p.mark = some m → m.u ≤ 1000000 ∧ m.v ≤ 1000000 ∧ 50 ≤ m.radius ∧ m.radius ≤ 2000
    let fiducialOk : Prop := u8 b 0 ≤ 1 ∧ f.u ≤ 1000000 ∧ f.v ≤ 1000000 ∧ 50 ≤ f.radius ∧
      f.radius ≤ 2000 ∧ ∀ a, f.alternate = some a → a.1 ≤ 1000000 ∧ a.2 ≤ 1000000
    (classOk → x.append h 0 b = some { x with classes := x.classes ++ [c] }) ∧
    (¬ classOk → x.append h 0 b = none) ∧
    (siteOk → x.append h 1 b = some { x with sites := x.sites ++ [t] }) ∧
    (¬ siteOk → x.append h 1 b = none) ∧
    (placementOk → x.append h 2 b = some { x with placements := x.placements ++ [p] }) ∧
    (¬ placementOk → x.append h 2 b = none) ∧
    (fiducialOk → x.append h 3 b = some { x with fiducials := x.fiducials ++ [f] }) ∧
    (¬ fiducialOk → x.append h 3 b = none)

/-- PROGRAM_END (R11) makes a LOADING slot VALIDATING and stays in service, and VALIDATION_COMPLETE (R15)
sets the slot and the reply by the outcome, with ENTRY_ENABLE as R29 gives it. Nothing else changes. A
VALIDATION_COMPLETE with no slot VALIDATING changes nothing (the model's choice, assumption log 3). -/
def Obligations.ProgramIsEndedAndValidated : Prop :=
  (∀ (s : State) (tag slot : Byte), s.Takes → s.link.Settled →
    (3 < slot.toNat →
      exec (.programEnd tag slot) s = .next (s.answered .programEnd tag .badArg [])) ∧
    ∀ k : SlotId, slot.toNat = k.val →
      ((s.flow.station = .offline ∨ (s.slots.get k).state ≠ .loading) →
        exec (.programEnd tag slot) s = .next (s.answered .programEnd tag .badState [])) ∧
      (s.flow.station ≠ .offline → (s.slots.get k).state = .loading →
        exec (.programEnd tag slot) s = .next { s with
          slots := s.slots.set k { s.slots.get k with state := .validating }
          link := s.link.taken 0x12 tag })) ∧
  (∀ (s : State) (k : SlotId) (h : Header) (kind tag : Byte),
    (s.slots.get k).state = .validating → (∀ j, j < k → (s.slots.get j).state ≠ .validating) →
    (s.slots.get k).header = some h → s.link.inService = some (kind, tag) →
    (∀ n, validateSlot h (s.slots.get k) = .passed n → ∃ e : Bool,
      let t : State := { s with
        slots := s.slots.set k { s.slots.get k with state := .valid }
        flow := { s.flow with entryEnable := e } }
      exec .validationComplete s = .next (t.replied kind tag .ok (be16 n)) ∧
      (e = true ↔ t.EntryTerms)) ∧
    (∀ d i, validateSlot h (s.slots.get k) = .failed d i → ∃ e : Bool,
      let t : State := { s with
        slots := s.slots.set k ⟨.empty, (s.slots.get k).pins, none, [], [], [], []⟩
        flow := { s.flow with entryEnable := e } }
      exec .validationComplete s = .next (t.replied kind tag .invalid (d :: be16 i)) ∧
      (e = true ↔ t.EntryTerms))) ∧
  ∀ s : State, (∀ k, (s.slots.get k).state ≠ .validating) → exec .validationComplete s = .next s

/-- The checks of validation and the order in which they fail (R12, R13, R14, with the codes of R184):
sections short, references out of range, fiducial combinations, and the concurrency estimate. -/
def Obligations.ValidationFindsTheFirstFailure : Prop :=
  ∀ (h : Header) (x : Slot),
    (∀ k, k < 4 → (∀ j, j < k → x.fill j = h.required j) → x.fill k ≠ h.required k →
      validateSlot h x = .failed 1 k) ∧
    ((∀ k, k < 4 → x.fill k = h.required k) →
      let good (i : Nat) := ∀ t, x.sites[i]? = some t → t.cls < h.classes ∧ t.component < h.components
      (∀ (i : Nat) (t : Site), x.sites[i]? = some t → (∀ j, j < i → good j) →
        (h.classes ≤ t.cls → validateSlot h x = .failed 2 i) ∧
        (t.cls < h.classes → h.components ≤ t.component → validateSlot h x = .failed 3 i)) ∧
      ((∀ i, good i) → ∃ f1 f2 f3, x.fiducials = [f1, f2, f3] ∧
        let at' (f : Fiducial) (alternate : Bool) : Option (Int × Int) :=
          if alternate then f.alternate.map (fun a => ((a.1 : Int), (a.2 : Int)))
          else some ((f.u : Int), (f.v : Int))
        let far (k : Nat) : Prop := ∀ p1 p2 p3, at' f1 (k.testBit 0) = some p1 →
          at' f2 (k.testBit 1) = some p2 → at' f3 (k.testBit 2) = some p3 →
          10000000000 ≤ ((p2.1 - p1.1) * (p3.2 - p1.2) - (p3.1 - p1.1) * (p2.2 - p1.2)).natAbs ∧
          400000000 ≤ (p2.1 - p1.1) ^ 2 + (p2.2 - p1.2) ^ 2
        (∀ k, k < 8 → (∀ j, j < k → far j) → ∀ p1 p2 p3, at' f1 (k.testBit 0) = some p1 →
          at' f2 (k.testBit 1) = some p2 → at' f3 (k.testBit 2) = some p3 →
          (((p2.1 - p1.1) * (p3.2 - p1.2) - (p3.1 - p1.1) * (p2.2 - p1.2)).natAbs < 10000000000 →
            validateSlot h x = .failed 4 k) ∧
          (10000000000 ≤ ((p2.1 - p1.1) * (p3.2 - p1.2) - (p3.1 - p1.1) * (p2.2 - p1.2)).natAbs →
            (p2.1 - p1.1) ^ 2 + (p2.2 - p1.2) ^ 2 < 400000000 →
            validateSlot h x = .failed 5 k)) ∧
        ((∀ k, k < 8 → far k) →
          let n := concurrencyEstimate (nominalSpans h x)
          (n ≤ 896 → validateSlot h x = .passed n) ∧
          (896 < n → validateSlot h x = .failed 6 (min n 65535)))))

/-- The nominal concurrency estimate (R14). Steps 1 to 5 give the span of every joint of every placement,
from its outer and gap rectangles at the panel's nominal position. Step 6 takes the greatest number of
spans that contain any one row block: no row block is in more, and some row block is in as many. -/
def Obligations.EstimateIsTheGreatestCount : Prop :=
  (∀ (a b : Int), 0 < b → b * floorDiv a b ≤ a ∧ a < b * floorDiv a b + b ∧
    a ≤ b * ceilDiv a b ∧ b * ceilDiv a b < a + b) ∧
  (∀ (h : Header) (x : Slot) (cl : Site → ClassRecord),
    (∀ t ∈ x.sites, x.classes[t.cls]? = some (cl t)) →
    let centre (p : Placement) (v : Int) : Int := if p.turned then (p.pv : Int) - v else (p.pv : Int) + v
    let first (cy : Int) (half : Nat) : Int := ceilDiv (cy - half) h.pitch
    let last (cy : Int) (half : Nat) : Int := floorDiv (cy + half) h.pitch
    nominalSpans h x = x.placements.flatMap (fun p => x.sites.map (fun t =>
      let j0 := first (centre p t.bv) (t.hy + (cl t).collarMargin)
      let j1 := last (centre p t.bv) (t.hy + (cl t).collarMargin)
      match t.gap with
      | none => (floorDiv j0 4, floorDiv j1 4)
      | some g => (floorDiv (min j0 (first (centre p g.v) g.hy)) 4,
          floorDiv (max j1 (last (centre p g.v) g.hy)) 4)))) ∧
  ∀ spans : List (Int × Int),
    (∀ b : Int, spans.countP (fun x => decide (x.1 ≤ b) && decide (b ≤ x.2))
      ≤ concurrencyEstimate spans) ∧
    (spans ≠ [] → ∃ b : Int, spans.countP (fun x => decide (x.1 ≤ b) && decide (b ≤ x.2))
      = concurrencyEstimate spans)

/-- PROGRAM_ERASE (R16): its checks in their order, and the slot emptied, ENTRY_ENABLE as R29 gives it,
and nothing else changed, the drift values and repeat counters with it. -/
def Obligations.ProgramIsErased : Prop :=
  ∀ (s : State) (tag slot : Byte), s.Takes →
    let ask := exec (.programErase tag slot) s
    (3 < slot.toNat → ask = .next (s.answered .programErase tag .badArg [])) ∧
    ∀ k : SlotId, slot.toNat = k.val →
      (s.flow.station = .offline → ask = .next (s.answered .programErase tag .badState [])) ∧
      (s.flow.station ≠ .offline → (s.slots.get k).pins ≠ 0 →
        ask = .next (s.answered .programErase tag .slotBusy [])) ∧
      (s.flow.station ≠ .offline → (s.slots.get k).pins = 0 → ∃ e : Bool,
        let t : State := { s with
          slots := s.slots.set k ⟨.empty, 0, none, [], [], [], []⟩
          flow := { s.flow with entryEnable := e } }
        ask = .next (t.answered .programErase tag .ok []) ∧ (e = true ↔ t.EntryTerms))

/-! ### The flow controller (R20 to R41) -/

/-- CONFIGURE_STATION (R20, R21, R22, R64): when it is refused, with the fields of the record by their
offsets (R187), their ranges and the ownership conditions, and the configuration taken into force. That
the state check comes before the range check is the model's reading (assumption log 34). A head at or
above the head count becomes IDLE with no scan (the model's choice, assumption log 22). -/
def Obligations.StationIsConfigured : Prop :=
  ∀ (s : State) (tag : Byte) (record : List Byte), s.Takes → record.length = 38 →
    let ask := exec (.configureStation tag record) s
    let barred := s.flow.station = .running ∨ s.flow.station = .draining ∨ s.flow.station = .stopped
      ∨ s.flow.station = .fault
      ∨ s.flow.station = .idle ∧ ((∃ c, (s.ctx c).state ≠ .free)
          ∨ (s.flow.queue ≠ [] ∧ u8 record 0 ≠ s.flow.pitch))
    let start (p : Nat) := u16 record (2 + 4 * p)
    let stop (p : Nat) := u16 record (4 + 4 * p)
    let f : StationConfig :=
      { pitch := u8 record 0, heads := u8 record 1
        ranges := (List.range (u8 record 1)).map (fun p => ⟨start p, stop p⟩)
        originX := u32 record 18, originY := u32 record 22, locateTimeout := u16 record 26
        tileTimeout := u16 record 28, exitTimeout := u32 record 30
        deviating := record.getD 34 0 ++ record.getD 35 0, ovenHold := u8 record 36
        defaultSlot := if h : u8 record 37 < 4 then some ⟨u8 record 37, h⟩ else none }
    let inRange : Prop := (f.pitch = 10 ∨ f.pitch = 12 ∨ f.pitch = 15 ∨ f.pitch = 20) ∧
      (1 ≤ f.heads ∧ f.heads ≤ 4) ∧
      (∀ p, p < f.heads → start p % 64 = 0 ∧ stop p % 64 = 0 ∧ start p < stop p ∧ stop p ≤ 16384) ∧
      (∀ p, p + 1 < f.heads → stop p ≤ start (p + 1)) ∧ f.originX ≤ 327680 ∧ f.originY ≤ 327680 ∧
      (5 ≤ f.locateTimeout ∧ f.locateTimeout ≤ 500) ∧
      (10 ≤ f.tileTimeout ∧ f.tileTimeout ≤ 1000) ∧
      (2000 ≤ f.exitTimeout ∧ f.exitTimeout ≤ 120000) ∧ (u8 record 37 < 4 ∨ u8 record 37 = 255)
    (barred → ask = .next (s.answered .configureStation tag .badState [])) ∧
    (¬ barred → ¬ inRange → ask = .next (s.answered .configureStation tag .badArg [])) ∧
    (¬ barred → inRange →
      let t : State := { s with
        flow := { s.flow with config := some f, station := .idle, entryEnable := false }
        ports := s.ports.mapIdx (fun p x =>
          if p.val < f.heads then
            { x with link := .unknown, queryTimer := some (s.now + f.locateTimeout)
                     lane := x.lane ++ [.headQuery] }
          else { x with link := .unconfigured, queryTimer := none, scan := .idle, record := none })
        link := if s.flow.station = .offline then
            s.link.raise (.stationState .idle .offline .configured)
          else s.link }
      ask = .next (t.answered .configureStation tag .ok []))

/-- SET_MODE (R22, R23): the mode checked after the state, the station state it leads to with the notice
of the change, the lines driven anew, and the reply with the state. -/
def Obligations.ModeIsSet : Prop :=
  ∀ (s : State) (tag mode : Byte), s.Takes →
    (s.flow.station = .idle ∨ s.flow.station = .running ∨ s.flow.station = .draining) →
    let ask := exec (.setMode tag mode) s
    let stays := ask = .next (s.driveLines.answered .setMode tag .ok [s.flow.station.code])
    let becomes (st : StationState) (cause : StationCause) :=
      let t : State := { s with
        flow := { s.flow with station := st }
        link := s.link.raise (.stationState st s.flow.station cause) }
      ask = .next (t.driveLines.answered .setMode tag .ok [st.code])
    (1 < mode.toNat → ask = .next (s.answered .setMode tag .badArg [])) ∧
    (mode.toNat = 0 → (s.flow.station = .idle ∨ s.flow.station = .draining) → becomes .running .run) ∧
    (mode.toNat = 0 → s.flow.station = .running → stays) ∧
    (mode.toNat = 1 → s.flow.station = .running → (∃ c, (s.ctx c).state ≠ .free) →
      becomes .draining .drain) ∧
    (mode.toNat = 1 → s.flow.station = .running → (∀ c, (s.ctx c).state = .free) →
      becomes .idle .drained) ∧
    (mode.toNat = 1 → (s.flow.station = .idle ∨ s.flow.station = .draining) → stays)

/-- QUEUE_PANEL (R26): its checks in their order, with the fields of the descriptor by their offsets
(R187), their ranges and its presence bits, and the descriptor at the tail with its slot pinned.
CANCEL_QUEUE (R27): every descriptor removed and its pin with it, and the number in the reply. -/
def Obligations.PanelIsQueuedOrCancelled : Prop :=
  (∀ (s : State) (tag : Byte) (descriptor : List Byte), s.Takes → descriptor.length = 38 →
    s.flow.station ≠ .offline →
    let ask := exec (.queuePanel tag descriptor) s
    let refused (st : Status) := Host.Outcome.next (s.answered .queuePanel tag st [])
    let corner (i : Nat) := u32 descriptor (18 + 4 * i)
    let regional := u8 descriptor 0 % 2 = 1
    let outOfRange := 3 < u8 descriptor 1 ∨ 3 < u8 descriptor 0 ∨
      regional ∧ ∃ i, i < 4 ∧ 1000000 < corner i
    (outOfRange → ask = refused .badArg) ∧
    ∀ k : SlotId, u8 descriptor 1 = k.val → ¬ outOfRange →
      let d : Descriptor :=
        { slot := k, tag := (descriptor.drop 2).take 16
          region := if regional then some ⟨corner 0, corner 1, corner 2, corner 3⟩ else none
          exclusions := if 2 ≤ u8 descriptor 0 then some (BitVec.ofNat 32 (u32 descriptor 34))
            else none }
      (4 ≤ s.flow.queue.length → ask = refused .queueFull) ∧
      (s.flow.queue.length < 4 →
        ((s.slots.get d.slot).state ≠ .valid → ask = refused .slotEmpty) ∧
        ∀ h, (s.slots.get d.slot).state = .valid → (s.slots.get d.slot).header = some h →
          (h.pitch ≠ s.flow.pitch → ask = refused .pitchMismatch) ∧
          (h.pitch = s.flow.pitch → (∃ r, d.region = some r ∧ (r.u1 < r.u0 ∨ r.v1 < r.v0)) →
            ask = refused .badArg) ∧
          (h.pitch = s.flow.pitch → (∀ r, d.region = some r → r.u0 ≤ r.u1 ∧ r.v0 ≤ r.v1) →
            ∃ e : Bool,
              let t : State := { s with
                flow := { s.flow with queue := s.flow.queue ++ [d], entryEnable := e }
                slots := s.slots.set d.slot { s.slots.get d.slot with
                  pins := (s.slots.get d.slot).pins + 1 } }
              ask = .next (t.answered .queuePanel tag .ok [byteOf (s.flow.queue.length + 1)]) ∧
              (e = true ↔ t.EntryTerms)))) ∧
  (∀ (s : State) (tag : Byte), s.Takes → s.flow.station ≠ .offline →
    ∃ (e : Bool) (q : Quad Slot),
      let t : State := { s with
        flow := { s.flow with queue := [], entryEnable := e }
        slots := q }
      exec (.cancelQueue tag) s
        = .next (t.answered .cancelQueue tag .ok [byteOf s.flow.queue.length]) ∧
      (e = true ↔ t.EntryTerms) ∧
      ∀ k, q.get k = { s.slots.get k with
        pins := (s.slots.get k).pins - s.flow.queue.countP (fun d => d.slot == k) })

/-- CLEAR_STOP (R38) and CLEAR_FAULT (R39), where they are not refused: the station IDLE with its notice, a
RELEASING context freed by the latter and counted, and the lines driven anew. Of two RELEASING contexts,
which no run has, the lower-numbered is freed (the model's choice, assumption log 30). -/
def Obligations.HoldIsCleared : Prop :=
  (∀ (s : State) (tag : Byte), s.Takes → s.flow.station = .stopped → s.pins.stop = false →
    let t : State := { s with
      flow := { s.flow with station := .idle }
      link := s.link.raise (.stationState .idle .stopped .cleared) }
    exec (.clearStop tag) s = .next (t.driveLines.answered .clearStop tag .ok [])) ∧
  (∀ (s : State) (tag : Byte), s.Takes → s.flow.station = .fault →
    let cleared (u : State) : State := { u with
      flow := { u.flow with station := .idle }
      link := u.link.raise (.stationState .idle .fault .cleared) }
    ((∀ c, (s.ctx c).state ≠ .releasing) →
      exec (.clearFault tag) s = .next ((cleared s).driveLines.answered .clearFault tag .ok [0])) ∧
    ∀ c, (s.ctx c).state = .releasing → (∀ d, d < c → (s.ctx d).state ≠ .releasing) →
      let u : State := { s with
        flow := { s.flow with
          ctxs := s.flow.ctxs.set c { s.ctx c with
            state := .free, position := .nowhere, taktRunning := false }
          counters := { s.flow.counters with
            jamCleared := bump s.flow.counters.jamCleared 1 } }
        slots := s.slots.set (s.ctx c).slot { s.slots.get (s.ctx c).slot with
          pins := (s.slots.get (s.ctx c).slot).pins - 1 }
        decision := { s.decision with records := s.decision.records.set c .absent } }
      exec (.clearFault tag) s = .next ((cleared u).driveLines.answered .clearFault tag .ok [1]))

/-- MEASURE_OCC_RISE (R30, R33, R150): while the terms of R29 hold it is an arrival. The lowest-numbered
FREE context takes the head descriptor, or the default slot pinned anew with a zero tag, the next sequence
number, the process flag and the takt deadline, with an empty verdict table, and is handed to the
alignment unit. Otherwise it is an unexpected board, counted and marked. The lines are driven anew. -/
def Obligations.BoardArrives : Prop :=
  (∀ (s : State) (c : CtxId) (d : Descriptor) (h : Header), s.EntryTerms →
    (s.ctx c).state = .free → (∀ b, b < c → (s.ctx b).state ≠ .free) →
    (s.flow.queue.head? = some d ∨ s.flow.queue = [] ∧ ∃ f, s.flow.config = some f
      ∧ f.defaultSlot = some d.slot ∧ d.tag = List.replicate 16 0 ∧ d.region = none
      ∧ d.exclusions = none) →
    (s.slots.get d.slot).header = some h →
    let k := s.slots.get d.slot
    let deviating := s.flow.deviating s.monitor.recognized
    let x : Context := { Context.freed with
      state := .aligning, position := .measure, seq := (s.flow.seq + 1) % 256, tag := d.tag
      slot := d.slot, region := d.region, exclusions := d.exclusions
      processFlag := deviating || decide (0 < s.monitor.hold)
      arrival := s.now, deadline := s.now + h.taktLimit, taktRunning := true
      verdicts := List.replicate (k.placements.length * k.sites.length) VerdictEntry.unset
      unset := k.placements.length * k.sites.length }
    let t : State := { s with
      pins := { s.pins with measureOcc := true }
      flow := { s.flow with
        queue := s.flow.queue.tail, seq := (s.flow.seq + 1) % 256, ctxs := s.flow.ctxs.set c x
        counters := { s.flow.counters with arrivals := bump s.flow.counters.arrivals 1 } }
      slots := if s.flow.queue = [] then s.slots.set d.slot { k with pins := k.pins + 1 } else s.slots
      monitor := { s.monitor with
        hold := if deviating then s.monitor.hold else s.monitor.hold - 1 }
      log := { s.log with overflow := s.log.overflow.set c false }
      decision := { s.decision with records := s.decision.records.set c .waiting } }
    exec .measureOccRise s = .next (t.beginAlignment c).driveLines.pump) ∧
  ∀ s : State, ¬ s.EntryTerms →
    let t : State := { s with
      pins := { s.pins with measureOcc := true }
      flow := { s.flow with
        untrackedMeasure := true
        counters := { s.flow.counters with
          unexpectedBoard := bump s.flow.counters.unexpectedBoard 1 } } }
    exec .measureOccRise s = .next t.driveLines.pump

/-- MEASURE_OCC_FALL and EXIT_OCC_RISE (R33, R34, R40): the start of a shift, a removal at the measure
position by the state of its context, the end of a shift, and an unexpected board at the exit buffer. Of two
such contexts, which no run has, the lower-numbered is taken (the model's choice, assumption log 30). -/
def Obligations.BoardShifts : Prop :=
  (∀ s : State,
    let t : State := { s with
      pins := { s.pins with measureOcc := false }
      flow := { s.flow with untrackedMeasure := false } }
    let there (c : CtxId) := (s.ctx c).position = .measure ∧ (s.ctx c).inTransit = false
      ∧ (s.ctx c).removed = false
    let fall := exec .measureOccFall s
    ((∀ c, ¬ there c) → fall = .next t.driveLines.pump) ∧
    ∀ c, there c → (∀ b, b < c → ¬ there b) →
      (s.flow.shift = true → fall = .next (({ t with flow := { t.flow with
        ctxs := t.flow.ctxs.set c { s.ctx c with inTransit := true } } } : State).driveLines.pump)) ∧
      (s.flow.shift = false →
        let u : State := { t with flow := { t.flow with
          ctxs := t.flow.ctxs.set c { s.ctx c with removed := true }
          counters := { s.flow.counters with removed := bump s.flow.counters.removed 1 } } }
        (((s.ctx c).state = .aligning ∨ (s.ctx c).state = .arming ∨ (s.ctx c).state = .scanning) →
          fall = .next (u.abortContext c).driveLines.pump) ∧
        ((s.ctx c).state = .decided → fall = .next (u.freeContext c).driveLines.pump) ∧
        (((s.ctx c).state = .judging ∨ (s.ctx c).state = .releasing ∨ (s.ctx c).state = .free) →
          fall = .next u.driveLines.pump))) ∧
  ∀ s : State,
    let travels (c : CtxId) := (s.ctx c).inTransit = true ∧ (s.ctx c).state ≠ .free
    ((∀ c, ¬ travels c) → exec .exitOccRise s = .next (({ s with
      pins := { s.pins with exitOcc := true }
      flow := { s.flow with
        untrackedExit := true
        counters := { s.flow.counters with
          unexpectedExit := bump s.flow.counters.unexpectedExit 1 } } } : State).driveLines.pump)) ∧
    ∀ c, travels c → (∀ b, b < c → ¬ travels b) → exec .exitOccRise s = .next (({ s with
      pins := { s.pins with exitOcc := true }
      flow := { s.flow with
        ctxs := s.flow.ctxs.set c { s.ctx c with position := .exit, inTransit := false } } }
          : State).driveLines.pump)

/-- EXIT_OCC_FALL (R33, R35, R40): the end of a release, counted by its route, or a removal at the exit
buffer by the state of its context. Of two such contexts, which no run has, the lower-numbered is taken (the
model's choice, assumption log 30). -/
def Obligations.BoardLeaves : Prop :=
  ∀ s : State,
    let t : State := { s with
      pins := { s.pins with exitOcc := false }
      flow := { s.flow with untrackedExit := false } }
    let there (c : CtxId) := (s.ctx c).position = .exit ∧ (s.ctx c).removed = false
    let fall := exec .exitOccFall s
    (∀ c, (s.ctx c).state = .releasing → (∀ b, b < c → (s.ctx b).state ≠ .releasing) →
      let n := s.flow.counters
      let counted : FlowCounters := match (s.decision.records.get c).route with
        | .pass => { n with releasedPass := bump n.releasedPass 1 }
        | .rework => { n with releasedRework := bump n.releasedRework 1 }
        | .review => { n with releasedReview := bump n.releasedReview 1 }
      fall = .next (({ t with flow := { t.flow with
        release := false, exitTimer := none, counters := counted } } : State).freeContext
          c).driveLines.pump) ∧
    ((∀ c, (s.ctx c).state ≠ .releasing) → (∀ c, ¬ there c) → fall = .next t.driveLines.pump) ∧
    ∀ c, (∀ b, (s.ctx b).state ≠ .releasing) → there c → (∀ b, b < c → ¬ there b) →
      let u : State := { t with flow := { t.flow with
        ctxs := t.flow.ctxs.set c { s.ctx c with removed := true }
        counters := { s.flow.counters with removed := bump s.flow.counters.removed 1 } } }
      (((s.ctx c).state = .aligning ∨ (s.ctx c).state = .arming ∨ (s.ctx c).state = .scanning) →
        fall = .next (u.abortContext c).driveLines.pump) ∧
      ((s.ctx c).state = .decided → fall = .next (u.freeContext c).driveLines.pump) ∧
      (((s.ctx c).state = .judging ∨ (s.ctx c).state = .free) → fall = .next u.driveLines.pump)

/-- A context that becomes FREE (R2, R22, R35, R39, R40): position NONE, one pin fewer on its slot, its
decision record ABSENT, and the end of a drain. -/
def Obligations.ContextIsFreed : Prop :=
  ∀ (s : State) (c : CtxId),
    let t : State := { s with
      flow := { s.flow with ctxs := s.flow.ctxs.set c { s.ctx c with
        state := .free, position := .nowhere, taktRunning := false } }
      slots := s.slots.set (s.ctx c).slot { s.slots.get (s.ctx c).slot with
        pins := (s.slots.get (s.ctx c).slot).pins - 1 }
      decision := { s.decision with records := s.decision.records.set c .absent } }
    (s.flow.station = .draining → (∀ b, b ≠ c → (s.ctx b).state = .free) →
      s.freeContext c = { t with
        flow := { t.flow with station := .idle }
        link := s.link.raise (.stationState .idle .draining .drained) }) ∧
    ((s.flow.station ≠ .draining ∨ ∃ b, b ≠ c ∧ (s.ctx b).state ≠ .free) → s.freeContext c = t)

/-- The release test and the lines (R25, R29, R34, R35, R36): a DECIDED context at EXIT that is not removed
becomes RELEASING while the station moves and DOWNSTREAM_READY is high, with ROUTE showing its lane;
RELEASE, the exit timer, SHIFT and ENTRY_ENABLE take the levels their terms give; nothing else changes.
DOWNSTREAM_READY_RISE is that and no more. Of two such contexts, which no run has, the lower-numbered is
taken (the model's choice, assumption log 30). -/
def Obligations.LinesAreDriven : Prop :=
  (∀ s : State, exec .downstreamReadyRise s
    = .next ({ s with pins := { s.pins with downstreamReady := true } } : State).driveLines.pump) ∧
  ∀ s : State,
    let t := s.driveLines
    let moving := s.flow.station = .running ∨ s.flow.station = .draining
    let wants (c : CtxId) := (s.ctx c).position = .exit ∧ (s.ctx c).state = .decided
      ∧ (s.ctx c).removed = false
    { t with flow := s.flow } = s ∧
    { t.flow with ctxs := s.flow.ctxs, route := s.flow.route, release := s.flow.release
                  exitTimer := s.flow.exitTimer, shift := s.flow.shift
                  entryEnable := s.flow.entryEnable } = s.flow ∧
    (∀ c, moving → s.pins.downstreamReady = true → wants c → (∀ b, b < c → ¬ wants b) →
      t.flow.ctxs = s.flow.ctxs.set c { s.ctx c with state := .releasing } ∧
      t.flow.route = match s.decision.records.get c with
        | .decided d => d.route
        | _ => .review) ∧
    ((¬ moving ∨ s.pins.downstreamReady = false ∨ ∀ c, ¬ wants c) →
      t.flow.ctxs = s.flow.ctxs ∧ t.flow.route = s.flow.route) ∧
    (t.flow.release = true ↔ moving ∧ ∃ c, (t.ctx c).state = .releasing) ∧
    (t.flow.release = false → t.flow.exitTimer = none) ∧
    (t.flow.release = true → s.flow.release = true → t.flow.exitTimer = s.flow.exitTimer) ∧
    (∀ f, t.flow.release = true → s.flow.release = false → s.flow.config = some f →
      t.flow.exitTimer = some (s.now + f.exitTimeout)) ∧
    (t.flow.shift = true ↔ t.ShiftTerms) ∧ (t.flow.entryEnable = true ↔ t.EntryTerms)

/-- STOP_FALL, STOP_RISE and EXIT_TIMER_EXPIRY (R22, R24, R36, R37): the low time of STOP, what qualifies
its rise, an exit jam, and the entry to STOPPED or FAULT: the notice first, the lines dropped and the exit
timer cancelled, and each context in ALIGNING, ARMING or SCANNING aborted. Three points are the model's
choices: that context 0 is aborted before context 1, for which R37 gives no order (assumption log 30); that
a STOP_FALL taken while STOP is low starts the low time again, and a STOP_RISE with no low time running is
not qualified (assumption log 4); and that an exit timer that does not run does not expire (assumption
log 3). -/
def Obligations.StationIsHeld : Prop :=
  (∀ s : State, exec .stopFall s = .next { s with
    pins := { s.pins with stop := false }
    flow := { s.flow with stopLowSince := some s.now } }) ∧
  (∀ (s u : State) (st : StationState) (cause : StationCause),
    let t : State := { s with
      flow := { s.flow with
        station := st, entryEnable := false, shift := false, release := false, exitTimer := none
        counters := if st = .stopped then
            { s.flow.counters with stops := bump s.flow.counters.stops 1 }
          else s.flow.counters }
      link := s.link.raise (.stationState st s.flow.station cause) }
    let aborted (u : State) (c : CtxId) : State :=
      if (u.ctx c).state = .aligning ∨ (u.ctx c).state = .arming ∨ (u.ctx c).state = .scanning then
        u.abortContext c
      else u
    let held : State := aborted (aborted t 0) 1
    (s = { u with
        pins := { u.pins with stop := true }, flow := { u.flow with stopLowSince := none } } →
      st = .stopped → cause = .stopInput →
      let qualified := ∃ since, u.flow.stopLowSince = some since ∧ since + 10 ≤ u.now
      (qualified → u.flow.station ≠ .offline → u.flow.station ≠ .stopped →
        exec .stopRise u = .next held.driveLines.pump) ∧
      ((¬ qualified ∨ u.flow.station = .offline ∨ u.flow.station = .stopped) →
        exec .stopRise u = .next s)) ∧
    (s = { u with flow := { u.flow with counters := { u.flow.counters with
        exitJams := bump u.flow.counters.exitJams 1 } } } → st = .fault → cause = .exitJam →
      (u.flow.exitTimer ≠ none → (∃ c, (u.ctx c).state = .releasing) →
        exec .exitTimerExpiry u = .next held.driveLines.pump) ∧
      ((u.flow.exitTimer = none ∨ ∀ c, (u.ctx c).state ≠ .releasing) →
        exec .exitTimerExpiry u = .next u)))


/-! ### The defect log and the decision unit (R124 to R136, R157 to R159) -/

/-- A record handed to the log (R157, R158, R159): placed in the segment at the write position, which it
makes READY when it is the 1,024th or a summary, or dropped when that segment is READY, counted by its
kind and announced by the first drop of a panel. -/
def Obligations.RecordIsLogged : Prop :=
  ∀ (s : State) (c : CtxId) (r : LogRecord),
    let g := s.log
    let at' := g.segments.get g.writePos
    let records := at'.records ++ [r]
    let summary := ∃ x, r = .summary x
    (at'.state ≠ .ready → (records.length = 1024 ∨ summary) →
      s.logRecord c r = { s with
        log := { g with
          segments := g.segments.set g.writePos ⟨.ready, records⟩
          writePos := g.writePos + 1
          completed := bump g.completed 1 }
        link := s.link.raise (.segmentReady g.writePos records.length) }) ∧
    (at'.state ≠ .ready → records.length ≠ 1024 → ¬ summary →
      s.logRecord c r = { s with log := { g with
        segments := g.segments.set g.writePos ⟨.filling, records⟩ } }) ∧
    (at'.state = .ready →
      let t : State := match r with
        | .defect _ => { s with
            flow := { s.flow with ctxs := s.flow.ctxs.set c { s.ctx c with
              lostLog := (s.ctx c).lostLog + 1 } }
            log := { g with recordsDropped := bump g.recordsDropped 1 } }
        | .summary _ => { s with log := { g with
            summariesDropped := bump g.summariesDropped 1 } }
      (g.overflow.get c = true → s.logRecord c r = t) ∧
      (g.overflow.get c = false → s.logRecord c r = { t with
        log := { t.log with overflow := g.overflow.set c true }
        link := s.link.raise (.logOverflow c (s.ctx c).seq g.writePos) }))

/-- A decision and how it is handed on (R131, R132, R133, R135, R136, R41): the route causes and the route
by its precedence, then, in this order, the summary to the log, the PANEL_DECIDED notice, the repeat
request, the counters, and the context DECIDED with its takt timer cancelled, freed when its board was
removed. -/
def Obligations.DecisionIsHandedOn : Prop :=
  ∀ (s : State) (c : CtxId) (kind : DecisionKind) (time : Nat) (h : Header),
    (s.slots.get (s.ctx c).slot).header = some h →
    let x := s.ctx c
    let n := x.counts
    let defects := 0 < n.bridge + n.openJoint + n.low + n.high + n.shift
    let tooMany := h.unmeasuredLimit < n.unmeasured
    let route : Route :=
      if kind = .aborted then .review
      else if defects then .rework
      else if x.lateFlag ∨ x.alignFault ≠ none ∨ x.processFlag ∨ tooMany then .review
      else .pass
    let d : Decision :=
      ⟨kind, route, ⟨defects, x.lateFlag, x.abortedFlag, x.alignFault.isSome, x.processFlag, tooMany⟩,
        time⟩
    let sum : Summary :=
      { seq := x.seq, tag := x.tag, slot := x.slot, route := route, late := x.lateFlag
        aborted := x.abortedFlag, process := x.processFlag, alignFault := x.alignFault, counts := n
        defective := x.defective, skippedPlacements := x.skippedPlacements
        unverified := x.unverified, lostLog := x.lostLog, timeToDecision := time - x.arrival }
    let u := (({ s with decision := { s.decision with
      records := s.decision.records.set c (.decided d) } } : State).logRecord c (.summary sum)).raise
        (.panelDecided sum)
    let v : State := { u with
      monitor := u.monitor.request
        ⟨x.slot, (s.slots.get x.slot).sites.length, h.repeatLimit, x.seq, x.failBits, x.passBits⟩
      decision := { u.decision with
        normal := if kind = .normal then bump s.decision.normal 1 else s.decision.normal
        late := if kind = .late then bump s.decision.late 1 else s.decision.late
        aborted := if kind = .aborted then bump s.decision.aborted 1 else s.decision.aborted
        pass := if route = .pass then bump s.decision.pass 1 else s.decision.pass
        rework := if route = .rework then bump s.decision.rework 1 else s.decision.rework
        review := if route = .review then bump s.decision.review 1 else s.decision.review }
      flow := { u.flow with ctxs := u.flow.ctxs.set c { u.ctx c with
        state := .decided, taktRunning := false } } }
    (x.removed = true → s.makeDecision c kind time = (v.freeContext c).driveLines) ∧
    (x.removed = false → s.makeDecision c kind time = v.driveLines)

/-- A late decision, at a takt deadline (R127), and an aborted one (R129): what each gives up of the
context's work (R60, R79, R93, R101, R108), the fill of its UNSET entries (R130), and the decision. An
expiry of a timer that does not run has no effect (the model's choice, assumption log 3). -/
def Obligations.PanelIsDecidedEarly : Prop :=
  let given (s t : State) (c : CtxId) (stopped : Prop) (cause : Cause) (late aborted : Bool) : Prop :=
    let x := s.ctx c
    let unset := x.verdicts.countP (fun e => e.verdict == .unset)
    let scan : Prop := s.engine.serves c = true ∧ s.engine.service = .scanning
    (∃ ps : Quad Port,
      (∀ p, stopped → p.val < s.flow.heads → ps.get p = { s.ports.get p with
        lane := (s.ports.get p).lane ++ [.scanStop], scan := .idle, startTimer := none
        tileTimer := none, record := none, intake := []
        pools := (s.ports.get p).pools.map (fun k =>
          if k.state = .inIntake then k else ⟨.free, 0, 0, []⟩)
        course := (s.ports.get p).course.map (fun k => if k = .cutOff then .cutOff else .stale) }) ∧
      (∀ p, (¬ stopped ∨ s.flow.heads ≤ p.val) → ps.get p = s.ports.get p) ∧
      (∀ p k, scan → s.arbiter.inIntake = some (p, .tile k) →
        t.ports = ps.set p { ps.get p with pools := (ps.get p).pools.set k ⟨.free, 0, 0, []⟩ }) ∧
      ((¬ scan ∨ ∀ p k, s.arbiter.inIntake ≠ some (p, .tile k)) → t.ports = ps)) ∧
    (scan → t.arbiter = { s.arbiter with inIntake := none }) ∧ (¬ scan → t.arbiter = s.arbiter) ∧
    (s.align.aligning = some c → t.align = { s.align with
      aligning := none, lists := Quad.all [], inFlight := Quad.all none, skipped := [] }) ∧
    (s.align.aligning ≠ some c → t.align = s.align) ∧
    t.engine.pool = (s.engine.pool.filter (fun a =>
        a.2.holder.map Prod.fst ≠ some c ∨ a.2.state = .evaluating)).map
      (fun a => if a.2.holder.map Prod.fst = some c then (a.1, { a.2 with holder := none }) else a) ∧
    (s.engine.serves c = true → t.engine = { s.engine with
      service := .idle, served := none, visited := 0, openList := [], front := none
      scanRange := none, openSet := [], pool := t.engine.pool }) ∧
    (s.engine.serves c = false → t.engine = { s.engine with pool := t.engine.pool }) ∧
    t.evaluator = { s.evaluator with
      queue := s.evaluator.queue.filter (fun e => e.ctx ≠ c)
      entriesRemoved := bump s.evaluator.entriesRemoved
        (s.evaluator.queue.countP (fun e => e.ctx = c))
      current := s.evaluator.current.map (fun e =>
        if e.entry.ctx = c then { e with discard := true } else e) } ∧
    { t with ports := s.ports, arbiter := s.arbiter, align := s.align, engine := s.engine
             evaluator := s.evaluator }
      = { s with flow := { s.flow with ctxs := s.flow.ctxs.set c { x with
          lateFlag := x.lateFlag || late
          abortedFlag := x.abortedFlag || aborted
          verdicts := x.verdicts.map (fun e =>
            if e.verdict = .unset then ⟨.unmeasured, some cause, FlagSet.none⟩ else e)
          unset := 0
          counts := { x.counts with unmeasured := x.counts.unmeasured + unset } } } }
  (∀ (s : State) (c : CtxId), (s.ctx c).taktRunning = true →
    (s.decision.records.get c = .waiting ∨ s.decision.records.get c = .complete) →
    ∃ t, exec (.taktDeadlineExpiry c) s = .next (t.makeDecision c .late (s.ctx c).deadline).pump ∧
      given s t c ((s.ctx c).state = .scanning) .late true false) ∧
  (∀ (s : State) (c : CtxId), ((s.ctx c).taktRunning = false ∨
      (s.decision.records.get c ≠ .waiting ∧ s.decision.records.get c ≠ .complete)) →
    exec (.taktDeadlineExpiry c) s = .next s) ∧
  (∀ (s : State) (c : CtxId),
    (s.decision.records.get c = .waiting ∨ s.decision.records.get c = .complete) →
    ∃ t, s.abortContext c = t.makeDecision c .aborted s.now ∧ given s t c True .aborted false true) ∧
  ∀ (s : State) (c : CtxId), s.decision.records.get c ≠ .waiting →
    s.decision.records.get c ≠ .complete → s.abortContext c = s

/-! ### Resets (R42, R181, R182) -/

/-- RESET_STATION stays in service while each block carries out its part (R2, R18, R42, R61, R79, R81,
R102, R123, R124, R153, R163, R181), and STATION_RESET_COMPLETE empties the queue of notices and the
pending slots and forms the reply with the number of contexts that were not FREE. That every part is one
event, and the completion another, is the model's choice (assumption log 12); so are the values of the
freed contexts' fields (assumption log 8), and that a STATION_RESET_COMPLETE with no reset under way
changes nothing (assumption log 3). -/
def Obligations.StationIsReset : Prop :=
  (∀ (s : State) (tag : Byte) (f : StationConfig), s.Takes → s.link.Settled →
    s.flow.station ≠ .offline → s.flow.config = some f →
    exec (.resetStation tag) s = .next { s with
      flow := { s.flow with
        station := .idle, queue := [], ctxs := ⟨Context.freed, Context.freed⟩, exitTimer := none
        entryEnable := false, shift := false, release := false, route := .review
        untrackedMeasure := s.pins.measureOcc, untrackedExit := s.pins.exitOcc }
      slots := s.slots.mapIdx (fun _ k =>
        if k.state = .loading ∨ k.state = .validating then ⟨.empty, 0, none, [], [], [], []⟩
        else { k with pins := 0 })
      align := { s.align with
        aligning := none, lists := Quad.all [], inFlight := Quad.all none, skipped := []
        transform := none, plane := none, records := ⟨AlignRecord.clear, AlignRecord.clear⟩ }
      ports := s.ports.mapIdx (fun p x =>
        let y : Port := { x with
          queryTimer := none, scan := .idle, startTimer := none, tileTimer := none, record := none
          pools := ⟨⟨.free, 0, 0, []⟩, ⟨.free, 0, 0, []⟩⟩, header := none, intake := []
          course := x.course.map (fun k => if k = .cutOff then .cutOff else .stale) }
        if p.val < f.heads then
          { y with link := .unknown, queryTimer := some (s.now + f.locateTimeout)
                   lane := x.lane ++ [.scanStop, .headQuery] }
        else y)
      arbiter := ⟨3, none⟩
      engine := { s.engine with
        service := .idle, served := none, visited := 0, openList := [], front := none
        scanRange := none, openSet := [], pool := [] }
      evaluator := { s.evaluator with queue := [], current := none }
      decision := { s.decision with records := ⟨.absent, .absent⟩ }
      monitor := { s.monitor with requests := [], work := none, changes := [], overwrites := 0 }
      log := { s.log with segments := Quad.all ⟨.free, []⟩, writePos := 0, overflow := ⟨false, false⟩ }
      link := { s.link.taken 0x3B tag with
        resetCount := some ([s.ctx 0, s.ctx 1].countP (fun x => x.state ≠ .free)) } }) ∧
  (∀ (s : State) (n : Nat) (kind tag : Byte), s.link.resetCount = some n →
    s.link.inService = some (kind, tag) →
    exec .stationResetComplete s = .next (({ s with link := { s.link with
      notices := [], pending := [], resetCount := none } } : State).replied kind tag .ok [byteOf n])) ∧
  ∀ s : State, s.link.resetCount = none → exec .stationResetComplete s = .next s

/-- What a cold reset leaves, in every block, whatever stood before it (R1, R19, R42, R43, R61, R64, R65,
R69, R73, R81, R82, R83, R102, R123, R124, R136, R153, R156, R162, R182): the input lines keep their
levels, and the untracked marks and the low time of STOP follow them (R24, R33). The values of a FREE
context's fields are the model's choice (assumption log 8). The state after reset is that of a cold reset
with every input line low (assumption log 6) and nothing waiting, and it meets every standing rule. -/
def Obligations.MachineIsColdReset : Prop :=
  (∀ s : State, ∃ t : State, exec .coldReset s = .next t ∧
    t.now = 0 ∧ t.pins = s.pins ∧ t.pending = s.pending ∧
    t.flow.station = .offline ∧ t.flow.config = none ∧ t.flow.queue = [] ∧
    (∀ c, (t.ctx c).state = .free ∧ (t.ctx c).position = .nowhere ∧ (t.ctx c).inTransit = false
      ∧ (t.ctx c).removed = false ∧ (t.ctx c).taktRunning = false) ∧
    t.flow.seq = 0 ∧ t.flow.exitTimer = none ∧ t.flow.entryEnable = false ∧ t.flow.shift = false ∧
    t.flow.release = false ∧ t.flow.route = .review ∧
    t.flow.untrackedMeasure = s.pins.measureOcc ∧ t.flow.untrackedExit = s.pins.exitOcc ∧
    t.flow.stopLowSince = (if s.pins.stop then none else some 0) ∧
    (∀ k, t.slots.get k = ⟨.empty, 0, none, [], [], [], []⟩) ∧
    t.align.aligning = none ∧ t.align.transform = none ∧ t.align.plane = none ∧
    (∀ c, t.align.records.get c = ⟨⟨⟨.primary, .pending⟩, ⟨.primary, .pending⟩, ⟨.primary, .pending⟩⟩,
      0, 0, none, none, none, none⟩) ∧
    (∀ p, t.align.lists.get p = [] ∧ t.align.inFlight.get p = none ∧ t.align.nextNumber.get p = 0) ∧
    (∀ p, let x := t.ports.get p
      x.link = .unconfigured ∧ x.queryTimer = none ∧ x.scan = .idle ∧ x.startTimer = none ∧
      x.tileTimer = none ∧ x.record = none ∧ x.header = none ∧ x.course = none ∧ x.intake = [] ∧
      x.pools = ⟨⟨.free, 0, 0, []⟩, ⟨.free, 0, 0, []⟩⟩) ∧
    t.arbiter = ⟨3, none⟩ ∧
    t.engine = ⟨.idle, none, 0, [], none, none, [], [], 0, 0, 0⟩ ∧
    t.evaluator = ⟨[], none, 0, 0, 0⟩ ∧ t.decision = ⟨⟨.absent, .absent⟩, 0, 0, 0, 0, 0, 0⟩ ∧
    (∀ (k : SlotId) (i : Nat), t.monitor.driftOf k i = none ∧ t.monitor.repeatOf k i = 0) ∧
    t.monitor.requests = [] ∧ t.monitor.work = none ∧ t.monitor.recognized = 0 ∧
    t.monitor.candidate = none ∧ t.monitor.runLength = 0 ∧ t.monitor.hold = 0 ∧
    t.monitor.changes = [] ∧ t.monitor.overwrites = 0 ∧
    (∀ g, t.log.segments.get g = ⟨.free, []⟩) ∧ t.log.writePos = 0 ∧ t.log.overflow = ⟨false, false⟩ ∧
    t.counters = List.replicate 77 0 ∧
    t.link = ⟨⟨.hunt, [], 0⟩, none, none, none, none, [], [], [], 0, none, ⟨0, 0, 0, 0, 0, 0, 0, 0, 0⟩⟩ ∧
    t.link.Ok ∧ t.LinesFollow ∧ t.PhasesOk ∧ t.BuffersOk ∧ ∀ c, (t.ctx c).Tallied) ∧
  State.reset.pins = ⟨false, false, false, false, 0⟩ ∧ State.reset.pending = [] ∧
  exec .coldReset State.reset = .next State.reset

/-! ### The alignment unit (R43 to R59) -/

/-- The locate lists a new panel gets (R43, R44, R48), and the start of a head (R45): each head has, in order,
the primary fiducials, the bad marks of the placements not excluded, and the alternates of the primaries out
of field, that its owned range takes; what no range takes is resolved at once. What the skipped set held of
the alignment before is emptied here (the model's choice, assumption log 36). -/
def Obligations.LocateListsAreBuilt : Prop :=
  (∀ (s : State) (p : PortId),
    let n := s.align.nextNumber.get p
    (∀ (l : Locate) (rest : List Locate) (f : StationConfig), s.align.inFlight.get p = none →
      s.align.lists.get p = l :: rest → s.flow.config = some f →
      s.startHead p = { s with
        align := { s.align with
          lists := s.align.lists.set p rest
          inFlight := s.align.inFlight.set p (some ⟨l, n, s.now + f.locateTimeout⟩)
          nextNumber := s.align.nextNumber.set p (n + 1) }
        ports := s.ports.set p { s.ports.get p with
          lane := (s.ports.get p).lane ++ [.locate n (match l.sought with
            | .mark _ => true
            | .fiducial _ => false) l.x l.y l.radius] } }) ∧
    ((s.align.inFlight.get p ≠ none ∨ s.align.lists.get p = []) → s.startHead p = s)) ∧
  (∀ s : State, s.startHeads = (((s.startHead 0).startHead 1).startHead 2).startHead 3) ∧
  ∀ (s : State) (c : CtxId) (f : StationConfig) (f1 f2 f3 : Fiducial), s.flow.config = some f →
    (s.slots.get (s.ctx c).slot).fiducials = [f1, f2, f3] →
    let x := s.ctx c
    let place (sought : Sought) (u v radius : Nat) : Locate :=
      ⟨sought, f.originX + u, f.originY + v, radius⟩
    let head (l : Locate) : Option PortId := [0, 1, 2, 3].find? (fun p =>
      (f.ranges[p.val]?).any (fun r => r.start ≤ l.x / f.pitch ∧ l.x / f.pitch < r.stop))
    let fids : List (Fin 3 × Fiducial) := [(0, f1), (1, f2), (2, f3)]
    let primary (i : Fin 3 × Fiducial) := place (.fiducial i.1) i.2.u i.2.v i.2.radius
    let alternate (i : Fin 3 × Fiducial) : Option Locate :=
      i.2.alternate.map (fun a => place (.fiducial i.1) a.1 a.2 i.2.radius)
    let excluded (i : Nat) : Prop := ∃ m, x.exclusions = some m ∧ m.getLsbD i = true
    let ps := (s.slots.get x.slot).placements
    ∃ (marks : List Locate) (skipped : List (Nat × SkipCause)) (q : Quad (List Locate)) (r : AlignRecord),
      s.beginAlignment c = ({ s with
        align := { s.align with
          aligning := some c, lists := q, inFlight := Quad.all none, skipped := skipped
          records := s.align.records.set c r }
        flow := { s.flow with ctxs := s.flow.ctxs.set c { x with
          unverified := x.unverified + marks.countP (fun l => head l = none) } }
          } : State).startHeads.alignmentTest ∧
      (∀ l, l ∈ marks ↔ ∃ i p m, ps[i]? = some p ∧ ¬ excluded i ∧ p.mark = some m ∧
        l = place (.mark i) m.u m.v m.radius) ∧
      marks.Pairwise (fun a b => ∃ i j, a.sought = .mark i ∧ b.sought = .mark j ∧ i < j) ∧
      mapWf skipped ∧
      (∀ i, mapGet i skipped = some .excluded ↔ i < ps.length ∧ excluded i) ∧
      (∀ i, mapGet i skipped ≠ some .badMark) ∧
      (∀ p, q.get p = (fids.map primary ++ marks ++ fids.filterMap (fun i =>
        if head (primary i) = none then alternate i else none)).filter (fun l => head l = some p)) ∧
      (∀ i ∈ fids, r.fids.get i.1 =
        match head (primary i), alternate i with
        | some _, _ => ⟨.primary, .pending⟩
        | none, none => ⟨.primary, .outOfField⟩
        | none, some l => if head l = none then ⟨.alternate, .outOfField⟩ else ⟨.alternate, .pending⟩) ∧
      { r with fids := AlignRecord.clear.fids } = AlignRecord.clear

/-- LOCATE_RESULT and LOCATE_TIMER_EXPIRY (R46, R47, R48, R49, R50, R63, R77): which frames resolve the
locate in flight and which are stale, what an answer says, and what a resolution does to a fiducial and to
a mark before the heads are started and the end is tested. Only a wrong length is counted as a frame error
beside an error end (the model's choice, assumption log 20), and a timer that does not run does not expire
(assumption log 3). -/
def Obligations.LocateIsAnswered : Prop :=
  let resolved (u : State) (p : PortId) (c : CtxId) (g : InFlight) (o : FidOutcome)
      (r : MarkReading) : State :=
    let v : State := { u with align := { u.align with inFlight := u.align.inFlight.set p none } }
    (match g.locate.sought with
      | .fiducial i => v.resolveFiducial c i o
      | .mark m => v.resolveMark c m r).startHeads.alignmentTest
  let stale (u : State) (p : PortId) : State :=
    { u with ports := u.ports.set p { u.ports.get p with
      counters := { (u.ports.get p).counters with stale := bump (u.ports.get p).counters.stale 1 } } }
  (∀ (s : State) (p : PortId) (body : List Byte) (f : StationConfig), s.flow.config = some f →
    let x := s.ports.get p
    let heard : Port := if x.scan = .receiving then { x with tileTimer := some (s.now + f.tileTimeout) }
      else x
    let taken : State := { s with ports := s.ports.set p heard }
    let wrong : State := { s with ports := s.ports.set p { heard with
      counters := { x.counters with frameErrors := bump x.counters.frameErrors 1 } } }
    (f.heads ≤ p.val → ∀ good, exec (.locateResult p good body) s = .next (stale s p)) ∧
    (p.val < f.heads →
      (∀ g c, s.align.inFlight.get p = some g → s.align.aligning = some c →
        exec (.locateResult p false body) s = .next (resolved wrong p c g .headError .unread).pump ∧
        (body.head? = some g.number → body.length ≠ 15 →
          exec (.locateResult p true body) s = .next (resolved wrong p c g .headError .unread).pump) ∧
        (body.head? = some g.number → body.length = 15 →
          exec (.locateResult p true body) s = .next (resolved taken p c g
            (LocateAnswer.ofBody body).outcome (LocateAnswer.ofBody body).reading).pump) ∧
        (body.head? ≠ some g.number →
          exec (.locateResult p true body) s
            = .next (stale (if body.length = 15 then taken else wrong) p))) ∧
      ((s.align.inFlight.get p = none ∨ s.align.aligning = none) → ∀ good,
        exec (.locateResult p good body) s
          = .next (stale (if good = true ∧ body.length = 15 then taken else wrong) p)))) ∧
  (∀ (s : State) (p : PortId),
    (∀ g c, s.align.inFlight.get p = some g → s.align.aligning = some c →
      exec (.locateTimerExpiry p) s = .next (resolved { s with align := { s.align with
        locateTimeouts := s.align.locateTimeouts.set p (bump (s.align.locateTimeouts.get p) 1) } }
          p c g .noAnswer .unread).pump) ∧
    (s.align.inFlight.get p = none → exec (.locateTimerExpiry p) s = .next s)) ∧
  (∀ body : List Byte, body.length = 15 →
    let a := LocateAnswer.ofBody body
    let blank := ∀ b ∈ body.drop 2, b = 0
    let z := i32 body 10
    (u8 body 1 = 0 → u8 body 14 ≤ 100 → -32767 ≤ z → z ≤ 32767 →
      a.outcome = .found (i32 body 2) (i32 body 6) z (u8 body 14) ∧ a.reading = .unread) ∧
    (u8 body 1 = 0 → (100 < u8 body 14 ∨ z < -32767 ∨ 32767 < z) →
      a.outcome = .headError ∧ a.reading = .unread) ∧
    (u8 body 1 = 1 → blank → a.outcome = .headError ∧ a.reading = .present) ∧
    (u8 body 1 = 2 → blank → a.outcome = .headError ∧ a.reading = .absent) ∧
    (u8 body 1 = 3 → blank → a.outcome = .notFound ∧ a.reading = .unread) ∧
    (u8 body 1 ≠ 0 → ¬ blank → a.outcome = .headError ∧ a.reading = .unread) ∧
    (3 < u8 body 1 → a.outcome = .headError ∧ a.reading = .unread)) ∧
  (∀ (s : State) (c : CtxId) (i : Fin 3) (o : FidOutcome) (k : Fiducial) (f : StationConfig),
    (s.slots.get (s.ctx c).slot).fiducials[i.val]? = some k → s.flow.config = some f →
    let e := (s.align.records.get c).fids.get i
    let record (y : FidEntry) (q : Quad (List Locate)) : State := { s with align := { s.align with
      lists := q
      records := s.align.records.set c { s.align.records.get c with
        fids := (s.align.records.get c).fids.set i y } } }
    ((o.isFound = true ∨ e.searched = .alternate ∨ k.alternate = none) →
      s.resolveFiducial c i o = record ⟨e.searched, o⟩ s.align.lists) ∧
    ∀ a, o.isFound = false → e.searched = .primary → k.alternate = some a →
      let l : Locate := ⟨.fiducial i, f.originX + a.1, f.originY + a.2, k.radius⟩
      let owns (p : PortId) : Prop := ∃ r, f.ranges[p.val]? = some r ∧ r.start ≤ l.x / f.pitch ∧
        l.x / f.pitch < r.stop
      (∀ p, owns p → (∀ q, q < p → ¬ owns q) →
        s.resolveFiducial c i o = record ⟨.alternate, .pending⟩
          (s.align.lists.set p (s.align.lists.get p ++ [l]))) ∧
      ((∀ p, ¬ owns p) →
        s.resolveFiducial c i o = record ⟨.alternate, .outOfField⟩ s.align.lists)) ∧
  ∀ (s : State) (c : CtxId) (m : Nat),
    let r := s.align.records.get c
    s.resolveMark c m .present = { s with align := { s.align with
      skipped := mapPut m .badMark s.align.skipped
      records := s.align.records.set c { r with marksPresent := r.marksPresent + 1 } } } ∧
    s.resolveMark c m .absent = { s with align := { s.align with
      records := s.align.records.set c { r with marksAbsent := r.marksAbsent + 1 } } } ∧
    s.resolveMark c m .unread = { s with flow := { s.flow with
      ctxs := s.flow.ctxs.set c { s.ctx c with unverified := (s.ctx c).unverified + 1 } } }

/-- The end of an alignment (R51 to R56, R58, R59), with the rounding it uses: the transform, the
residual and the plane solved from the fiducials found, the first check that fails giving its cause, and
what a success and an ALIGN_FAULT leave. Neither empties the skipped set, which stays until the next
alignment begins (the model's choice, assumption log 36). -/
def Obligations.AlignmentEnds : Prop :=
  (∀ a b : Int, b ≠ 0 →
    2 * (a - b * roundDiv a b).natAbs ≤ b.natAbs ∧
    (2 * (a - b * roundDiv a b).natAbs = b.natAbs → a.natAbs < (b * roundDiv a b).natAbs)) ∧
  ∀ (s : State) (c : CtxId) (h : Header) (f1 f2 f3 : Fiducial), s.align.aligning = some c →
    (s.slots.get (s.ctx c).slot).header = some h →
    (s.slots.get (s.ctx c).slot).fiducials = [f1, f2, f3] →
    let x := s.ctx c
    let r := s.align.records.get c
    let ended := (∀ p, s.align.lists.get p = [] ∧ s.align.inFlight.get p = none) ∧
      ∀ i, (r.fids.get i).outcome ≠ .pending
    let sites := (s.slots.get x.slot).sites.length
    let skipped (j : Nat) : Option SkipCause := mapGet (j / sites) s.align.skipped
    let faulted (cause : AlignCause) (residual : Option Nat) : Prop :=
      x.state = .aligning → s.decision.records.get c = .waiting → x.verdicts ≠ [] →
      x.verdicts = List.replicate x.verdicts.length VerdictEntry.unset → x.unset = x.verdicts.length →
      let js := List.range x.verdicts.length
      s.alignmentTest = ({ s with
        align := { s.align with
          aligning := none
          records := s.align.records.set c { r with residual := residual, cause := some cause } }
        decision := { s.decision with records := s.decision.records.set c .complete }
        flow := { s.flow with ctxs := s.flow.ctxs.set c { x with
          alignFault := some cause, skippedPlacements := s.align.skipped.length
          verdicts := js.map (fun j => match skipped j with
            | some .badMark => ⟨.skipped, some .badMark, FlagSet.none⟩
            | some .excluded => ⟨.skipped, some .excluded, FlagSet.none⟩
            | none => ⟨.unmeasured, some .notAligned, FlagSet.none⟩)
          unset := 0
          counts := { x.counts with
            skipped := x.counts.skipped + js.countP (fun j => skipped j ≠ none)
            unmeasured := x.counts.unmeasured + js.countP (fun j => skipped j = none) } } }
              } : State).makeDecision c .normal s.now
    let found (i : Fin 3) (f : Fiducial) (n m : Int × Int) (z : Int) : Prop :=
      (∃ q, (r.fids.get i).outcome = .found m.1 m.2 z q) ∧
      (((r.fids.get i).searched = .primary ∧ n = (((f.u : Nat) : Int), ((f.v : Nat) : Int))) ∨
        (r.fids.get i).searched = .alternate ∧ ∃ a, f.alternate = some a ∧
          n = (((a.1 : Nat) : Int), ((a.2 : Nat) : Int)))
    (¬ ended → s.alignmentTest = s) ∧
    (ended → (∃ i, ∀ a b d q, (r.fids.get i).outcome ≠ .found a b d q) → faulted .fiducialMissing none) ∧
    ∀ (n1 n2 n3 m1 m2 m3 : Int × Int) (z1 z2 z3 : Int), ended → found 0 f1 n1 m1 z1 →
      found 1 f2 n2 m2 z2 → found 2 f3 n3 m3 z3 →
      let du := n2.1 - n1.1
      let dv := n2.2 - n1.2
      let dx2 := m2.1 - m1.1
      let dy2 := m2.2 - m1.2
      let dx3 := m3.1 - m1.1
      let dy3 := m3.2 - m1.2
      let L := du * du + dv * dv
      let A := roundDiv ((du * dx2 + dv * dy2) * 65536) L
      let B := roundDiv ((du * dy2 - dv * dx2) * 65536) L
      let u := n3.1 - n1.1
      let v := n3.2 - n1.2
      let residual := max (m1.1 + roundDiv (A * u - B * v) 65536 - m3.1).natAbs
        (m1.2 + roundDiv (B * u + A * v) 65536 - m3.2).natAbs
      let D := dx2 * dy3 - dx3 * dy2
      let Gx := roundDiv (((z2 - z1) * dy3 - (z3 - z1) * dy2) * 1048576) D
      let Gy := roundDiv ((dx2 * (z3 - z1) - dx3 * (z2 - z1)) * 1048576) D
      let scale := (A - 65536).natAbs ≤ h.scaleLimit
      let rotation := B.natAbs ≤ h.rotationLimit
      let close := residual ≤ h.residualLimit
      let level := D ≠ 0 ∧ Gx.natAbs ≤ h.slopeLimit ∧ Gy.natAbs ≤ h.slopeLimit
      (¬ scale → faulted .scale none) ∧
      (scale → ¬ rotation → faulted .rotation none) ∧
      (scale → rotation → ¬ close → faulted .residual (some residual)) ∧
      (scale → rotation → close → ¬ level → faulted .slope (some residual)) ∧
      (scale → rotation → close → level →
        let t : Transform := ⟨A, B, n1.1, n1.2, m1.1, m1.2⟩
        let p : Plane := ⟨Gx, Gy, m1.1, m1.2, z1⟩
        s.alignmentTest = { s with
          align := { s.align with
            aligning := none, transform := some t, plane := some p
            records := s.align.records.set c { r with
              terms := some (A, B), residual := some residual, slopes := some (Gx, Gy) } }
          flow := { s.flow with ctxs := s.flow.ctxs.set c { x with
            skippedPlacements := s.align.skipped.length, state := .arming } }
          engine := { s.engine with
            service := .arming, served := some ⟨c, t, p, s.align.skipped, x.region⟩, visited := 0
            openList := [], front := none, scanRange := none, openSet := [] } })

/-! ### The window engine (R82 to R100) -/

/-- Arming (R85 to R92): what the visit of a joint makes of it, the open-order list it keeps sorted, and
what the completion of arming does, with SCAN_START to every configured head (R66). ARMING_COMPLETE visits
the joints that remain (the model's choice, assumption log 9), and with no arming in progress neither
command does anything (assumption log 3). -/
def Obligations.JointsAreArmed : Prop :=
  (∀ s : State, exec .armingJointVisit s = .next s.visitJoint.pump) ∧
  (∀ (s : State) (j : Served), s.engine.service = .arming → s.engine.served = some j →
    exec .armingComplete s = .next ((Nat.iterate State.visitJoint
      ((s.ctx j.ctx).verdicts.length - s.engine.visited) s).completeArming).pump) ∧
  (∀ s : State, (s.engine.service ≠ .arming ∨ s.engine.served = none) → s.link.Settled →
    exec .armingJointVisit s = .next s ∧ exec .armingComplete s = .next s) ∧
  (∀ (s : State) (j : Served) (p : Placement) (k : Site) (cl : ClassRecord) (f : StationConfig),
    s.engine.service = .arming → s.engine.served = some j → s.flow.config = some f →
    let c := j.ctx
    let x := s.ctx c
    let g := s.slots.get x.slot
    let n := s.engine.visited
    let pi := n / g.sites.length
    let si := n % g.sites.length
    x.state = .arming → n < x.verdicts.length → g.placements[pi]? = some p → g.sites[si]? = some k →
    g.classes[k.cls]? = some cl → x.verdicts[n]? = some VerdictEntry.unset →
    let u : State := { s with engine := { s.engine with visited := n + 1 } }
    let writes (v : Verdict) (cause : Cause) (counts : VerdictCounts) : State :=
      { u with flow := { u.flow with ctxs := u.flow.ctxs.set c { x with
        verdicts := x.verdicts.set n ⟨v, some cause, FlagSet.none⟩, unset := x.unset - 1
        counts := counts } } }
    let reported (w : State) : State :=
      if x.unset ≤ 1 ∧ s.decision.records.get c = .waiting then
        { w with decision := { w.decision with records := w.decision.records.set c .complete } }
      else w
    let skips (cause : Cause) : State :=
      reported (writes .skipped cause { x.counts with skipped := x.counts.skipped + 1 })
    let at' (bu bv : Int) : Int × Int :=
      if p.turned then ((p.pu : Int) - bu, (p.pv : Int) - bv) else ((p.pu : Int) + bu, (p.pv : Int) + bv)
    let machine (q : Int × Int) : Int × Int :=
      let t := j.transform
      (t.x1 + roundDiv (t.a * (q.1 - t.u1) - t.b * (q.2 - t.v1)) 65536,
       t.y1 + roundDiv (t.b * (q.1 - t.u1) + t.a * (q.2 - t.v1)) 65536)
    let rect (q : Int × Int) (hx hy : Nat) : Rect :=
      ⟨ceilDiv (q.1 - hx) f.pitch, floorDiv (q.1 + hx) f.pitch,
       ceilDiv (q.2 - hy) f.pitch, floorDiv (q.2 + hy) f.pitch⟩
    let count (r : Rect) : Nat := ((r.i1 - r.i0 + 1) * (r.j1 - r.j0 + 1)).toNat
    let centre := at' k.bu k.bv
    let pad := rect (machine centre) k.hx k.hy
    let outer := rect (machine centre) (k.hx + cl.collarMargin) (k.hy + cl.collarMargin)
    let gap := k.gap.map (fun w => rect (machine (at' w.u w.v)) w.hx w.hy)
    let lo : Int := match gap with
      | some r => min outer.i0 r.i0
      | none => outer.i0
    let hi : Int := match gap with
      | some r => max outer.i1 r.i1
      | none => outer.i1
    let outside := ∃ r, j.region = some r ∧
      (centre.1 < r.u0 ∨ (r.u1 : Int) < centre.1 ∨ centre.2 < r.v0 ∨ (r.v1 : Int) < centre.2)
    let owned (i : Int) := ∃ o ∈ f.ranges, (o.start : Int) ≤ i ∧ i < o.stop
    let fits (r : Rect) := (∀ i, r.i0 ≤ i → i ≤ r.i1 → owned i) ∧ 0 ≤ r.j0 ∧ r.j1 ≤ 65535
    let inField := fits outer ∧ ∀ r, gap = some r → fits r
    (∀ cause, mapGet pi j.skipped = some cause →
      s.visitJoint = skips (match cause with
        | .badMark => .badMark
        | .excluded => .excluded)) ∧
    (mapGet pi j.skipped = none → outside → s.visitJoint = skips .outOfRegion) ∧
    (mapGet pi j.skipped = none → ¬ outside → ¬ inField →
      s.visitJoint = reported ((writes .unmeasured .outOfField { x.counts with
        unmeasured := x.counts.unmeasured + 1 }).logRecord c (.defect
          ⟨x.seq, pi, si, .unmeasured, some .outOfField, FlagSet.none, none, none, none, none⟩))) ∧
    (mapGet pi j.skipped = none → ¬ outside → inField →
      ∃ (e : ArmedJoint) (before after : List ArmedJoint),
        s.visitJoint = { u with engine := { u.engine with openList := before ++ e :: after } } ∧
        s.engine.openList = before ++ after ∧
        (∀ b ∈ before, ¬ (e.firstBlock < b.firstBlock ∨ e.firstBlock = b.firstBlock ∧ e.joint < b.joint)) ∧
        (∀ a, after.head? = some a →
          e.firstBlock < a.firstBlock ∨ e.firstBlock = a.firstBlock ∧ e.joint < a.joint) ∧
        e.joint = n ∧ e.placement = pi ∧ e.site = si ∧ e.cls = k.cls ∧ e.pad = pad ∧ e.outer = outer ∧
        e.gap = gap ∧ e.nExpPad = count pad ∧ e.nExpCollar = count outer - count pad ∧
        (∀ r, gap = some r → e.nExpGap = count r) ∧ (gap = none → e.nExpGap = 0) ∧
        (e.firstBlock = (floorDiv (match gap with
          | some r => min outer.j0 r.j0
          | none => outer.j0) 4).toNat) ∧
        (e.lastBlock = (floorDiv (match gap with
          | some r => max outer.j1 r.j1
          | none => outer.j1) 4).toNat) ∧
        e.deps.Pairwise (· < ·) ∧
        ∀ q : PortId, q ∈ e.deps ↔ ∃ o, f.ranges[q.val]? = some o ∧
          (o.start : Int) ≤ hi ∧ lo < (o.stop : Int))) ∧
  ∀ (s : State) (j : Served) (f : StationConfig), s.engine.service = .arming →
    s.engine.served = some j → s.flow.config = some f →
    let c := j.ctx
    let enters (st : CtxState) (t : State) : State :=
      { t with flow := { t.flow with ctxs := t.flow.ctxs.set c { s.ctx c with state := st } } }
    (s.engine.openList = [] →
      let t := (enters .judging { s with engine := { s.engine with
        service := .idle, served := none, visited := 0, openList := [], front := none
        scanRange := none, openSet := [] } }).driveLines
      s.completeArming = if t.decision.records.get c = .complete then t.makeDecision c .normal t.now
        else t) ∧
    (s.engine.openList ≠ [] → ∃ first last,
      (∀ e ∈ s.engine.openList, first ≤ e.firstBlock ∧ e.lastBlock ≤ last) ∧
      (∃ e ∈ s.engine.openList, e.firstBlock = first) ∧ (∃ e ∈ s.engine.openList, e.lastBlock = last) ∧
      s.completeArming = { enters .scanning s with
        engine := { s.engine with
          service := .scanning, front := none, scanRange := some (first, last) }
        ports := s.ports.mapIdx (fun p x => match f.ranges[p.val]? with
          | some r => if p.val < f.heads then
              { x with
                lane := x.lane ++ [.scanStart (s.ctx c).seq r.start r.stop first last]
                scan := .starting, startTimer := some (s.now + f.locateTimeout), tileTimer := none
                intake := []
                record := some ⟨(s.ctx c).seq, first, last, r.start, r.stop, none, 0,
                  (first : Int) - 1, false, false⟩ }
            else x
          | none => x) })

/-- Opening (R95, R96, R103), the closing test (R99) and the end sweep (R100): a joint takes the
lowest-numbered FREE accumulator or is written NO_ACCUMULATOR, the front advances and the head of the list
opens in order, and the joints that every head they depend on has passed close in order into the
evaluation queue, whose head the idle evaluator takes (R106). -/
def Obligations.JointsOpenAndClose : Prop :=
  (∀ (s : State) (c : CtxId) (a : ArmedJoint), mapWf s.engine.pool →
    let held (n : Nat) := mapGet n s.engine.pool ≠ none
    (∀ n, n < 1024 → ¬ held n → (∀ m, m < n → held m) →
      s.openJoint c a = { s with engine := { s.engine with
        pool := mapPut n ⟨.opened, some (c, a.joint), 0, 0, 0, none, 0, 0, 0, 0, 0, 0, 0, 0⟩ s.engine.pool
        openSet := s.engine.openSet ++ [⟨a, n⟩]
        peak := max s.engine.peak (s.engine.pool.length + 1) } }) ∧
    ((∀ n, n < 1024 → held n) →
      s.openJoint c a = ({ s with engine := { s.engine with
        exhausted := bump s.engine.exhausted 1 } } : State).writeOff c a.joint a.placement a.site
          .noAccumulator)) ∧
  (∀ (s : State) (c : CtxId) (joint placement site : Nat) (cause : Cause),
    let x := s.ctx c
    x.verdicts[joint]? = some VerdictEntry.unset →
    s.writeOff c joint placement site cause = (({ s with flow := { s.flow with
      ctxs := s.flow.ctxs.set c { x with
        verdicts := x.verdicts.set joint ⟨.unmeasured, some cause, FlagSet.none⟩
        unset := x.unset - 1
        counts := { x.counts with unmeasured := x.counts.unmeasured + 1 } } } } : State).logRecord c
          (.defect ⟨x.seq, placement, site, .unmeasured, some cause, FlagSet.none, none, none, none,
            none⟩)).reportComplete c) ∧
  (∀ (s : State) (c : CtxId) (r : Nat) (run rest : List ArmedJoint),
    let front := match s.engine.front with
      | none => r
      | some f => max f r
    s.engine.openList = run ++ rest → (∀ a ∈ run, a.firstBlock ≤ front) →
    (∀ a, rest.head? = some a → front < a.firstBlock) →
    s.openingStep c r = run.foldl (fun (t : State) a => t.openJoint c a)
      { s with engine := { s.engine with front := some front, openList := rest } }) ∧
  (∀ (s : State) (j : Served), s.engine.service = .scanning → s.engine.served = some j →
    let c := j.ctx
    let complete := ∀ p : PortId, p.val < s.flow.heads →
      ∃ r, (s.ports.get p).record = some r ∧ r.mark = r.last
    (¬ complete →
      ∀ closes : OpenJoint → Bool,
        (∀ o, closes o = true ↔ ∀ p ∈ o.entry.deps, (o.entry.lastBlock : Int) ≤ s.markOf p) →
        s.closingTest = ((s.engine.openSet.filter closes).foldl (fun (t : State) o => t.closeJoint c o)
          { s with engine := { s.engine with
            openSet := s.engine.openSet.filter (fun o => !closes o) } }).takeEntry) ∧
    (∀ first last, complete → s.engine.scanRange = some (first, last) →
      let opened := s.engine.openList.foldl (fun (t : State) a => t.openJoint c a)
        { s with engine := { s.engine with front := some last, openList := [] } }
      let closed := opened.engine.openSet.foldl (fun (t : State) o => t.closeJoint c o)
        { opened with engine := { opened.engine with openSet := [] } }
      s.closingTest = ({ closed with engine := { closed.engine with
        service := .idle, served := none, visited := 0, openList := [], front := none
        scanRange := none, openSet := [] } } : State).takeEntry)) ∧
  (∀ (s : State) (p : PortId) (r : ScanRecord), (s.ports.get p).record = some r → s.markOf p = r.mark) ∧
  (∀ (s : State) (c : CtxId) (o : OpenJoint) (a : Accumulator), mapGet o.acc s.engine.pool = some a →
    let e := o.entry
    let short := a.padTot < e.nExpPad ∨ a.collarTot < e.nExpCollar ∨ a.gapTot < e.nExpGap
    s.closeJoint c o = { s with
      engine := { s.engine with
        pool := mapPut o.acc { a with state := .queued } s.engine.pool
        shortJoints := if short then bump s.engine.shortJoints 1 else bump s.engine.shortJoints 0 }
      evaluator := { s.evaluator with queue := s.evaluator.queue ++ [⟨c, e.joint, e.placement, e.site,
        e.cls, o.acc, e.nExpPad, e.pad.i1 - e.pad.i0, e.pad.j1 - e.pad.j0, e.gap.isSome⟩] } }) ∧
  (∀ (s : State) (e : EvalEntry) (rest : List EvalEntry) (cl : ClassRecord) (a : Accumulator),
    s.evaluator.current = none → s.evaluator.queue = e :: rest →
    (s.slots.get (s.ctx e.ctx).slot).classes[e.cls]? = some cl → mapGet e.acc s.engine.pool = some a →
    s.takeEntry = { s with
      evaluator := { s.evaluator with queue := rest, current := some ⟨e, cl, s.flow.pitch, false⟩ }
      engine := { s.engine with pool := mapPut e.acc { a with state := .evaluating } s.engine.pool } }) ∧
  ∀ s : State, (s.evaluator.current ≠ none ∨ s.evaluator.queue = []) → s.takeEntry = s

/-- The addition of a tile's samples (R57, R68, R97, R98): what each field of an accumulator gains, and
that the accumulators of the open set, and no others, gain it. -/
def Obligations.SamplesAreAdded : Prop :=
  (∀ (cl : ClassRecord) (pl : Plane) (P : Nat) (e : ArmedJoint) (r c : Nat) (samples : List Int)
      (a : Accumulator),
    let b := addSamples cl pl P e r c 0 samples a
    let places : List (Int × Int × Int) := samples.zipIdx.map (fun h =>
      (((c + h.2 % 64 : Nat) : Int), ((4 * r + h.2 / 64 : Nat) : Int), h.1))
    let inside (g : Rect) (q : Int × Int × Int) : Bool :=
      decide (g.i0 ≤ q.1 ∧ q.1 ≤ g.i1 ∧ g.j0 ≤ q.2.1 ∧ q.2.1 ≤ g.j1)
    let height (q : Int × Int × Int) : Int := q.2.2 - (pl.z1 + roundDiv
      (pl.gx * (q.1 * P - pl.x1) + pl.gy * (q.2.1 * P - pl.y1)) 1048576)
    let pad := places.filter (inside e.pad)
    let collar := places.filter (fun q => inside e.outer q && !inside e.pad q)
    let gap := places.filter (fun q => e.gap.any (fun g => inside g q))
    let valid (l : List (Int × Int × Int)) := l.filter (fun q => decide (q.2.2 ≠ -32768))
    let high := (valid pad).filter (fun q => decide ((cl.tHi : Int) ≤ height q))
    let low := (valid collar).filter (fun q => decide (height q ≤ (cl.collarCeiling : Int)))
    b.state = a.state ∧ b.holder = a.holder ∧
    b.padTot = a.padTot + pad.length ∧ b.padVal = a.padVal + (valid pad).length ∧
    b.padSum = a.padSum + ((valid pad).map height).sum ∧
    b.padMax = ((valid pad).map height).foldl (fun m h => some (match m with
      | none => h
      | some k => max k h)) a.padMax ∧
    b.padHi = a.padHi + high.length ∧
    b.padSx = a.padSx + (high.map (fun q => q.1 - e.pad.i0)).sum ∧
    b.padSy = a.padSy + (high.map (fun q => q.2.1 - e.pad.j0)).sum ∧
    b.collarTot = a.collarTot + collar.length ∧ b.collarVal = a.collarVal + low.length ∧
    b.collarSum = a.collarSum + (low.map height).sum ∧
    b.gapTot = a.gapTot + gap.length ∧
    b.gapHi = a.gapHi + ((valid gap).filter (fun q =>
      decide ((cl.bridgeThreshold : Int) ≤ height q))).length) ∧
  ∀ (s : State) (j : Served) (r c : Nat) (samples : List Int),
    (s.engine.openSet.map OpenJoint.acc).Nodup →
    ∃ pool, s.additionStep j r c samples = { s with engine := { s.engine with pool := pool } } ∧
      (∀ (o : OpenJoint) (a : Accumulator) (cl : ClassRecord), o ∈ s.engine.openSet →
        mapGet o.acc s.engine.pool = some a →
        (s.slots.get (s.ctx j.ctx).slot).classes[o.entry.cls]? = some cl →
        mapGet o.acc pool = some (addSamples cl j.plane s.flow.pitch o.entry r c 0 samples a)) ∧
      ∀ n, (∀ o ∈ s.engine.openSet, o.acc ≠ n) → mapGet n pool = mapGet n s.engine.pool

/-- INTAKE_COMPLETE (R73, R74, R75, R78, R94): the steps of the operation, the progress mark and DONE, the
pool freed, the end of the scan, and the next grant in turn. The command holds all the steps (the model's
choice, assumption log 11), and with nothing in intake it changes nothing (assumption log 3). An item
granted while the engine is not SCANNING completes at once with no step taken: it leaves its list, its pool
is freed, its port is the one granted last, the path is free, the end of the scan is tested, and the search
goes on. An item found in intake when the engine is no longer SCANNING completes likewise. Of two contexts
SCANNING, which no run has, the end of the scan moves the lower-numbered (assumption log 30, the model's
choice). -/
def Obligations.ItemIsTakenIn : Prop :=
  let freed (u : State) : State := ({ u with
    ports := match u.arbiter.inIntake with
      | some (p, .tile k) => u.ports.set p { u.ports.get p with
          pools := (u.ports.get p).pools.set k ⟨.free, 0, 0, []⟩ }
      | _ => u.ports
    arbiter := { u.arbiter with inIntake := none } } : State).scanEndTest
  (∀ (s : State) (p : PortId) (item : IntakeItem) (r : ScanRecord) (job : Served),
    s.arbiter.inIntake = some (p, item) → s.engine.service = .scanning → s.engine.served = some job →
    (s.ports.get p).record = some r →
    let pools := (s.ports.get p).pools
    let place : Option (Nat × Nat) := match item with
      | .tile k => some ((pools.get k).rowBlock, (pools.get k).column)
      | .loss row col => some (row, col)
      | .endRecord => none
    let t : State := match item with
      | .tile k => (s.openingStep job.ctx (pools.get k).rowBlock).additionStep job
          (pools.get k).rowBlock (pools.get k).column (pools.get k).samples
      | .loss row _ => s.openingStep job.ctx row
      | .endRecord => s
    let mark : Int := match place with
      | some (row, col) => if col + 64 = r.rangeStop then max r.mark row else max r.mark ((row : Int) - 1)
      | none => r.last
    let x := t.ports.get p
    let y : Port := { x with record := some { r with mark := mark } }
    let z : Port :=
      if (x.scan = .receiving ∨ x.scan = .ending) ∧ mark = r.last then
        { y with scan := .done, tileTimer := none
                 intake := x.intake.filter (fun i => i ≠ .endRecord) }
      else y
    exec .intakeComplete s = .next (freed ({ t with ports := t.ports.set p z } : State).closingTest
      ).grant.pump) ∧
  (∀ (s : State) (q : PortId × IntakeItem), s.arbiter.inIntake = some q →
    (s.engine.service ≠ .scanning ∨ s.engine.served = none) →
    exec .intakeComplete s = .next (freed s).grant.pump) ∧
  (∀ s : State, s.arbiter.inIntake = none → exec .intakeComplete s = .next s) ∧
  (∀ s : State,
    let ended := ∀ p : PortId, p.val < s.flow.heads →
      (s.ports.get p).scan = .done ∨ (s.ports.get p).scan = .absent
    (∀ c, ended → (s.ctx c).state = .scanning → (∀ b, b < c → (s.ctx b).state ≠ .scanning) →
      let t := ({ s with flow := { s.flow with
        ctxs := s.flow.ctxs.set c { s.ctx c with state := .judging } } } : State).driveLines
      s.scanEndTest = if t.decision.records.get c = .complete then t.makeDecision c .normal t.now
        else t) ∧
    ((¬ ended ∨ ∀ c, (s.ctx c).state ≠ .scanning) → s.scanEndTest = s)) ∧
  ∀ s : State,
    ((s.arbiter.inIntake ≠ none ∨ ∀ p, (s.ports.get p).intake = []) → s.grant = s) ∧
    ∀ (p : PortId) (item : IntakeItem) (rest : List IntakeItem), s.arbiter.inIntake = none →
      (s.ports.get p).intake = item :: rest →
      (∀ (n : Nat) (q : PortId), 1 ≤ n → n ≤ 3 →
        q.val = (s.arbiter.lastGranted.val + n) % 4 →
        n < (p.val + 3 - s.arbiter.lastGranted.val) % 4 + 1 → (s.ports.get q).intake = []) →
      let pools := (s.ports.get p).pools
      (s.engine.service = .scanning → s.grant = { s with
        arbiter := ⟨p, some (p, item)⟩
        ports := s.ports.set p { s.ports.get p with
          intake := rest
          pools := match item with
            | .tile k => pools.set k { pools.get k with state := .inIntake }
            | _ => pools } }) ∧
      (s.engine.service ≠ .scanning → s.grant = (({ s with
        arbiter := ⟨p, none⟩
        ports := s.ports.set p { s.ports.get p with
          intake := rest
          pools := match item with
            | .tile k => pools.set k ⟨.free, 0, 0, []⟩
            | _ => pools } } : State).scanEndTest).grant)

/-! ### The head ports (R63 to R72, R76, R77) -/

/-- The frames of an unconfigured port, a TILE's header among them, HEAD_READY, the frames of unknown kind,
and the query and start timers (R63, R64, R66, R67). A frame taken on a configured port restarts the tile
timer of a port in RECEIVING (R77). A timer that does not run does not expire (the model's choice,
assumption log 3). The commands that a head's frame is, by its kind byte and its data bytes, the header of
a TILE by its offsets (R189, R190), and the bytes of each frame sent to a head (R189). -/
def Obligations.HeadAnswers : Prop :=
  let put (s : State) (p : PortId) (y : Port) : State := { s with ports := s.ports.set p y }
  let stale (y : Port) : Port :=
    { y with counters := { y.counters with stale := bump y.counters.stale 1 } }
  let bad (y : Port) : Port :=
    { y with counters := { y.counters with frameErrors := bump y.counters.frameErrors 1 } }
  (∀ (s : State) (p : PortId) (good : Bool) (b : List Byte), s.flow.heads ≤ p.val →
    let discarded := Host.Outcome.next (put s p (stale (s.ports.get p)))
    exec (.headReady p good b) s = discarded ∧ exec (.tileLost p good b) s = discarded ∧
    exec (.scanEnd p good b) s = discarded ∧ exec (.locateResult p good b) s = discarded ∧
    exec (.headUnknownFrame p) s = discarded ∧
    exec (.tile p good b) s = .next (put s p { stale (s.ports.get p) with header := none, course := none }) ∧
    ∀ (seq : Byte) (row col : U16), exec (.tileHeader p seq row col) s = .next (put s p
      { s.ports.get p with
        header := some ⟨seq.toNat, row.toNat, col.toNat⟩, course := some .stale })) ∧
  (∀ (s : State) (p : PortId) (f : StationConfig), s.flow.config = some f → p.val < f.heads →
    let x := s.ports.get p
    let heard : Port :=
      if x.scan = .receiving then { x with tileTimer := some (s.now + f.tileTimeout) } else x
    exec (.headUnknownFrame p) s = .next (put s p (bad heard)) ∧
    (∀ (good : Bool) (b : List Byte), (good = false ∨ b.length ≠ 2 ∨ 1 < (b.getD 0 0).toNat) →
      exec (.headReady p good b) s = .next (put s p (bad heard))) ∧
    (∀ q : Byte,
      (∀ d, x.queryTimer = some d →
        exec (.headReady p true [1, q]) s
          = .next (put s p { heard with queryTimer := none, link := .answering })) ∧
      (x.queryTimer = none → exec (.headReady p true [1, q]) s = .next (put s p (stale heard))) ∧
      (∀ r, x.scan = .starting → x.record = some r → r.seq = q.toNat →
        exec (.headReady p true [0, q]) s = .next (put s p { x with
          scan := .receiving
          startTimer := none
          tileTimer := some (s.now + f.tileTimeout)
          link := .answering
          queryTimer := none })) ∧
      ((x.scan ≠ .starting ∨ ∀ r, x.record = some r → r.seq ≠ q.toNat) →
        exec (.headReady p true [0, q]) s = .next (put s p (stale heard)))) ∧
    (∀ d, x.queryTimer = some d → exec (.queryTimerExpiry p) s
      = .next (put s p { x with queryTimer := none, link := .notAnswering })) ∧
    (x.queryTimer = none → exec (.queryTimerExpiry p) s = .next s) ∧
    (∀ r, x.scan = .starting → x.record = some r →
      let faulted : Port := { x with
        scan := .absent
        startTimer := none
        record := some { r with mark := r.last }
        counters := { x.counters with headFaults := bump x.counters.headFaults 1 }
        lane := x.lane ++ [.headQuery]
        queryTimer := some (s.now + f.locateTimeout) }
      exec (.startTimerExpiry p) s = .next (({ put s p faulted with
        link := s.link.raise (.headFault p .noStart r.seq none x.link) }).closingTest.scanEndTest).pump) ∧
    (x.scan ≠ .starting → exec (.startTimerExpiry p) s = .next s)) ∧
  (∀ (p : PortId) (kind : Byte) (good : Bool) (b : List Byte),
    let sent := headFrameCommands p kind good b
    (kind = 0x11 → sent = [.headReady p good b]) ∧
    (kind = 0x12 → b.length < 5 → sent = [.tile p good b]) ∧
    (∀ (seq r0 r1 c0 c1 : Byte) (samples : List Byte), kind = 0x12 →
      b = seq :: r0 :: r1 :: c0 :: c1 :: samples →
      sent = [.tileHeader p seq (r0 ++ r1) (c0 ++ c1), .tile p good samples]) ∧
    (kind = 0x13 → sent = [.tileLost p good b]) ∧ (kind = 0x14 → sent = [.scanEnd p good b]) ∧
    (kind = 0x15 → sent = [.locateResult p good b]) ∧
    (kind.toNat < 0x11 ∨ 0x15 < kind.toNat → sent = [.headUnknownFrame p])) ∧
  (∀ seq start stop first last : Nat, (HeadFrame.scanStart seq start stop first last).bytes
    = [0x01, byteOf seq] ++ be16 start ++ be16 stop ++ be16 first ++ be16 last) ∧
  HeadFrame.scanStop.bytes = [0x02] ∧
  (∀ (number : Byte) (mark : Bool) (mx my radius : Nat), (HeadFrame.locate number mark mx my radius).bytes
    = [0x03, number, if mark then 1 else 0] ++ be32 mx ++ be32 my ++ be16 radius) ∧
  HeadFrame.headQuery.bytes = [0x04]

/-- A TILE frame: the checks at its header's arrival and the settling at its end marker (R69, R70, R72).
Of two FREE pools the first is taken (the model's choice, assumption log 27); the counting of a frame cut
off and of one whose header did not arrive complete is as assumption log 21 says, and that the tile timer
restarts at the end marker and not at the header as assumption log 28 says. -/
def Obligations.TileIsSettled : Prop :=
  ∀ (s : State) (p : PortId) (f : StationConfig), s.flow.config = some f → p.val < f.heads →
    let x := s.ports.get p
    let put (y : Port) : State := { s with ports := s.ports.set p y }
    (∀ (seq : Byte) (row col : U16),
      let head : TileHeader := ⟨seq.toNat, row.toNat, col.toNat⟩
      let takes (c : Course) : Result :=
        .next (put { x with header := some head, course := some c })
      let arrive := exec (.tileHeader p seq row col) s
      (x.scan ≠ .receiving → arrive = takes .stale) ∧
      ∀ r, x.scan = .receiving → x.record = some r →
        let stray := row.toNat < r.first ∨ r.last < row.toNat ∨ col.toNat % 64 ≠ 0 ∨
          col.toNat < r.rangeStart ∨ r.rangeStop < col.toNat + 64
        let unordered := ∃ l, r.lastPos = some l ∧
          ¬ (l.1 < row.toNat ∨ l.1 = row.toNat ∧ l.2 < col.toNat)
        let accepted : ScanRecord := { r with lastPos := some (row.toNat, col.toNat) }
        (seq.toNat ≠ r.seq → arrive = takes .stale) ∧
        (seq.toNat = r.seq → stray → arrive = takes .stray) ∧
        (seq.toNat = r.seq → ¬ stray → unordered → arrive = takes .order) ∧
        (seq.toNat = r.seq → ¬ stray → ¬ unordered → (∀ k, (x.pools.get k).state ≠ .free) →
          arrive = .next (put { x with
            header := some head, course := some .overrun, record := some accepted })) ∧
        ∀ k, seq.toNat = r.seq → ¬ stray → ¬ unordered → (x.pools.get k).state = .free →
          (∀ j, j < k → (x.pools.get j).state ≠ .free) →
          arrive = .next (put { x with
            header := some head, course := some (.filling k), record := some accepted
            pools := x.pools.set k ⟨.filling, row.toNat, col.toNat, []⟩ })) ∧
    ∀ (good : Bool) (data : List Byte),
      let heard : Port :=
        if x.scan = .receiving then { x with tileTimer := some (s.now + f.tileTimeout) } else x
      let n := x.counters
      let settled (pools : Pair TilePool) (record : Option ScanRecord) (intake : List IntakeItem)
          (counters : PortCounters) : Prop :=
        exec (.tile p good data) s = .next ((put { heard with
          header := none, course := none, pools := pools, record := record, intake := intake
          counters := counters }).grant).pump
      let whole := good = true ∧ data.length = 512
      let frameErrors := bump n.frameErrors 1
      (x.course = none → settled x.pools x.record x.intake
        { n with lostTiles := bump n.lostTiles 1, frameErrors := frameErrors }) ∧
      (x.course = some .cutOff → settled x.pools x.record x.intake
        { n with stale := bump n.stale 1 }) ∧
      (x.course = some .stale → settled x.pools x.record x.intake
        { n with stale := bump n.stale 1
                 frameErrors := if whole then n.frameErrors else frameErrors }) ∧
      ∀ (r : ScanRecord) (hd : TileHeader), x.record = some r → x.header = some hd →
        let received : ScanRecord := { r with received := bump r.received 1 }
        let lost : List IntakeItem := match x.intake.getLast? with
          | some (.loss _ _) => x.intake.dropLast ++ [.loss hd.rowBlock hd.column]
          | _ => x.intake ++ [.loss hd.rowBlock hd.column]
        (x.course = some .stray → settled x.pools (some (if whole then received else r)) x.intake
          { n with stray := bump n.stray 1
                   frameErrors := if whole then n.frameErrors else frameErrors }) ∧
        (x.course = some .order → settled x.pools (some (if whole then received else r)) x.intake
          { n with order := bump n.order 1
                   frameErrors := if whole then n.frameErrors else frameErrors }) ∧
        (x.course = some .overrun → settled x.pools (some received) lost
          { n with lostTiles := bump n.lostTiles 1, overruns := bump n.overruns 1
                   frameErrors := if whole then n.frameErrors else frameErrors }) ∧
        ∀ k, x.course = some (.filling k) →
          (¬ whole → settled (x.pools.set k ⟨.free, 0, 0, []⟩) (some received) lost
            { n with lostTiles := bump n.lostTiles 1, frameErrors := frameErrors }) ∧
          (whole → settled (x.pools.set k { x.pools.get k with
              state := .waiting
              samples := (List.range 256).map (fun i => i16 data (2 * i)) })
            (some received) (x.intake ++ [.tile k]) { n with tiles := bump n.tiles 1 })

/-- TILE_LOST, SCAN_END and the silence of a head (R71, R72, R76, R77). Outside RECEIVING no tile timer
runs (the model's choice, assumption log 3), and an overrun frame still arriving at the silence is cut off
too (assumption log 21). A SCAN_END taken in DONE after the head was declared silent is stale, as R77 says
and R76's paragraph on DONE does not (assumption log 35). -/
def Obligations.ScanReports : Prop :=
  ∀ (s : State) (p : PortId) (f : StationConfig), s.flow.config = some f → p.val < f.heads →
    let x := s.ports.get p
    let n := x.counters
    let put (y : Port) : State := { s with ports := s.ports.set p y }
    let heard : Port :=
      if x.scan = .receiving then { x with tileTimer := some (s.now + f.tileTimeout) } else x
    let counted (y : PortCounters) : State := put { heard with counters := y }
    let stale : State := counted { n with stale := bump n.stale 1 }
    (∀ (good : Bool) (b : List Byte), (good = false ∨ b.length ≠ 4) →
      exec (.tileLost p good b) s = .next (counted { n with frameErrors := bump n.frameErrors 1 }) ∧
      exec (.scanEnd p good b) s = .next (counted { n with frameErrors := bump n.frameErrors 1 })) ∧
    (∀ b : List Byte, b.length = 4 → x.scan ≠ .receiving →
      exec (.tileLost p true b) s = .next stale.grant.pump) ∧
    (∀ (b : List Byte) (r : ScanRecord), b.length = 4 → x.scan = .receiving → x.record = some r →
      let row := u16 b 0
      let col := u16 b 2
      let stray := row < r.first ∨ r.last < row ∨ col % 64 ≠ 0 ∨ col < r.rangeStart ∨
        r.rangeStop < col + 64
      let unordered := ∃ l, r.lastPos = some l ∧ ¬ (l.1 < row ∨ l.1 = row ∧ l.2 < col)
      let lost : List IntakeItem := match x.intake.getLast? with
        | some (.loss _ _) => x.intake.dropLast ++ [.loss row col]
        | _ => x.intake ++ [.loss row col]
      (stray → exec (.tileLost p true b) s
        = .next (counted { n with stray := bump n.stray 1 }).grant.pump) ∧
      (¬ stray → unordered → exec (.tileLost p true b) s
        = .next (counted { n with order := bump n.order 1 }).grant.pump) ∧
      (¬ stray → ¬ unordered → exec (.tileLost p true b) s = .next (put { heard with
        counters := { n with lostTiles := bump n.lostTiles 1 }
        record := some { r with lastPos := some (row, col) }
        intake := lost }).grant.pump)) ∧
    (∀ (b : List Byte) (r : ScanRecord), b.length = 4 → x.record = some r →
      let missing : PortCounters :=
        { n with missing := bump n.missing ((u32 b 0 : Int) - r.received).natAbs }
      (x.scan = .receiving → exec (.scanEnd p true b) s = .next (put { x with
        scan := .ending
        tileTimer := none
        record := some { r with endTaken := true }
        intake := x.intake ++ [.endRecord]
        counters := missing }).grant.pump) ∧
      (x.scan = .done → r.endTaken = false → r.silent = false → exec (.scanEnd p true b) s = .next (put { x with
        record := some { r with endTaken := true }
        counters := missing }).grant.pump) ∧
      (x.scan = .done → (r.endTaken = true ∨ r.silent = true) →
        exec (.scanEnd p true b) s = .next stale.grant.pump)) ∧
    (∀ b : List Byte, b.length = 4 → x.scan ≠ .receiving → x.scan ≠ .done →
      exec (.scanEnd p true b) s = .next stale.grant.pump) ∧
    (∀ r, x.scan = .receiving → x.record = some r →
      let silent : Port := { x with
        scan := .ending
        tileTimer := none
        pools := match x.course with
          | some (.filling k) => x.pools.set k ⟨.free, 0, 0, []⟩
          | _ => x.pools
        course := match x.course with
          | some (.filling _) => some .cutOff
          | some .overrun => some .cutOff
          | c => c
        record := some { r with silent := true }
        intake := x.intake ++ [.endRecord]
        counters := { n with headFaults := bump n.headFaults 1 }
        lane := x.lane ++ [.headQuery]
        queryTimer := some (s.now + f.locateTimeout) }
      exec (.tileTimerExpiry p) s = .next (({ put silent with
        link := s.link.raise (.headFault p .silent r.seq (some r.mark) x.link) }).grant).pump) ∧
    (x.scan ≠ .receiving → exec (.tileTimerExpiry p) s = .next s)

/-! ### Joint evaluation (R107 to R120) -/

/-- The arithmetic of an evaluation (R113 to R120): the coverage test, the reference test, the volume,
the peak, the centroid offset, the flags and the verdict. -/
def Obligations.JointIsJudged : Prop :=
  ∀ (e : EvalEntry) (cl : ClassRecord) (P : Nat) (a : Accumulator),
    let r := evaluate e cl P a
    let coverage := 100 * a.padVal / e.nExpPad
    let z := roundDiv a.collarSum a.collarVal
    let covered := cl.coverageMin * e.nExpPad ≤ a.padVal * 100
    (¬ covered → r = ⟨.unmeasured, some .lowCoverage, FlagSet.none, none, none, none, coverage⟩) ∧
    (covered → a.collarVal < cl.collarMin →
      r = ⟨.unmeasured, some .noReference, FlagSet.none, none, none, none, coverage⟩) ∧
    (covered → 10 ≤ cl.coverageMin → 4 ≤ e.nExpPad → 1 ≤ a.padVal) ∧
    ∀ m, covered → cl.collarMin ≤ a.collarVal → a.padMax = some m →
      let volume := max 0 (roundDiv ((a.padSum - a.padVal * z) * e.nExpPad) a.padVal)
      let pct := min 999 (roundDiv (100 * volume) cl.vNom)
      let peak := max (-32768) (min 32767 (m - z))
      let cx2 := roundDiv (2 * a.padSx) a.padHi - e.width
      let cy2 := roundDiv (2 * a.padSy) a.padHi - e.height
      let offset : Nat := max cx2.natAbs cy2.natAbs * P / 2
      let shifted := a.padHi ≠ 0 ∧ cl.shiftMax < offset
      let bridged := e.hasGap = true ∧ cl.bridgeMin ≤ a.gapHi
      r.coverage = coverage ∧ r.cause = none ∧
      (∃ v : Nat, r.volPct = some v ∧ (v : Int) = pct) ∧ r.peak = some peak ∧
      r.offset = (if a.padHi = 0 then none else some offset) ∧
      r.flags = ⟨decide (pct < cl.volLow), decide ((cl.volHigh : Int) < pct),
        decide (peak < cl.peakMin), decide shifted, decide bridged⟩ ∧
      r.verdict = if bridged then .bridge else if peak < cl.peakMin then .openJoint
        else if pct < cl.volLow then .low else if (cl.volHigh : Int) < pct then .high
        else if shifted then .shift else .pass

/-- EVALUATION_COMPLETE (R107, R108, R111, R112, R120): a kept result is written, its accumulator freed,
the counts and bits updated, the drift value fed, the defect record handed on and the last write reported,
in that order; a discarded one frees its accumulator alone; the evaluator then takes its next entry. The
report of the last write (R110, R125, R126): with no entry UNSET and the record WAITING, a context in
JUDGING is decided normally and that of any other becomes COMPLETE. An idle evaluator completes nothing
(the model's choice, assumption log 3). -/
def Obligations.EvaluationCompletes : Prop :=
  (∀ s : State, s.evaluator.current = none → exec .evaluationComplete s = .next s) ∧
  (∀ (s : State) (v : Evaluation), s.evaluator.current = some v → v.discard = true →
    exec .evaluationComplete s = .next (({ s with
      engine := { s.engine with pool := mapDel v.entry.acc s.engine.pool }
      evaluator := { s.evaluator with
        current := none
        discarded := bump s.evaluator.discarded 1 } } : State).takeEntry).pump) ∧
  (∀ (s : State) (v : Evaluation) (a : Accumulator) (t : Site), s.evaluator.current = some v →
    v.discard = false → mapGet v.entry.acc s.engine.pool = some a →
    (s.ctx v.entry.ctx).verdicts[v.entry.joint]? = some VerdictEntry.unset →
    (s.slots.get (s.ctx v.entry.ctx).slot).sites[v.entry.site]? = some t →
    let e := v.entry
    let x := s.ctx e.ctx
    let k := x.slot
    let r := evaluate e v.cls v.pitch a
    let defect := r.verdict ≠ .unmeasured ∧ r.verdict ≠ .pass
    let part := e.placement * 4096 + t.component
    let y : Context := { x with
      verdicts := x.verdicts.set e.joint ⟨r.verdict, r.cause, r.flags⟩
      unset := x.unset - 1
      counts := { x.counts with
        pass := x.counts.pass + (if r.verdict = .pass then 1 else 0)
        bridge := x.counts.bridge + (if r.verdict = .bridge then 1 else 0)
        openJoint := x.counts.openJoint + (if r.verdict = .openJoint then 1 else 0)
        low := x.counts.low + (if r.verdict = .low then 1 else 0)
        high := x.counts.high + (if r.verdict = .high then 1 else 0)
        shift := x.counts.shift + (if r.verdict = .shift then 1 else 0)
        unmeasured := x.counts.unmeasured + (if r.verdict = .unmeasured then 1 else 0) }
      failBits := if defect then setInsert e.site x.failBits else x.failBits
      componentBits := if defect then setInsert part x.componentBits else x.componentBits
      defective := if defect ∧ part ∉ x.componentBits then x.defective + 1 else x.defective
      passBits := if r.verdict = .pass then setInsert e.site x.passBits else x.passBits }
    let written : State := { s with
      flow := { s.flow with ctxs := s.flow.ctxs.set e.ctx y }
      engine := { s.engine with pool := mapDel e.acc s.engine.pool }
      evaluator := { s.evaluator with current := none } }
    let fed : State := match r.volPct, (s.slots.get k).classes[e.cls]? with
      | some n, some cl =>
        let before := s.monitor.driftOf k e.cls
        let after := driftFed before cl.driftLow cl.driftHigh n
        let kept : State := { written with monitor := { s.monitor with
          drift := mapPut (k.val * 64 + e.cls) after s.monitor.drift } }
        if after.band = bandOf before then kept
        else
          let told : NoticeData := .drift k e.cls (bandOf before) after.band (some after.e)
          { kept with link := s.link.raise told }
      | _, _ => written
    let logged : State :=
      if r.verdict = .pass then fed
      else fed.logRecord e.ctx (.defect ⟨x.seq, e.placement, e.site, r.verdict, r.cause, r.flags,
        if defect then r.volPct else none, if defect then r.peak else none,
        if defect then r.offset else none, some r.coverage⟩)
    let told := logged.reportComplete e.ctx
    exec .evaluationComplete s = .next (({ told with evaluator := { told.evaluator with
      evaluations := bump told.evaluator.evaluations 1 } } : State).takeEntry).pump) ∧
  (∀ (s : State) (c : CtxId),
    let last := (s.ctx c).unset = 0 ∧ s.decision.records.get c = .waiting
    (last → (s.ctx c).state = .judging → s.reportComplete c = s.makeDecision c .normal s.now) ∧
    (last → (s.ctx c).state ≠ .judging → s.reportComplete c = { s with decision := { s.decision with
      records := s.decision.records.set c .complete } }) ∧
    (¬ last → s.reportComplete c = s)) ∧
  ∀ (m n : Nat) (l : List Nat), n ∈ setInsert m l ↔ n = m ∨ n ∈ l

/-! ### Process monitoring (R139, R140, R144, R145, R148, R149) -/

/-- The drift arithmetic and its band states (R139, R140), the taking of a repeat request (R144), the
working of one site (R145), and the oven sampler and recognizer (R148, R149). An OVEN_SAMPLE is also the
millisecond of the clock and OVEN_RECOGNITION the samples its run still wants (the model's choices,
assumption log 1, 5 and 10), and a REPEAT_SITE_UPDATE with no request running changes nothing (assumption
log 3). -/
def Obligations.ProcessIsMonitored : Prop :=
  (∀ (before : Option DriftValue) (low high x : Nat),
    let b := driftFed before low high x
    let lo : Int := 256 * low
    let hi : Int := 256 * high
    (before = none → b.e = 256 * x) ∧
    (∀ d, before = some d → b.e = d.e + floorDiv (256 * x - d.e) 16) ∧
    (bandOf before = .inside → b.band = if hi < b.e then .above else if b.e < lo then .below
      else .inside) ∧
    (bandOf before = .above → b.band = if 256 * ((high : Int) - 2) < b.e then .above
      else if b.e < lo then .below else .inside) ∧
    (bandOf before = .below → b.band = if b.e < 256 * ((low : Int) + 2) then .below
      else if hi < b.e then .above else .inside)) ∧
  (∀ (m : Monitor) (r : RepeatRequest),
    (m.work = none → m.request r = { m with work := some ⟨r, 0⟩ }) ∧
    (m.work ≠ none → m.requests.length < 4 → m.request r = { m with requests := m.requests ++ [r] }) ∧
    (m.work ≠ none → 4 ≤ m.requests.length →
      m.request r = { m with requestsLost := bump m.requestsLost 1 })) ∧
  (∀ (s : State) (w : RepeatWork), s.monitor.work = some w → w.next < 8192 →
    let q := w.request
    let before := s.monitor.repeatOf q.slot w.next
    let after := if w.next ∈ q.failBits then min (before + 1) 255
      else if w.next ∈ q.passBits then 0 else before
    ∃ reps,
      (∀ (j : SlotId) (i : Nat), i < 8192 → ({ s.monitor with repeats := reps } : Monitor).repeatOf j i
        = if j = q.slot ∧ i = w.next then after else s.monitor.repeatOf j i) ∧
      exec .repeatSiteUpdate s = .next ({ s with
        link := if q.limit ≠ 0 ∧ before + 1 = q.limit ∧ after = q.limit
          then s.link.raise (.repeatSite q.slot w.next after q.seq) else s.link
        monitor := { s.monitor with
          repeats := reps
          work := if w.next + 1 < q.sites then some ⟨q, w.next + 1⟩
            else s.monitor.requests.head?.map (fun r => ⟨r, 0⟩)
          requests := if w.next + 1 < q.sites then s.monitor.requests else s.monitor.requests.tail
          updates := if w.next + 1 < q.sites then s.monitor.updates
            else bump s.monitor.updates 1 } }).pump) ∧
  (∀ s : State, s.link.Settled → s.monitor.work = none → exec .repeatSiteUpdate s = .next s) ∧
  (∀ (s : State) (code : BitVec 4) (ready : Bool),
    let run := if 0 < s.monitor.runLength ∧ s.monitor.candidate = some code
      then min (s.monitor.runLength + 1) 4 else 1
    let sampled : State := { s with
      now := s.now + 1
      pins := { s.pins with oven := code, downstreamReady := s.pins.downstreamReady && ready }
      monitor := { s.monitor with candidate := some code, runLength := run } }
    ((run ≠ 4 ∨ code = s.monitor.recognized) →
      exec (.ovenSample code ready) s = .next sampled.pump) ∧
    (run = 4 → code ≠ s.monitor.recognized → ∀ (dev : Bool) (hold : Nat),
      (dev = true ↔ ∃ f, s.flow.config = some f ∧ f.deviating.getLsbD code.toNat = true) →
      (dev = false → hold = s.monitor.hold) →
      (∀ f, dev = true → s.flow.config = some f → hold = f.ovenHold) →
      exec (.ovenSample code ready) s = .next ({ sampled with
        monitor := { sampled.monitor with
          recognized := code
          hold := hold
          recognitions := bump s.monitor.recognitions 1
          changes := match s.monitor.changes with
            | first :: _ :: _ => [first, (code, s.now + 1)]
            | l => l ++ [(code, s.now + 1)]
          overwrites := match s.monitor.changes with
            | _ :: _ :: _ => min (s.monitor.overwrites + 1) 65535
            | _ => s.monitor.overwrites }
        link := s.link.raise (.ovenCode code s.monitor.recognized (s.now + 1) dev hold) }).pump)) ∧
  ∀ (s : State) (code : BitVec 4), s.link.Settled →
    let n := if s.monitor.candidate = some code then 4 - s.monitor.runLength else 4
    exec (.ovenRecognition code) s
      = stepMany n { s with pending := List.replicate n (.ovenSample code true) ++ s.pending } ∧
    ((s.monitor.candidate = some code → s.monitor.runLength < 4) →
      ∃ t, exec (.ovenRecognition code) s = .next t ∧ t.monitor.recognized = code)

/-- The verdict tables, the defect log, the process monitor and the accumulator pool are kept sound by
every step: the UNSET count and the eight verdict counts of a context are what its table holds (R111),
and the log's segments, the monitor's lists and the pool keep their form and capacities (R83, R143, R149,
R156). -/
def Obligations.BlocksStaySound : Prop :=
  ∀ s t : State, (∀ c, (s.ctx c).Tallied) → s.BuffersOk → step s = .next t →
    (∀ c, (t.ctx c).Tallied) ∧ t.BuffersOk
end

