-- ==== Sys2Proof/Laws/State.lean ====
section
/-! SUPPORT. Laws/State.lean: what each update of the state does to each field, one lemma per field and
update, all true by rfl; and the containers' read-after-write laws. -/

namespace Sys2Proof

@[simp] theorem Quad.get_set_self {α : Type} (q : Quad α) (i : Fin 4) (a : α) : (q.set i a).get i = a := by
  match i with
  | 0 => rfl
  | 1 => rfl
  | 2 => rfl
  | 3 => rfl

theorem Quad.get_set_ne {α : Type} (q : Quad α) (i j : Fin 4) (a : α) (h : j ≠ i) : (q.set i a).get j = q.get j := by
  match i, j, h with
  | 0, 0, h => exact absurd rfl h
  | 0, 1, h => rfl
  | 0, 2, h => rfl
  | 0, 3, h => rfl
  | 1, 0, h => rfl
  | 1, 1, h => exact absurd rfl h
  | 1, 2, h => rfl
  | 1, 3, h => rfl
  | 2, 0, h => rfl
  | 2, 1, h => rfl
  | 2, 2, h => exact absurd rfl h
  | 2, 3, h => rfl
  | 3, 0, h => rfl
  | 3, 1, h => rfl
  | 3, 2, h => rfl
  | 3, 3, h => exact absurd rfl h

theorem Quad.get_set {α : Type} (q : Quad α) (i j : Fin 4) (a : α) :
    (q.set i a).get j = if j = i then a else q.get j := by
  by_cases h : j = i
  · subst h; simp
  · rw [if_neg h, Quad.get_set_ne q i j a h]

theorem Quad.ext_get {α : Type} (p q : Quad α) (h : ∀ i, p.get i = q.get i) : p = q := by
  have hs : p.get 0 = q.get 0 ∧ p.get 1 = q.get 1 ∧ p.get 2 = q.get 2 ∧ p.get 3 = q.get 3 := ⟨h 0, h 1, h 2, h 3⟩
  cases p; cases q; simpa [Quad.get] using hs

@[simp] theorem Pair.get_set_self {α : Type} (q : Pair α) (i : Fin 2) (a : α) : (q.set i a).get i = a := by
  match i with
  | 0 => rfl
  | 1 => rfl

theorem Pair.get_set_ne {α : Type} (q : Pair α) (i j : Fin 2) (a : α) (h : j ≠ i) : (q.set i a).get j = q.get j := by
  match i, j, h with
  | 0, 0, h => exact absurd rfl h
  | 0, 1, h => rfl
  | 1, 0, h => rfl
  | 1, 1, h => exact absurd rfl h

theorem Pair.get_set {α : Type} (q : Pair α) (i j : Fin 2) (a : α) :
    (q.set i a).get j = if j = i then a else q.get j := by
  by_cases h : j = i
  · subst h; simp
  · rw [if_neg h, Pair.get_set_ne q i j a h]

theorem Pair.ext_get {α : Type} (p q : Pair α) (h : ∀ i, p.get i = q.get i) : p = q := by
  have hs : p.get 0 = q.get 0 ∧ p.get 1 = q.get 1 := ⟨h 0, h 1⟩
  cases p; cases q; simpa [Pair.get] using hs

@[simp] theorem Triple.get_set_self {α : Type} (q : Triple α) (i : Fin 3) (a : α) : (q.set i a).get i = a := by
  match i with
  | 0 => rfl
  | 1 => rfl
  | 2 => rfl

theorem Triple.get_set_ne {α : Type} (q : Triple α) (i j : Fin 3) (a : α) (h : j ≠ i) : (q.set i a).get j = q.get j := by
  match i, j, h with
  | 0, 0, h => exact absurd rfl h
  | 0, 1, h => rfl
  | 0, 2, h => rfl
  | 1, 0, h => rfl
  | 1, 1, h => exact absurd rfl h
  | 1, 2, h => rfl
  | 2, 0, h => rfl
  | 2, 1, h => rfl
  | 2, 2, h => exact absurd rfl h

theorem Triple.get_set {α : Type} (q : Triple α) (i j : Fin 3) (a : α) :
    (q.set i a).get j = if j = i then a else q.get j := by
  by_cases h : j = i
  · subst h; simp
  · rw [if_neg h, Triple.get_set_ne q i j a h]

theorem Triple.ext_get {α : Type} (p q : Triple α) (h : ∀ i, p.get i = q.get i) : p = q := by
  have hs : p.get 0 = q.get 0 ∧ p.get 1 = q.get 1 ∧ p.get 2 = q.get 2 := ⟨h 0, h 1, h 2⟩
  cases p; cases q; simpa [Triple.get] using hs

@[simp] theorem Quad.get_mapIdx {α β : Type} (f : Fin 4 → α → β) (q : Quad α) (i : Fin 4) :
    (q.mapIdx f).get i = f i (q.get i) := by
  match i with
  | 0 => rfl
  | 1 => rfl
  | 2 => rfl
  | 3 => rfl

@[simp] theorem Quad.get_all {α : Type} (a : α) (i : Fin 4) : (Quad.all a).get i = a := by
  match i with
  | 0 => rfl
  | 1 => rfl
  | 2 => rfl
  | 3 => rfl

@[simp] theorem Pair.get_all {α : Type} (a : α) (i : Fin 2) : (Pair.all a).get i = a := by
  match i with
  | 0 => rfl
  | 1 => rfl

@[simp] theorem Pair.get_map {α β : Type} (f : α → β) (q : Pair α) (i : Fin 2) :
    (q.map f).get i = f (q.get i) := by
  match i with
  | 0 => rfl
  | 1 => rfl

end Sys2Proof

namespace Sys2Proof.Machine

/-! ### State.modFlow -/

@[simp] theorem State.modFlow_now (s : State) (g : Flow → Flow) : (s.modFlow g).now = s.now := rfl
@[simp] theorem State.modFlow_pins (s : State) (g : Flow → Flow) : (s.modFlow g).pins = s.pins := rfl
@[simp] theorem State.modFlow_flow (s : State) (g : Flow → Flow) : (s.modFlow g).flow = g s.flow := rfl
@[simp] theorem State.modFlow_slots (s : State) (g : Flow → Flow) : (s.modFlow g).slots = s.slots := rfl
@[simp] theorem State.modFlow_align (s : State) (g : Flow → Flow) : (s.modFlow g).align = s.align := rfl
@[simp] theorem State.modFlow_ports (s : State) (g : Flow → Flow) : (s.modFlow g).ports = s.ports := rfl
@[simp] theorem State.modFlow_arbiter (s : State) (g : Flow → Flow) : (s.modFlow g).arbiter = s.arbiter := rfl
@[simp] theorem State.modFlow_engine (s : State) (g : Flow → Flow) : (s.modFlow g).engine = s.engine := rfl
@[simp] theorem State.modFlow_evaluator (s : State) (g : Flow → Flow) : (s.modFlow g).evaluator = s.evaluator := rfl
@[simp] theorem State.modFlow_decision (s : State) (g : Flow → Flow) : (s.modFlow g).decision = s.decision := rfl
@[simp] theorem State.modFlow_monitor (s : State) (g : Flow → Flow) : (s.modFlow g).monitor = s.monitor := rfl
@[simp] theorem State.modFlow_log (s : State) (g : Flow → Flow) : (s.modFlow g).log = s.log := rfl
@[simp] theorem State.modFlow_link (s : State) (g : Flow → Flow) : (s.modFlow g).link = s.link := rfl
@[simp] theorem State.modFlow_pending (s : State) (g : Flow → Flow) : (s.modFlow g).pending = s.pending := rfl

/-! ### State.modPins -/

@[simp] theorem State.modPins_now (s : State) (g : Pins → Pins) : (s.modPins g).now = s.now := rfl
@[simp] theorem State.modPins_pins (s : State) (g : Pins → Pins) : (s.modPins g).pins = g s.pins := rfl
@[simp] theorem State.modPins_flow (s : State) (g : Pins → Pins) : (s.modPins g).flow = s.flow := rfl
@[simp] theorem State.modPins_slots (s : State) (g : Pins → Pins) : (s.modPins g).slots = s.slots := rfl
@[simp] theorem State.modPins_align (s : State) (g : Pins → Pins) : (s.modPins g).align = s.align := rfl
@[simp] theorem State.modPins_ports (s : State) (g : Pins → Pins) : (s.modPins g).ports = s.ports := rfl
@[simp] theorem State.modPins_arbiter (s : State) (g : Pins → Pins) : (s.modPins g).arbiter = s.arbiter := rfl
@[simp] theorem State.modPins_engine (s : State) (g : Pins → Pins) : (s.modPins g).engine = s.engine := rfl
@[simp] theorem State.modPins_evaluator (s : State) (g : Pins → Pins) : (s.modPins g).evaluator = s.evaluator := rfl
@[simp] theorem State.modPins_decision (s : State) (g : Pins → Pins) : (s.modPins g).decision = s.decision := rfl
@[simp] theorem State.modPins_monitor (s : State) (g : Pins → Pins) : (s.modPins g).monitor = s.monitor := rfl
@[simp] theorem State.modPins_log (s : State) (g : Pins → Pins) : (s.modPins g).log = s.log := rfl
@[simp] theorem State.modPins_link (s : State) (g : Pins → Pins) : (s.modPins g).link = s.link := rfl
@[simp] theorem State.modPins_pending (s : State) (g : Pins → Pins) : (s.modPins g).pending = s.pending := rfl

/-! ### State.modSlots -/

@[simp] theorem State.modSlots_now (s : State) (g : Quad Slot → Quad Slot) : (s.modSlots g).now = s.now := rfl
@[simp] theorem State.modSlots_pins (s : State) (g : Quad Slot → Quad Slot) : (s.modSlots g).pins = s.pins := rfl
@[simp] theorem State.modSlots_flow (s : State) (g : Quad Slot → Quad Slot) : (s.modSlots g).flow = s.flow := rfl
@[simp] theorem State.modSlots_slots (s : State) (g : Quad Slot → Quad Slot) : (s.modSlots g).slots = g s.slots := rfl
@[simp] theorem State.modSlots_align (s : State) (g : Quad Slot → Quad Slot) : (s.modSlots g).align = s.align := rfl
@[simp] theorem State.modSlots_ports (s : State) (g : Quad Slot → Quad Slot) : (s.modSlots g).ports = s.ports := rfl
@[simp] theorem State.modSlots_arbiter (s : State) (g : Quad Slot → Quad Slot) : (s.modSlots g).arbiter = s.arbiter := rfl
@[simp] theorem State.modSlots_engine (s : State) (g : Quad Slot → Quad Slot) : (s.modSlots g).engine = s.engine := rfl
@[simp] theorem State.modSlots_evaluator (s : State) (g : Quad Slot → Quad Slot) : (s.modSlots g).evaluator = s.evaluator := rfl
@[simp] theorem State.modSlots_decision (s : State) (g : Quad Slot → Quad Slot) : (s.modSlots g).decision = s.decision := rfl
@[simp] theorem State.modSlots_monitor (s : State) (g : Quad Slot → Quad Slot) : (s.modSlots g).monitor = s.monitor := rfl
@[simp] theorem State.modSlots_log (s : State) (g : Quad Slot → Quad Slot) : (s.modSlots g).log = s.log := rfl
@[simp] theorem State.modSlots_link (s : State) (g : Quad Slot → Quad Slot) : (s.modSlots g).link = s.link := rfl
@[simp] theorem State.modSlots_pending (s : State) (g : Quad Slot → Quad Slot) : (s.modSlots g).pending = s.pending := rfl

/-! ### State.modAlign -/

@[simp] theorem State.modAlign_now (s : State) (g : Align → Align) : (s.modAlign g).now = s.now := rfl
@[simp] theorem State.modAlign_pins (s : State) (g : Align → Align) : (s.modAlign g).pins = s.pins := rfl
@[simp] theorem State.modAlign_flow (s : State) (g : Align → Align) : (s.modAlign g).flow = s.flow := rfl
@[simp] theorem State.modAlign_slots (s : State) (g : Align → Align) : (s.modAlign g).slots = s.slots := rfl
@[simp] theorem State.modAlign_align (s : State) (g : Align → Align) : (s.modAlign g).align = g s.align := rfl
@[simp] theorem State.modAlign_ports (s : State) (g : Align → Align) : (s.modAlign g).ports = s.ports := rfl
@[simp] theorem State.modAlign_arbiter (s : State) (g : Align → Align) : (s.modAlign g).arbiter = s.arbiter := rfl
@[simp] theorem State.modAlign_engine (s : State) (g : Align → Align) : (s.modAlign g).engine = s.engine := rfl
@[simp] theorem State.modAlign_evaluator (s : State) (g : Align → Align) : (s.modAlign g).evaluator = s.evaluator := rfl
@[simp] theorem State.modAlign_decision (s : State) (g : Align → Align) : (s.modAlign g).decision = s.decision := rfl
@[simp] theorem State.modAlign_monitor (s : State) (g : Align → Align) : (s.modAlign g).monitor = s.monitor := rfl
@[simp] theorem State.modAlign_log (s : State) (g : Align → Align) : (s.modAlign g).log = s.log := rfl
@[simp] theorem State.modAlign_link (s : State) (g : Align → Align) : (s.modAlign g).link = s.link := rfl
@[simp] theorem State.modAlign_pending (s : State) (g : Align → Align) : (s.modAlign g).pending = s.pending := rfl

/-! ### State.modPorts -/

@[simp] theorem State.modPorts_now (s : State) (g : Quad Port → Quad Port) : (s.modPorts g).now = s.now := rfl
@[simp] theorem State.modPorts_pins (s : State) (g : Quad Port → Quad Port) : (s.modPorts g).pins = s.pins := rfl
@[simp] theorem State.modPorts_flow (s : State) (g : Quad Port → Quad Port) : (s.modPorts g).flow = s.flow := rfl
@[simp] theorem State.modPorts_slots (s : State) (g : Quad Port → Quad Port) : (s.modPorts g).slots = s.slots := rfl
@[simp] theorem State.modPorts_align (s : State) (g : Quad Port → Quad Port) : (s.modPorts g).align = s.align := rfl
@[simp] theorem State.modPorts_ports (s : State) (g : Quad Port → Quad Port) : (s.modPorts g).ports = g s.ports := rfl
@[simp] theorem State.modPorts_arbiter (s : State) (g : Quad Port → Quad Port) : (s.modPorts g).arbiter = s.arbiter := rfl
@[simp] theorem State.modPorts_engine (s : State) (g : Quad Port → Quad Port) : (s.modPorts g).engine = s.engine := rfl
@[simp] theorem State.modPorts_evaluator (s : State) (g : Quad Port → Quad Port) : (s.modPorts g).evaluator = s.evaluator := rfl
@[simp] theorem State.modPorts_decision (s : State) (g : Quad Port → Quad Port) : (s.modPorts g).decision = s.decision := rfl
@[simp] theorem State.modPorts_monitor (s : State) (g : Quad Port → Quad Port) : (s.modPorts g).monitor = s.monitor := rfl
@[simp] theorem State.modPorts_log (s : State) (g : Quad Port → Quad Port) : (s.modPorts g).log = s.log := rfl
@[simp] theorem State.modPorts_link (s : State) (g : Quad Port → Quad Port) : (s.modPorts g).link = s.link := rfl
@[simp] theorem State.modPorts_pending (s : State) (g : Quad Port → Quad Port) : (s.modPorts g).pending = s.pending := rfl

/-! ### State.modArbiter -/

@[simp] theorem State.modArbiter_now (s : State) (g : Arbiter → Arbiter) : (s.modArbiter g).now = s.now := rfl
@[simp] theorem State.modArbiter_pins (s : State) (g : Arbiter → Arbiter) : (s.modArbiter g).pins = s.pins := rfl
@[simp] theorem State.modArbiter_flow (s : State) (g : Arbiter → Arbiter) : (s.modArbiter g).flow = s.flow := rfl
@[simp] theorem State.modArbiter_slots (s : State) (g : Arbiter → Arbiter) : (s.modArbiter g).slots = s.slots := rfl
@[simp] theorem State.modArbiter_align (s : State) (g : Arbiter → Arbiter) : (s.modArbiter g).align = s.align := rfl
@[simp] theorem State.modArbiter_ports (s : State) (g : Arbiter → Arbiter) : (s.modArbiter g).ports = s.ports := rfl
@[simp] theorem State.modArbiter_arbiter (s : State) (g : Arbiter → Arbiter) : (s.modArbiter g).arbiter = g s.arbiter := rfl
@[simp] theorem State.modArbiter_engine (s : State) (g : Arbiter → Arbiter) : (s.modArbiter g).engine = s.engine := rfl
@[simp] theorem State.modArbiter_evaluator (s : State) (g : Arbiter → Arbiter) : (s.modArbiter g).evaluator = s.evaluator := rfl
@[simp] theorem State.modArbiter_decision (s : State) (g : Arbiter → Arbiter) : (s.modArbiter g).decision = s.decision := rfl
@[simp] theorem State.modArbiter_monitor (s : State) (g : Arbiter → Arbiter) : (s.modArbiter g).monitor = s.monitor := rfl
@[simp] theorem State.modArbiter_log (s : State) (g : Arbiter → Arbiter) : (s.modArbiter g).log = s.log := rfl
@[simp] theorem State.modArbiter_link (s : State) (g : Arbiter → Arbiter) : (s.modArbiter g).link = s.link := rfl
@[simp] theorem State.modArbiter_pending (s : State) (g : Arbiter → Arbiter) : (s.modArbiter g).pending = s.pending := rfl

/-! ### State.modEngine -/

@[simp] theorem State.modEngine_now (s : State) (g : Engine → Engine) : (s.modEngine g).now = s.now := rfl
@[simp] theorem State.modEngine_pins (s : State) (g : Engine → Engine) : (s.modEngine g).pins = s.pins := rfl
@[simp] theorem State.modEngine_flow (s : State) (g : Engine → Engine) : (s.modEngine g).flow = s.flow := rfl
@[simp] theorem State.modEngine_slots (s : State) (g : Engine → Engine) : (s.modEngine g).slots = s.slots := rfl
@[simp] theorem State.modEngine_align (s : State) (g : Engine → Engine) : (s.modEngine g).align = s.align := rfl
@[simp] theorem State.modEngine_ports (s : State) (g : Engine → Engine) : (s.modEngine g).ports = s.ports := rfl
@[simp] theorem State.modEngine_arbiter (s : State) (g : Engine → Engine) : (s.modEngine g).arbiter = s.arbiter := rfl
@[simp] theorem State.modEngine_engine (s : State) (g : Engine → Engine) : (s.modEngine g).engine = g s.engine := rfl
@[simp] theorem State.modEngine_evaluator (s : State) (g : Engine → Engine) : (s.modEngine g).evaluator = s.evaluator := rfl
@[simp] theorem State.modEngine_decision (s : State) (g : Engine → Engine) : (s.modEngine g).decision = s.decision := rfl
@[simp] theorem State.modEngine_monitor (s : State) (g : Engine → Engine) : (s.modEngine g).monitor = s.monitor := rfl
@[simp] theorem State.modEngine_log (s : State) (g : Engine → Engine) : (s.modEngine g).log = s.log := rfl
@[simp] theorem State.modEngine_link (s : State) (g : Engine → Engine) : (s.modEngine g).link = s.link := rfl
@[simp] theorem State.modEngine_pending (s : State) (g : Engine → Engine) : (s.modEngine g).pending = s.pending := rfl

/-! ### State.modEvaluator -/

@[simp] theorem State.modEvaluator_now (s : State) (g : Evaluator → Evaluator) : (s.modEvaluator g).now = s.now := rfl
@[simp] theorem State.modEvaluator_pins (s : State) (g : Evaluator → Evaluator) : (s.modEvaluator g).pins = s.pins := rfl
@[simp] theorem State.modEvaluator_flow (s : State) (g : Evaluator → Evaluator) : (s.modEvaluator g).flow = s.flow := rfl
@[simp] theorem State.modEvaluator_slots (s : State) (g : Evaluator → Evaluator) : (s.modEvaluator g).slots = s.slots := rfl
@[simp] theorem State.modEvaluator_align (s : State) (g : Evaluator → Evaluator) : (s.modEvaluator g).align = s.align := rfl
@[simp] theorem State.modEvaluator_ports (s : State) (g : Evaluator → Evaluator) : (s.modEvaluator g).ports = s.ports := rfl
@[simp] theorem State.modEvaluator_arbiter (s : State) (g : Evaluator → Evaluator) : (s.modEvaluator g).arbiter = s.arbiter := rfl
@[simp] theorem State.modEvaluator_engine (s : State) (g : Evaluator → Evaluator) : (s.modEvaluator g).engine = s.engine := rfl
@[simp] theorem State.modEvaluator_evaluator (s : State) (g : Evaluator → Evaluator) : (s.modEvaluator g).evaluator = g s.evaluator := rfl
@[simp] theorem State.modEvaluator_decision (s : State) (g : Evaluator → Evaluator) : (s.modEvaluator g).decision = s.decision := rfl
@[simp] theorem State.modEvaluator_monitor (s : State) (g : Evaluator → Evaluator) : (s.modEvaluator g).monitor = s.monitor := rfl
@[simp] theorem State.modEvaluator_log (s : State) (g : Evaluator → Evaluator) : (s.modEvaluator g).log = s.log := rfl
@[simp] theorem State.modEvaluator_link (s : State) (g : Evaluator → Evaluator) : (s.modEvaluator g).link = s.link := rfl
@[simp] theorem State.modEvaluator_pending (s : State) (g : Evaluator → Evaluator) : (s.modEvaluator g).pending = s.pending := rfl

/-! ### State.modDecision -/

@[simp] theorem State.modDecision_now (s : State) (g : DecisionUnit → DecisionUnit) : (s.modDecision g).now = s.now := rfl
@[simp] theorem State.modDecision_pins (s : State) (g : DecisionUnit → DecisionUnit) : (s.modDecision g).pins = s.pins := rfl
@[simp] theorem State.modDecision_flow (s : State) (g : DecisionUnit → DecisionUnit) : (s.modDecision g).flow = s.flow := rfl
@[simp] theorem State.modDecision_slots (s : State) (g : DecisionUnit → DecisionUnit) : (s.modDecision g).slots = s.slots := rfl
@[simp] theorem State.modDecision_align (s : State) (g : DecisionUnit → DecisionUnit) : (s.modDecision g).align = s.align := rfl
@[simp] theorem State.modDecision_ports (s : State) (g : DecisionUnit → DecisionUnit) : (s.modDecision g).ports = s.ports := rfl
@[simp] theorem State.modDecision_arbiter (s : State) (g : DecisionUnit → DecisionUnit) : (s.modDecision g).arbiter = s.arbiter := rfl
@[simp] theorem State.modDecision_engine (s : State) (g : DecisionUnit → DecisionUnit) : (s.modDecision g).engine = s.engine := rfl
@[simp] theorem State.modDecision_evaluator (s : State) (g : DecisionUnit → DecisionUnit) : (s.modDecision g).evaluator = s.evaluator := rfl
@[simp] theorem State.modDecision_decision (s : State) (g : DecisionUnit → DecisionUnit) : (s.modDecision g).decision = g s.decision := rfl
@[simp] theorem State.modDecision_monitor (s : State) (g : DecisionUnit → DecisionUnit) : (s.modDecision g).monitor = s.monitor := rfl
@[simp] theorem State.modDecision_log (s : State) (g : DecisionUnit → DecisionUnit) : (s.modDecision g).log = s.log := rfl
@[simp] theorem State.modDecision_link (s : State) (g : DecisionUnit → DecisionUnit) : (s.modDecision g).link = s.link := rfl
@[simp] theorem State.modDecision_pending (s : State) (g : DecisionUnit → DecisionUnit) : (s.modDecision g).pending = s.pending := rfl

/-! ### State.modMonitor -/

@[simp] theorem State.modMonitor_now (s : State) (g : Monitor → Monitor) : (s.modMonitor g).now = s.now := rfl
@[simp] theorem State.modMonitor_pins (s : State) (g : Monitor → Monitor) : (s.modMonitor g).pins = s.pins := rfl
@[simp] theorem State.modMonitor_flow (s : State) (g : Monitor → Monitor) : (s.modMonitor g).flow = s.flow := rfl
@[simp] theorem State.modMonitor_slots (s : State) (g : Monitor → Monitor) : (s.modMonitor g).slots = s.slots := rfl
@[simp] theorem State.modMonitor_align (s : State) (g : Monitor → Monitor) : (s.modMonitor g).align = s.align := rfl
@[simp] theorem State.modMonitor_ports (s : State) (g : Monitor → Monitor) : (s.modMonitor g).ports = s.ports := rfl
@[simp] theorem State.modMonitor_arbiter (s : State) (g : Monitor → Monitor) : (s.modMonitor g).arbiter = s.arbiter := rfl
@[simp] theorem State.modMonitor_engine (s : State) (g : Monitor → Monitor) : (s.modMonitor g).engine = s.engine := rfl
@[simp] theorem State.modMonitor_evaluator (s : State) (g : Monitor → Monitor) : (s.modMonitor g).evaluator = s.evaluator := rfl
@[simp] theorem State.modMonitor_decision (s : State) (g : Monitor → Monitor) : (s.modMonitor g).decision = s.decision := rfl
@[simp] theorem State.modMonitor_monitor (s : State) (g : Monitor → Monitor) : (s.modMonitor g).monitor = g s.monitor := rfl
@[simp] theorem State.modMonitor_log (s : State) (g : Monitor → Monitor) : (s.modMonitor g).log = s.log := rfl
@[simp] theorem State.modMonitor_link (s : State) (g : Monitor → Monitor) : (s.modMonitor g).link = s.link := rfl
@[simp] theorem State.modMonitor_pending (s : State) (g : Monitor → Monitor) : (s.modMonitor g).pending = s.pending := rfl

/-! ### State.modLog -/

@[simp] theorem State.modLog_now (s : State) (g : DefectLog → DefectLog) : (s.modLog g).now = s.now := rfl
@[simp] theorem State.modLog_pins (s : State) (g : DefectLog → DefectLog) : (s.modLog g).pins = s.pins := rfl
@[simp] theorem State.modLog_flow (s : State) (g : DefectLog → DefectLog) : (s.modLog g).flow = s.flow := rfl
@[simp] theorem State.modLog_slots (s : State) (g : DefectLog → DefectLog) : (s.modLog g).slots = s.slots := rfl
@[simp] theorem State.modLog_align (s : State) (g : DefectLog → DefectLog) : (s.modLog g).align = s.align := rfl
@[simp] theorem State.modLog_ports (s : State) (g : DefectLog → DefectLog) : (s.modLog g).ports = s.ports := rfl
@[simp] theorem State.modLog_arbiter (s : State) (g : DefectLog → DefectLog) : (s.modLog g).arbiter = s.arbiter := rfl
@[simp] theorem State.modLog_engine (s : State) (g : DefectLog → DefectLog) : (s.modLog g).engine = s.engine := rfl
@[simp] theorem State.modLog_evaluator (s : State) (g : DefectLog → DefectLog) : (s.modLog g).evaluator = s.evaluator := rfl
@[simp] theorem State.modLog_decision (s : State) (g : DefectLog → DefectLog) : (s.modLog g).decision = s.decision := rfl
@[simp] theorem State.modLog_monitor (s : State) (g : DefectLog → DefectLog) : (s.modLog g).monitor = s.monitor := rfl
@[simp] theorem State.modLog_log (s : State) (g : DefectLog → DefectLog) : (s.modLog g).log = g s.log := rfl
@[simp] theorem State.modLog_link (s : State) (g : DefectLog → DefectLog) : (s.modLog g).link = s.link := rfl
@[simp] theorem State.modLog_pending (s : State) (g : DefectLog → DefectLog) : (s.modLog g).pending = s.pending := rfl

/-! ### State.modLink -/

@[simp] theorem State.modLink_now (s : State) (g : Link → Link) : (s.modLink g).now = s.now := rfl
@[simp] theorem State.modLink_pins (s : State) (g : Link → Link) : (s.modLink g).pins = s.pins := rfl
@[simp] theorem State.modLink_flow (s : State) (g : Link → Link) : (s.modLink g).flow = s.flow := rfl
@[simp] theorem State.modLink_slots (s : State) (g : Link → Link) : (s.modLink g).slots = s.slots := rfl
@[simp] theorem State.modLink_align (s : State) (g : Link → Link) : (s.modLink g).align = s.align := rfl
@[simp] theorem State.modLink_ports (s : State) (g : Link → Link) : (s.modLink g).ports = s.ports := rfl
@[simp] theorem State.modLink_arbiter (s : State) (g : Link → Link) : (s.modLink g).arbiter = s.arbiter := rfl
@[simp] theorem State.modLink_engine (s : State) (g : Link → Link) : (s.modLink g).engine = s.engine := rfl
@[simp] theorem State.modLink_evaluator (s : State) (g : Link → Link) : (s.modLink g).evaluator = s.evaluator := rfl
@[simp] theorem State.modLink_decision (s : State) (g : Link → Link) : (s.modLink g).decision = s.decision := rfl
@[simp] theorem State.modLink_monitor (s : State) (g : Link → Link) : (s.modLink g).monitor = s.monitor := rfl
@[simp] theorem State.modLink_log (s : State) (g : Link → Link) : (s.modLink g).log = s.log := rfl
@[simp] theorem State.modLink_link (s : State) (g : Link → Link) : (s.modLink g).link = g s.link := rfl
@[simp] theorem State.modLink_pending (s : State) (g : Link → Link) : (s.modLink g).pending = s.pending := rfl

/-! ### State.modCtx -/

@[simp] theorem State.modCtx_now (s : State) (c : CtxId) (g : Context → Context) : (s.modCtx c g).now = s.now := rfl
@[simp] theorem State.modCtx_pins (s : State) (c : CtxId) (g : Context → Context) : (s.modCtx c g).pins = s.pins := rfl
@[simp] theorem State.modCtx_slots (s : State) (c : CtxId) (g : Context → Context) : (s.modCtx c g).slots = s.slots := rfl
@[simp] theorem State.modCtx_align (s : State) (c : CtxId) (g : Context → Context) : (s.modCtx c g).align = s.align := rfl
@[simp] theorem State.modCtx_ports (s : State) (c : CtxId) (g : Context → Context) : (s.modCtx c g).ports = s.ports := rfl
@[simp] theorem State.modCtx_arbiter (s : State) (c : CtxId) (g : Context → Context) : (s.modCtx c g).arbiter = s.arbiter := rfl
@[simp] theorem State.modCtx_engine (s : State) (c : CtxId) (g : Context → Context) : (s.modCtx c g).engine = s.engine := rfl
@[simp] theorem State.modCtx_evaluator (s : State) (c : CtxId) (g : Context → Context) : (s.modCtx c g).evaluator = s.evaluator := rfl
@[simp] theorem State.modCtx_decision (s : State) (c : CtxId) (g : Context → Context) : (s.modCtx c g).decision = s.decision := rfl
@[simp] theorem State.modCtx_monitor (s : State) (c : CtxId) (g : Context → Context) : (s.modCtx c g).monitor = s.monitor := rfl
@[simp] theorem State.modCtx_log (s : State) (c : CtxId) (g : Context → Context) : (s.modCtx c g).log = s.log := rfl
@[simp] theorem State.modCtx_link (s : State) (c : CtxId) (g : Context → Context) : (s.modCtx c g).link = s.link := rfl
@[simp] theorem State.modCtx_pending (s : State) (c : CtxId) (g : Context → Context) : (s.modCtx c g).pending = s.pending := rfl

/-! ### State.modSlot -/

@[simp] theorem State.modSlot_now (s : State) (k : SlotId) (g : Slot → Slot) : (s.modSlot k g).now = s.now := rfl
@[simp] theorem State.modSlot_pins (s : State) (k : SlotId) (g : Slot → Slot) : (s.modSlot k g).pins = s.pins := rfl
@[simp] theorem State.modSlot_flow (s : State) (k : SlotId) (g : Slot → Slot) : (s.modSlot k g).flow = s.flow := rfl
@[simp] theorem State.modSlot_align (s : State) (k : SlotId) (g : Slot → Slot) : (s.modSlot k g).align = s.align := rfl
@[simp] theorem State.modSlot_ports (s : State) (k : SlotId) (g : Slot → Slot) : (s.modSlot k g).ports = s.ports := rfl
@[simp] theorem State.modSlot_arbiter (s : State) (k : SlotId) (g : Slot → Slot) : (s.modSlot k g).arbiter = s.arbiter := rfl
@[simp] theorem State.modSlot_engine (s : State) (k : SlotId) (g : Slot → Slot) : (s.modSlot k g).engine = s.engine := rfl
@[simp] theorem State.modSlot_evaluator (s : State) (k : SlotId) (g : Slot → Slot) : (s.modSlot k g).evaluator = s.evaluator := rfl
@[simp] theorem State.modSlot_decision (s : State) (k : SlotId) (g : Slot → Slot) : (s.modSlot k g).decision = s.decision := rfl
@[simp] theorem State.modSlot_monitor (s : State) (k : SlotId) (g : Slot → Slot) : (s.modSlot k g).monitor = s.monitor := rfl
@[simp] theorem State.modSlot_log (s : State) (k : SlotId) (g : Slot → Slot) : (s.modSlot k g).log = s.log := rfl
@[simp] theorem State.modSlot_link (s : State) (k : SlotId) (g : Slot → Slot) : (s.modSlot k g).link = s.link := rfl
@[simp] theorem State.modSlot_pending (s : State) (k : SlotId) (g : Slot → Slot) : (s.modSlot k g).pending = s.pending := rfl

/-! ### State.modPort -/

@[simp] theorem State.modPort_now (s : State) (p : PortId) (g : Port → Port) : (s.modPort p g).now = s.now := rfl
@[simp] theorem State.modPort_pins (s : State) (p : PortId) (g : Port → Port) : (s.modPort p g).pins = s.pins := rfl
@[simp] theorem State.modPort_flow (s : State) (p : PortId) (g : Port → Port) : (s.modPort p g).flow = s.flow := rfl
@[simp] theorem State.modPort_slots (s : State) (p : PortId) (g : Port → Port) : (s.modPort p g).slots = s.slots := rfl
@[simp] theorem State.modPort_align (s : State) (p : PortId) (g : Port → Port) : (s.modPort p g).align = s.align := rfl
@[simp] theorem State.modPort_arbiter (s : State) (p : PortId) (g : Port → Port) : (s.modPort p g).arbiter = s.arbiter := rfl
@[simp] theorem State.modPort_engine (s : State) (p : PortId) (g : Port → Port) : (s.modPort p g).engine = s.engine := rfl
@[simp] theorem State.modPort_evaluator (s : State) (p : PortId) (g : Port → Port) : (s.modPort p g).evaluator = s.evaluator := rfl
@[simp] theorem State.modPort_decision (s : State) (p : PortId) (g : Port → Port) : (s.modPort p g).decision = s.decision := rfl
@[simp] theorem State.modPort_monitor (s : State) (p : PortId) (g : Port → Port) : (s.modPort p g).monitor = s.monitor := rfl
@[simp] theorem State.modPort_log (s : State) (p : PortId) (g : Port → Port) : (s.modPort p g).log = s.log := rfl
@[simp] theorem State.modPort_link (s : State) (p : PortId) (g : Port → Port) : (s.modPort p g).link = s.link := rfl
@[simp] theorem State.modPort_pending (s : State) (p : PortId) (g : Port → Port) : (s.modPort p g).pending = s.pending := rfl

/-! ### State.modRecord -/

@[simp] theorem State.modRecord_now (s : State) (c : CtxId) (g : AlignRecord → AlignRecord) : (s.modRecord c g).now = s.now := rfl
@[simp] theorem State.modRecord_pins (s : State) (c : CtxId) (g : AlignRecord → AlignRecord) : (s.modRecord c g).pins = s.pins := rfl
@[simp] theorem State.modRecord_flow (s : State) (c : CtxId) (g : AlignRecord → AlignRecord) : (s.modRecord c g).flow = s.flow := rfl
@[simp] theorem State.modRecord_slots (s : State) (c : CtxId) (g : AlignRecord → AlignRecord) : (s.modRecord c g).slots = s.slots := rfl
@[simp] theorem State.modRecord_ports (s : State) (c : CtxId) (g : AlignRecord → AlignRecord) : (s.modRecord c g).ports = s.ports := rfl
@[simp] theorem State.modRecord_arbiter (s : State) (c : CtxId) (g : AlignRecord → AlignRecord) : (s.modRecord c g).arbiter = s.arbiter := rfl
@[simp] theorem State.modRecord_engine (s : State) (c : CtxId) (g : AlignRecord → AlignRecord) : (s.modRecord c g).engine = s.engine := rfl
@[simp] theorem State.modRecord_evaluator (s : State) (c : CtxId) (g : AlignRecord → AlignRecord) : (s.modRecord c g).evaluator = s.evaluator := rfl
@[simp] theorem State.modRecord_decision (s : State) (c : CtxId) (g : AlignRecord → AlignRecord) : (s.modRecord c g).decision = s.decision := rfl
@[simp] theorem State.modRecord_monitor (s : State) (c : CtxId) (g : AlignRecord → AlignRecord) : (s.modRecord c g).monitor = s.monitor := rfl
@[simp] theorem State.modRecord_log (s : State) (c : CtxId) (g : AlignRecord → AlignRecord) : (s.modRecord c g).log = s.log := rfl
@[simp] theorem State.modRecord_link (s : State) (c : CtxId) (g : AlignRecord → AlignRecord) : (s.modRecord c g).link = s.link := rfl
@[simp] theorem State.modRecord_pending (s : State) (c : CtxId) (g : AlignRecord → AlignRecord) : (s.modRecord c g).pending = s.pending := rfl

/-! ### State.setDecision -/

@[simp] theorem State.setDecision_now (s : State) (c : CtxId) (r : DecisionRecord) : (s.setDecision c r).now = s.now := rfl
@[simp] theorem State.setDecision_pins (s : State) (c : CtxId) (r : DecisionRecord) : (s.setDecision c r).pins = s.pins := rfl
@[simp] theorem State.setDecision_flow (s : State) (c : CtxId) (r : DecisionRecord) : (s.setDecision c r).flow = s.flow := rfl
@[simp] theorem State.setDecision_slots (s : State) (c : CtxId) (r : DecisionRecord) : (s.setDecision c r).slots = s.slots := rfl
@[simp] theorem State.setDecision_align (s : State) (c : CtxId) (r : DecisionRecord) : (s.setDecision c r).align = s.align := rfl
@[simp] theorem State.setDecision_ports (s : State) (c : CtxId) (r : DecisionRecord) : (s.setDecision c r).ports = s.ports := rfl
@[simp] theorem State.setDecision_arbiter (s : State) (c : CtxId) (r : DecisionRecord) : (s.setDecision c r).arbiter = s.arbiter := rfl
@[simp] theorem State.setDecision_engine (s : State) (c : CtxId) (r : DecisionRecord) : (s.setDecision c r).engine = s.engine := rfl
@[simp] theorem State.setDecision_evaluator (s : State) (c : CtxId) (r : DecisionRecord) : (s.setDecision c r).evaluator = s.evaluator := rfl
@[simp] theorem State.setDecision_monitor (s : State) (c : CtxId) (r : DecisionRecord) : (s.setDecision c r).monitor = s.monitor := rfl
@[simp] theorem State.setDecision_log (s : State) (c : CtxId) (r : DecisionRecord) : (s.setDecision c r).log = s.log := rfl
@[simp] theorem State.setDecision_link (s : State) (c : CtxId) (r : DecisionRecord) : (s.setDecision c r).link = s.link := rfl
@[simp] theorem State.setDecision_pending (s : State) (c : CtxId) (r : DecisionRecord) : (s.setDecision c r).pending = s.pending := rfl

/-! ### State.raise -/

@[simp] theorem State.raise_now (s : State) (d : NoticeData) : (s.raise d).now = s.now := rfl
@[simp] theorem State.raise_pins (s : State) (d : NoticeData) : (s.raise d).pins = s.pins := rfl
@[simp] theorem State.raise_flow (s : State) (d : NoticeData) : (s.raise d).flow = s.flow := rfl
@[simp] theorem State.raise_slots (s : State) (d : NoticeData) : (s.raise d).slots = s.slots := rfl
@[simp] theorem State.raise_align (s : State) (d : NoticeData) : (s.raise d).align = s.align := rfl
@[simp] theorem State.raise_ports (s : State) (d : NoticeData) : (s.raise d).ports = s.ports := rfl
@[simp] theorem State.raise_arbiter (s : State) (d : NoticeData) : (s.raise d).arbiter = s.arbiter := rfl
@[simp] theorem State.raise_engine (s : State) (d : NoticeData) : (s.raise d).engine = s.engine := rfl
@[simp] theorem State.raise_evaluator (s : State) (d : NoticeData) : (s.raise d).evaluator = s.evaluator := rfl
@[simp] theorem State.raise_decision (s : State) (d : NoticeData) : (s.raise d).decision = s.decision := rfl
@[simp] theorem State.raise_monitor (s : State) (d : NoticeData) : (s.raise d).monitor = s.monitor := rfl
@[simp] theorem State.raise_log (s : State) (d : NoticeData) : (s.raise d).log = s.log := rfl
@[simp] theorem State.raise_pending (s : State) (d : NoticeData) : (s.raise d).pending = s.pending := rfl

/-! ### State.reply -/

@[simp] theorem State.reply_now (s : State) (st : Status) (b : List Byte) : (s.reply st b).now = s.now := rfl
@[simp] theorem State.reply_pins (s : State) (st : Status) (b : List Byte) : (s.reply st b).pins = s.pins := rfl
@[simp] theorem State.reply_flow (s : State) (st : Status) (b : List Byte) : (s.reply st b).flow = s.flow := rfl
@[simp] theorem State.reply_slots (s : State) (st : Status) (b : List Byte) : (s.reply st b).slots = s.slots := rfl
@[simp] theorem State.reply_align (s : State) (st : Status) (b : List Byte) : (s.reply st b).align = s.align := rfl
@[simp] theorem State.reply_ports (s : State) (st : Status) (b : List Byte) : (s.reply st b).ports = s.ports := rfl
@[simp] theorem State.reply_arbiter (s : State) (st : Status) (b : List Byte) : (s.reply st b).arbiter = s.arbiter := rfl
@[simp] theorem State.reply_engine (s : State) (st : Status) (b : List Byte) : (s.reply st b).engine = s.engine := rfl
@[simp] theorem State.reply_evaluator (s : State) (st : Status) (b : List Byte) : (s.reply st b).evaluator = s.evaluator := rfl
@[simp] theorem State.reply_decision (s : State) (st : Status) (b : List Byte) : (s.reply st b).decision = s.decision := rfl
@[simp] theorem State.reply_monitor (s : State) (st : Status) (b : List Byte) : (s.reply st b).monitor = s.monitor := rfl
@[simp] theorem State.reply_log (s : State) (st : Status) (b : List Byte) : (s.reply st b).log = s.log := rfl
@[simp] theorem State.reply_pending (s : State) (st : Status) (b : List Byte) : (s.reply st b).pending = s.pending := rfl

/-! ### State.refuse -/

@[simp] theorem State.refuse_now (s : State) (st : Status) : (s.refuse st).now = s.now := rfl
@[simp] theorem State.refuse_pins (s : State) (st : Status) : (s.refuse st).pins = s.pins := rfl
@[simp] theorem State.refuse_flow (s : State) (st : Status) : (s.refuse st).flow = s.flow := rfl
@[simp] theorem State.refuse_slots (s : State) (st : Status) : (s.refuse st).slots = s.slots := rfl
@[simp] theorem State.refuse_align (s : State) (st : Status) : (s.refuse st).align = s.align := rfl
@[simp] theorem State.refuse_ports (s : State) (st : Status) : (s.refuse st).ports = s.ports := rfl
@[simp] theorem State.refuse_arbiter (s : State) (st : Status) : (s.refuse st).arbiter = s.arbiter := rfl
@[simp] theorem State.refuse_engine (s : State) (st : Status) : (s.refuse st).engine = s.engine := rfl
@[simp] theorem State.refuse_evaluator (s : State) (st : Status) : (s.refuse st).evaluator = s.evaluator := rfl
@[simp] theorem State.refuse_decision (s : State) (st : Status) : (s.refuse st).decision = s.decision := rfl
@[simp] theorem State.refuse_monitor (s : State) (st : Status) : (s.refuse st).monitor = s.monitor := rfl
@[simp] theorem State.refuse_log (s : State) (st : Status) : (s.refuse st).log = s.log := rfl
@[simp] theorem State.refuse_pending (s : State) (st : Status) : (s.refuse st).pending = s.pending := rfl

/-! ### State.pump -/

@[simp] theorem State.pump_now (s : State)  : (s.pump).now = s.now := rfl
@[simp] theorem State.pump_pins (s : State)  : (s.pump).pins = s.pins := rfl
@[simp] theorem State.pump_flow (s : State)  : (s.pump).flow = s.flow := rfl
@[simp] theorem State.pump_slots (s : State)  : (s.pump).slots = s.slots := rfl
@[simp] theorem State.pump_align (s : State)  : (s.pump).align = s.align := rfl
@[simp] theorem State.pump_ports (s : State)  : (s.pump).ports = s.ports := rfl
@[simp] theorem State.pump_arbiter (s : State)  : (s.pump).arbiter = s.arbiter := rfl
@[simp] theorem State.pump_engine (s : State)  : (s.pump).engine = s.engine := rfl
@[simp] theorem State.pump_evaluator (s : State)  : (s.pump).evaluator = s.evaluator := rfl
@[simp] theorem State.pump_decision (s : State)  : (s.pump).decision = s.decision := rfl
@[simp] theorem State.pump_monitor (s : State)  : (s.pump).monitor = s.monitor := rfl
@[simp] theorem State.pump_log (s : State)  : (s.pump).log = s.log := rfl
@[simp] theorem State.pump_pending (s : State)  : (s.pump).pending = s.pending := rfl

/-! ### State.pin -/

@[simp] theorem State.pin_now (s : State) (k : SlotId) : (s.pin k).now = s.now := rfl
@[simp] theorem State.pin_pins (s : State) (k : SlotId) : (s.pin k).pins = s.pins := rfl
@[simp] theorem State.pin_flow (s : State) (k : SlotId) : (s.pin k).flow = s.flow := rfl
@[simp] theorem State.pin_align (s : State) (k : SlotId) : (s.pin k).align = s.align := rfl
@[simp] theorem State.pin_ports (s : State) (k : SlotId) : (s.pin k).ports = s.ports := rfl
@[simp] theorem State.pin_arbiter (s : State) (k : SlotId) : (s.pin k).arbiter = s.arbiter := rfl
@[simp] theorem State.pin_engine (s : State) (k : SlotId) : (s.pin k).engine = s.engine := rfl
@[simp] theorem State.pin_evaluator (s : State) (k : SlotId) : (s.pin k).evaluator = s.evaluator := rfl
@[simp] theorem State.pin_decision (s : State) (k : SlotId) : (s.pin k).decision = s.decision := rfl
@[simp] theorem State.pin_monitor (s : State) (k : SlotId) : (s.pin k).monitor = s.monitor := rfl
@[simp] theorem State.pin_log (s : State) (k : SlotId) : (s.pin k).log = s.log := rfl
@[simp] theorem State.pin_link (s : State) (k : SlotId) : (s.pin k).link = s.link := rfl
@[simp] theorem State.pin_pending (s : State) (k : SlotId) : (s.pin k).pending = s.pending := rfl

/-! ### State.unpin -/

@[simp] theorem State.unpin_now (s : State) (k : SlotId) : (s.unpin k).now = s.now := rfl
@[simp] theorem State.unpin_pins (s : State) (k : SlotId) : (s.unpin k).pins = s.pins := rfl
@[simp] theorem State.unpin_flow (s : State) (k : SlotId) : (s.unpin k).flow = s.flow := rfl
@[simp] theorem State.unpin_align (s : State) (k : SlotId) : (s.unpin k).align = s.align := rfl
@[simp] theorem State.unpin_ports (s : State) (k : SlotId) : (s.unpin k).ports = s.ports := rfl
@[simp] theorem State.unpin_arbiter (s : State) (k : SlotId) : (s.unpin k).arbiter = s.arbiter := rfl
@[simp] theorem State.unpin_engine (s : State) (k : SlotId) : (s.unpin k).engine = s.engine := rfl
@[simp] theorem State.unpin_evaluator (s : State) (k : SlotId) : (s.unpin k).evaluator = s.evaluator := rfl
@[simp] theorem State.unpin_decision (s : State) (k : SlotId) : (s.unpin k).decision = s.decision := rfl
@[simp] theorem State.unpin_monitor (s : State) (k : SlotId) : (s.unpin k).monitor = s.monitor := rfl
@[simp] theorem State.unpin_log (s : State) (k : SlotId) : (s.unpin k).log = s.log := rfl
@[simp] theorem State.unpin_link (s : State) (k : SlotId) : (s.unpin k).link = s.link := rfl
@[simp] theorem State.unpin_pending (s : State) (k : SlotId) : (s.unpin k).pending = s.pending := rfl

/-! ### State.modConfigured -/

@[simp] theorem State.modConfigured_now (s : State) (g : PortId → Port → Port) : (s.modConfigured g).now = s.now := rfl
@[simp] theorem State.modConfigured_pins (s : State) (g : PortId → Port → Port) : (s.modConfigured g).pins = s.pins := rfl
@[simp] theorem State.modConfigured_flow (s : State) (g : PortId → Port → Port) : (s.modConfigured g).flow = s.flow := rfl
@[simp] theorem State.modConfigured_slots (s : State) (g : PortId → Port → Port) : (s.modConfigured g).slots = s.slots := rfl
@[simp] theorem State.modConfigured_align (s : State) (g : PortId → Port → Port) : (s.modConfigured g).align = s.align := rfl
@[simp] theorem State.modConfigured_arbiter (s : State) (g : PortId → Port → Port) : (s.modConfigured g).arbiter = s.arbiter := rfl
@[simp] theorem State.modConfigured_engine (s : State) (g : PortId → Port → Port) : (s.modConfigured g).engine = s.engine := rfl
@[simp] theorem State.modConfigured_evaluator (s : State) (g : PortId → Port → Port) : (s.modConfigured g).evaluator = s.evaluator := rfl
@[simp] theorem State.modConfigured_decision (s : State) (g : PortId → Port → Port) : (s.modConfigured g).decision = s.decision := rfl
@[simp] theorem State.modConfigured_monitor (s : State) (g : PortId → Port → Port) : (s.modConfigured g).monitor = s.monitor := rfl
@[simp] theorem State.modConfigured_log (s : State) (g : PortId → Port → Port) : (s.modConfigured g).log = s.log := rfl
@[simp] theorem State.modConfigured_link (s : State) (g : PortId → Port → Port) : (s.modConfigured g).link = s.link := rfl
@[simp] theorem State.modConfigured_pending (s : State) (g : PortId → Port → Port) : (s.modConfigured g).pending = s.pending := rfl

/-! ### State.setFid -/

@[simp] theorem State.setFid_now (s : State) (c : CtxId) (i : Fin 3) (e : FidEntry) : (s.setFid c i e).now = s.now := rfl
@[simp] theorem State.setFid_pins (s : State) (c : CtxId) (i : Fin 3) (e : FidEntry) : (s.setFid c i e).pins = s.pins := rfl
@[simp] theorem State.setFid_flow (s : State) (c : CtxId) (i : Fin 3) (e : FidEntry) : (s.setFid c i e).flow = s.flow := rfl
@[simp] theorem State.setFid_slots (s : State) (c : CtxId) (i : Fin 3) (e : FidEntry) : (s.setFid c i e).slots = s.slots := rfl
@[simp] theorem State.setFid_ports (s : State) (c : CtxId) (i : Fin 3) (e : FidEntry) : (s.setFid c i e).ports = s.ports := rfl
@[simp] theorem State.setFid_arbiter (s : State) (c : CtxId) (i : Fin 3) (e : FidEntry) : (s.setFid c i e).arbiter = s.arbiter := rfl
@[simp] theorem State.setFid_engine (s : State) (c : CtxId) (i : Fin 3) (e : FidEntry) : (s.setFid c i e).engine = s.engine := rfl
@[simp] theorem State.setFid_evaluator (s : State) (c : CtxId) (i : Fin 3) (e : FidEntry) : (s.setFid c i e).evaluator = s.evaluator := rfl
@[simp] theorem State.setFid_decision (s : State) (c : CtxId) (i : Fin 3) (e : FidEntry) : (s.setFid c i e).decision = s.decision := rfl
@[simp] theorem State.setFid_monitor (s : State) (c : CtxId) (i : Fin 3) (e : FidEntry) : (s.setFid c i e).monitor = s.monitor := rfl
@[simp] theorem State.setFid_log (s : State) (c : CtxId) (i : Fin 3) (e : FidEntry) : (s.setFid c i e).log = s.log := rfl
@[simp] theorem State.setFid_link (s : State) (c : CtxId) (i : Fin 3) (e : FidEntry) : (s.setFid c i e).link = s.link := rfl
@[simp] theorem State.setFid_pending (s : State) (c : CtxId) (i : Fin 3) (e : FidEntry) : (s.setFid c i e).pending = s.pending := rfl

/-! ### State.countStale -/

@[simp] theorem State.countStale_now (s : State) (p : PortId) : (s.countStale p).now = s.now := rfl
@[simp] theorem State.countStale_pins (s : State) (p : PortId) : (s.countStale p).pins = s.pins := rfl
@[simp] theorem State.countStale_flow (s : State) (p : PortId) : (s.countStale p).flow = s.flow := rfl
@[simp] theorem State.countStale_slots (s : State) (p : PortId) : (s.countStale p).slots = s.slots := rfl
@[simp] theorem State.countStale_align (s : State) (p : PortId) : (s.countStale p).align = s.align := rfl
@[simp] theorem State.countStale_arbiter (s : State) (p : PortId) : (s.countStale p).arbiter = s.arbiter := rfl
@[simp] theorem State.countStale_engine (s : State) (p : PortId) : (s.countStale p).engine = s.engine := rfl
@[simp] theorem State.countStale_evaluator (s : State) (p : PortId) : (s.countStale p).evaluator = s.evaluator := rfl
@[simp] theorem State.countStale_decision (s : State) (p : PortId) : (s.countStale p).decision = s.decision := rfl
@[simp] theorem State.countStale_monitor (s : State) (p : PortId) : (s.countStale p).monitor = s.monitor := rfl
@[simp] theorem State.countStale_log (s : State) (p : PortId) : (s.countStale p).log = s.log := rfl
@[simp] theorem State.countStale_link (s : State) (p : PortId) : (s.countStale p).link = s.link := rfl
@[simp] theorem State.countStale_pending (s : State) (p : PortId) : (s.countStale p).pending = s.pending := rfl

/-! ### State.countFrameError -/

@[simp] theorem State.countFrameError_now (s : State) (p : PortId) : (s.countFrameError p).now = s.now := rfl
@[simp] theorem State.countFrameError_pins (s : State) (p : PortId) : (s.countFrameError p).pins = s.pins := rfl
@[simp] theorem State.countFrameError_flow (s : State) (p : PortId) : (s.countFrameError p).flow = s.flow := rfl
@[simp] theorem State.countFrameError_slots (s : State) (p : PortId) : (s.countFrameError p).slots = s.slots := rfl
@[simp] theorem State.countFrameError_align (s : State) (p : PortId) : (s.countFrameError p).align = s.align := rfl
@[simp] theorem State.countFrameError_arbiter (s : State) (p : PortId) : (s.countFrameError p).arbiter = s.arbiter := rfl
@[simp] theorem State.countFrameError_engine (s : State) (p : PortId) : (s.countFrameError p).engine = s.engine := rfl
@[simp] theorem State.countFrameError_evaluator (s : State) (p : PortId) : (s.countFrameError p).evaluator = s.evaluator := rfl
@[simp] theorem State.countFrameError_decision (s : State) (p : PortId) : (s.countFrameError p).decision = s.decision := rfl
@[simp] theorem State.countFrameError_monitor (s : State) (p : PortId) : (s.countFrameError p).monitor = s.monitor := rfl
@[simp] theorem State.countFrameError_log (s : State) (p : PortId) : (s.countFrameError p).log = s.log := rfl
@[simp] theorem State.countFrameError_link (s : State) (p : PortId) : (s.countFrameError p).link = s.link := rfl
@[simp] theorem State.countFrameError_pending (s : State) (p : PortId) : (s.countFrameError p).pending = s.pending := rfl

/-! ### State.heard -/

@[simp] theorem State.heard_now (s : State) (p : PortId) : (s.heard p).now = s.now := rfl
@[simp] theorem State.heard_pins (s : State) (p : PortId) : (s.heard p).pins = s.pins := rfl
@[simp] theorem State.heard_flow (s : State) (p : PortId) : (s.heard p).flow = s.flow := rfl
@[simp] theorem State.heard_slots (s : State) (p : PortId) : (s.heard p).slots = s.slots := rfl
@[simp] theorem State.heard_align (s : State) (p : PortId) : (s.heard p).align = s.align := rfl
@[simp] theorem State.heard_arbiter (s : State) (p : PortId) : (s.heard p).arbiter = s.arbiter := rfl
@[simp] theorem State.heard_engine (s : State) (p : PortId) : (s.heard p).engine = s.engine := rfl
@[simp] theorem State.heard_evaluator (s : State) (p : PortId) : (s.heard p).evaluator = s.evaluator := rfl
@[simp] theorem State.heard_decision (s : State) (p : PortId) : (s.heard p).decision = s.decision := rfl
@[simp] theorem State.heard_monitor (s : State) (p : PortId) : (s.heard p).monitor = s.monitor := rfl
@[simp] theorem State.heard_log (s : State) (p : PortId) : (s.heard p).log = s.log := rfl
@[simp] theorem State.heard_link (s : State) (p : PortId) : (s.heard p).link = s.link := rfl
@[simp] theorem State.heard_pending (s : State) (p : PortId) : (s.heard p).pending = s.pending := rfl

/-! ### State.listLocate -/

@[simp] theorem State.listLocate_now (s : State) (p : PortId) (l : Locate) : (s.listLocate p l).now = s.now := rfl
@[simp] theorem State.listLocate_pins (s : State) (p : PortId) (l : Locate) : (s.listLocate p l).pins = s.pins := rfl
@[simp] theorem State.listLocate_flow (s : State) (p : PortId) (l : Locate) : (s.listLocate p l).flow = s.flow := rfl
@[simp] theorem State.listLocate_slots (s : State) (p : PortId) (l : Locate) : (s.listLocate p l).slots = s.slots := rfl
@[simp] theorem State.listLocate_ports (s : State) (p : PortId) (l : Locate) : (s.listLocate p l).ports = s.ports := rfl
@[simp] theorem State.listLocate_arbiter (s : State) (p : PortId) (l : Locate) : (s.listLocate p l).arbiter = s.arbiter := rfl
@[simp] theorem State.listLocate_engine (s : State) (p : PortId) (l : Locate) : (s.listLocate p l).engine = s.engine := rfl
@[simp] theorem State.listLocate_evaluator (s : State) (p : PortId) (l : Locate) : (s.listLocate p l).evaluator = s.evaluator := rfl
@[simp] theorem State.listLocate_decision (s : State) (p : PortId) (l : Locate) : (s.listLocate p l).decision = s.decision := rfl
@[simp] theorem State.listLocate_monitor (s : State) (p : PortId) (l : Locate) : (s.listLocate p l).monitor = s.monitor := rfl
@[simp] theorem State.listLocate_log (s : State) (p : PortId) (l : Locate) : (s.listLocate p l).log = s.log := rfl
@[simp] theorem State.listLocate_link (s : State) (p : PortId) (l : Locate) : (s.listLocate p l).link = s.link := rfl
@[simp] theorem State.listLocate_pending (s : State) (p : PortId) (l : Locate) : (s.listLocate p l).pending = s.pending := rfl

/-! ### State.skipPlacement -/

@[simp] theorem State.skipPlacement_now (s : State) (p : Nat) (k : SkipCause) : (s.skipPlacement p k).now = s.now := rfl
@[simp] theorem State.skipPlacement_pins (s : State) (p : Nat) (k : SkipCause) : (s.skipPlacement p k).pins = s.pins := rfl
@[simp] theorem State.skipPlacement_flow (s : State) (p : Nat) (k : SkipCause) : (s.skipPlacement p k).flow = s.flow := rfl
@[simp] theorem State.skipPlacement_slots (s : State) (p : Nat) (k : SkipCause) : (s.skipPlacement p k).slots = s.slots := rfl
@[simp] theorem State.skipPlacement_ports (s : State) (p : Nat) (k : SkipCause) : (s.skipPlacement p k).ports = s.ports := rfl
@[simp] theorem State.skipPlacement_arbiter (s : State) (p : Nat) (k : SkipCause) : (s.skipPlacement p k).arbiter = s.arbiter := rfl
@[simp] theorem State.skipPlacement_engine (s : State) (p : Nat) (k : SkipCause) : (s.skipPlacement p k).engine = s.engine := rfl
@[simp] theorem State.skipPlacement_evaluator (s : State) (p : Nat) (k : SkipCause) : (s.skipPlacement p k).evaluator = s.evaluator := rfl
@[simp] theorem State.skipPlacement_decision (s : State) (p : Nat) (k : SkipCause) : (s.skipPlacement p k).decision = s.decision := rfl
@[simp] theorem State.skipPlacement_monitor (s : State) (p : Nat) (k : SkipCause) : (s.skipPlacement p k).monitor = s.monitor := rfl
@[simp] theorem State.skipPlacement_log (s : State) (p : Nat) (k : SkipCause) : (s.skipPlacement p k).log = s.log := rfl
@[simp] theorem State.skipPlacement_link (s : State) (p : Nat) (k : SkipCause) : (s.skipPlacement p k).link = s.link := rfl
@[simp] theorem State.skipPlacement_pending (s : State) (p : Nat) (k : SkipCause) : (s.skipPlacement p k).pending = s.pending := rfl

/-! ### One member of a family -/

@[simp] theorem State.raise_link (s : State) (d : NoticeData) : (s.raise d).link = s.link.raise d := rfl
@[simp] theorem State.reply_link (s : State) (st : Status) (b : List Byte) : (s.reply st b).link = s.link.reply st b := rfl
@[simp] theorem State.refuse_link (s : State) (st : Status) : (s.refuse st).link = s.link.reply st [] := rfl
@[simp] theorem State.pump_link (s : State) : s.pump.link = s.link.pump := rfl
@[simp] theorem State.modCtx_ctxs (s : State) (c : CtxId) (g : Context → Context) :
    (s.modCtx c g).flow = { s.flow with ctxs := s.flow.ctxs.set c (g (s.ctx c)) } := rfl
@[simp] theorem State.modSlot_slots (s : State) (k : SlotId) (g : Slot → Slot) :
    (s.modSlot k g).slots = s.slots.set k (g (s.slots.get k)) := rfl
@[simp] theorem State.modPort_ports (s : State) (p : PortId) (g : Port → Port) :
    (s.modPort p g).ports = s.ports.set p (g (s.ports.get p)) := rfl
@[simp] theorem State.pin_slots (s : State) (k : SlotId) :
    (s.pin k).slots = s.slots.set k { s.slots.get k with pins := (s.slots.get k).pins + 1 } := rfl
@[simp] theorem State.unpin_slots (s : State) (k : SlotId) :
    (s.unpin k).slots = s.slots.set k { s.slots.get k with pins := (s.slots.get k).pins - 1 } := rfl
@[simp] theorem State.setDecision_decision (s : State) (c : CtxId) (r : DecisionRecord) :
    (s.setDecision c r).decision = { s.decision with records := s.decision.records.set c r } := rfl
@[simp] theorem State.modRecord_align (s : State) (c : CtxId) (g : AlignRecord → AlignRecord) :
    (s.modRecord c g).align = { s.align with records := s.align.records.set c (g (s.align.records.get c)) } := rfl
@[simp] theorem State.modConfigured_ports (s : State) (g : PortId → Port → Port) :
    (s.modConfigured g).ports = s.ports.mapIdx (fun p x => if p.val < s.flow.heads then g p x else x) := rfl
theorem State.ctx_eq (s : State) (c : CtxId) : s.ctx c = s.flow.ctxs.get c := rfl
@[simp] theorem State.modCtx_ctx_self (s : State) (c : CtxId) (g : Context → Context) :
    (s.modCtx c g).ctx c = g (s.ctx c) := by simp [State.ctx]
theorem State.modCtx_ctx_ne (s : State) (c d : CtxId) (g : Context → Context) (h : d ≠ c) :
    (s.modCtx c g).ctx d = s.ctx d := by simp [State.ctx, Pair.get_set_ne _ _ _ _ h]

end Sys2Proof.Machine
end

