-- ==== Sys2Proof/Laws/Frames.lean ====
section
/-! SUPPORT. Laws/Frames.lean: which blocks each shared operation leaves as they were: one lemma per
operation and field of the state that it does not touch. -/

namespace Sys2Proof.Machine

/-- A fold keeps what each of its steps keeps. -/
theorem foldl_keeps {σ α β : Type} (proj : σ → β) (f : σ → α → σ) (l : List α) (s : σ)
    (h : ∀ t a, proj (f t a) = proj t) : proj (l.foldl f s) = proj s := by
  induction l generalizing s with
  | nil => rfl
  | cons a rest ih => rw [List.foldl_cons, ih, h]

/-! ### Ops -/

@[simp] theorem State.changeStation_now (s : State) (target : StationState) (cause : StationCause) : (s.changeStation target cause).now = s.now := by
  dsimp only [State.changeStation]
  repeat' split
  all_goals first | rfl | simp
@[simp] theorem State.changeStation_pins (s : State) (target : StationState) (cause : StationCause) : (s.changeStation target cause).pins = s.pins := by
  dsimp only [State.changeStation]
  repeat' split
  all_goals first | rfl | simp
@[simp] theorem State.changeStation_slots (s : State) (target : StationState) (cause : StationCause) : (s.changeStation target cause).slots = s.slots := by
  dsimp only [State.changeStation]
  repeat' split
  all_goals first | rfl | simp
@[simp] theorem State.changeStation_align (s : State) (target : StationState) (cause : StationCause) : (s.changeStation target cause).align = s.align := by
  dsimp only [State.changeStation]
  repeat' split
  all_goals first | rfl | simp
@[simp] theorem State.changeStation_ports (s : State) (target : StationState) (cause : StationCause) : (s.changeStation target cause).ports = s.ports := by
  dsimp only [State.changeStation]
  repeat' split
  all_goals first | rfl | simp
@[simp] theorem State.changeStation_arbiter (s : State) (target : StationState) (cause : StationCause) : (s.changeStation target cause).arbiter = s.arbiter := by
  dsimp only [State.changeStation]
  repeat' split
  all_goals first | rfl | simp
@[simp] theorem State.changeStation_engine (s : State) (target : StationState) (cause : StationCause) : (s.changeStation target cause).engine = s.engine := by
  dsimp only [State.changeStation]
  repeat' split
  all_goals first | rfl | simp
@[simp] theorem State.changeStation_evaluator (s : State) (target : StationState) (cause : StationCause) : (s.changeStation target cause).evaluator = s.evaluator := by
  dsimp only [State.changeStation]
  repeat' split
  all_goals first | rfl | simp
@[simp] theorem State.changeStation_decision (s : State) (target : StationState) (cause : StationCause) : (s.changeStation target cause).decision = s.decision := by
  dsimp only [State.changeStation]
  repeat' split
  all_goals first | rfl | simp
@[simp] theorem State.changeStation_monitor (s : State) (target : StationState) (cause : StationCause) : (s.changeStation target cause).monitor = s.monitor := by
  dsimp only [State.changeStation]
  repeat' split
  all_goals first | rfl | simp
@[simp] theorem State.changeStation_log (s : State) (target : StationState) (cause : StationCause) : (s.changeStation target cause).log = s.log := by
  dsimp only [State.changeStation]
  repeat' split
  all_goals first | rfl | simp
@[simp] theorem State.changeStation_pending (s : State) (target : StationState) (cause : StationCause) : (s.changeStation target cause).pending = s.pending := by
  dsimp only [State.changeStation]
  repeat' split
  all_goals first | rfl | simp
@[simp] theorem State.drainTest_now (s : State)  : (s.drainTest).now = s.now := by
  dsimp only [State.drainTest]
  repeat' split
  all_goals first | rfl | simp
@[simp] theorem State.drainTest_pins (s : State)  : (s.drainTest).pins = s.pins := by
  dsimp only [State.drainTest]
  repeat' split
  all_goals first | rfl | simp
@[simp] theorem State.drainTest_slots (s : State)  : (s.drainTest).slots = s.slots := by
  dsimp only [State.drainTest]
  repeat' split
  all_goals first | rfl | simp
@[simp] theorem State.drainTest_align (s : State)  : (s.drainTest).align = s.align := by
  dsimp only [State.drainTest]
  repeat' split
  all_goals first | rfl | simp
@[simp] theorem State.drainTest_ports (s : State)  : (s.drainTest).ports = s.ports := by
  dsimp only [State.drainTest]
  repeat' split
  all_goals first | rfl | simp
@[simp] theorem State.drainTest_arbiter (s : State)  : (s.drainTest).arbiter = s.arbiter := by
  dsimp only [State.drainTest]
  repeat' split
  all_goals first | rfl | simp
@[simp] theorem State.drainTest_engine (s : State)  : (s.drainTest).engine = s.engine := by
  dsimp only [State.drainTest]
  repeat' split
  all_goals first | rfl | simp
@[simp] theorem State.drainTest_evaluator (s : State)  : (s.drainTest).evaluator = s.evaluator := by
  dsimp only [State.drainTest]
  repeat' split
  all_goals first | rfl | simp
@[simp] theorem State.drainTest_decision (s : State)  : (s.drainTest).decision = s.decision := by
  dsimp only [State.drainTest]
  repeat' split
  all_goals first | rfl | simp
@[simp] theorem State.drainTest_monitor (s : State)  : (s.drainTest).monitor = s.monitor := by
  dsimp only [State.drainTest]
  repeat' split
  all_goals first | rfl | simp
@[simp] theorem State.drainTest_log (s : State)  : (s.drainTest).log = s.log := by
  dsimp only [State.drainTest]
  repeat' split
  all_goals first | rfl | simp
@[simp] theorem State.drainTest_pending (s : State)  : (s.drainTest).pending = s.pending := by
  dsimp only [State.drainTest]
  repeat' split
  all_goals first | rfl | simp
@[simp] theorem State.freeContext_now (s : State) (c : CtxId) : (s.freeContext c).now = s.now := by
  dsimp only [State.freeContext]
  repeat' split
  all_goals first | rfl | simp
@[simp] theorem State.freeContext_pins (s : State) (c : CtxId) : (s.freeContext c).pins = s.pins := by
  dsimp only [State.freeContext]
  repeat' split
  all_goals first | rfl | simp
@[simp] theorem State.freeContext_align (s : State) (c : CtxId) : (s.freeContext c).align = s.align := by
  dsimp only [State.freeContext]
  repeat' split
  all_goals first | rfl | simp
@[simp] theorem State.freeContext_ports (s : State) (c : CtxId) : (s.freeContext c).ports = s.ports := by
  dsimp only [State.freeContext]
  repeat' split
  all_goals first | rfl | simp
@[simp] theorem State.freeContext_arbiter (s : State) (c : CtxId) : (s.freeContext c).arbiter = s.arbiter := by
  dsimp only [State.freeContext]
  repeat' split
  all_goals first | rfl | simp
@[simp] theorem State.freeContext_engine (s : State) (c : CtxId) : (s.freeContext c).engine = s.engine := by
  dsimp only [State.freeContext]
  repeat' split
  all_goals first | rfl | simp
@[simp] theorem State.freeContext_evaluator (s : State) (c : CtxId) : (s.freeContext c).evaluator = s.evaluator := by
  dsimp only [State.freeContext]
  repeat' split
  all_goals first | rfl | simp
@[simp] theorem State.freeContext_monitor (s : State) (c : CtxId) : (s.freeContext c).monitor = s.monitor := by
  dsimp only [State.freeContext]
  repeat' split
  all_goals first | rfl | simp
@[simp] theorem State.freeContext_log (s : State) (c : CtxId) : (s.freeContext c).log = s.log := by
  dsimp only [State.freeContext]
  repeat' split
  all_goals first | rfl | simp
@[simp] theorem State.freeContext_pending (s : State) (c : CtxId) : (s.freeContext c).pending = s.pending := by
  dsimp only [State.freeContext]
  repeat' split
  all_goals first | rfl | simp
@[simp] theorem State.dropRecord_now (s : State) (c : CtxId) (r : LogRecord) : (s.dropRecord c r).now = s.now := by
  dsimp only [State.dropRecord]
  repeat' split
  all_goals first | rfl | simp
@[simp] theorem State.dropRecord_pins (s : State) (c : CtxId) (r : LogRecord) : (s.dropRecord c r).pins = s.pins := by
  dsimp only [State.dropRecord]
  repeat' split
  all_goals first | rfl | simp
@[simp] theorem State.dropRecord_slots (s : State) (c : CtxId) (r : LogRecord) : (s.dropRecord c r).slots = s.slots := by
  dsimp only [State.dropRecord]
  repeat' split
  all_goals first | rfl | simp
@[simp] theorem State.dropRecord_align (s : State) (c : CtxId) (r : LogRecord) : (s.dropRecord c r).align = s.align := by
  dsimp only [State.dropRecord]
  repeat' split
  all_goals first | rfl | simp
@[simp] theorem State.dropRecord_ports (s : State) (c : CtxId) (r : LogRecord) : (s.dropRecord c r).ports = s.ports := by
  dsimp only [State.dropRecord]
  repeat' split
  all_goals first | rfl | simp
@[simp] theorem State.dropRecord_arbiter (s : State) (c : CtxId) (r : LogRecord) : (s.dropRecord c r).arbiter = s.arbiter := by
  dsimp only [State.dropRecord]
  repeat' split
  all_goals first | rfl | simp
@[simp] theorem State.dropRecord_engine (s : State) (c : CtxId) (r : LogRecord) : (s.dropRecord c r).engine = s.engine := by
  dsimp only [State.dropRecord]
  repeat' split
  all_goals first | rfl | simp
@[simp] theorem State.dropRecord_evaluator (s : State) (c : CtxId) (r : LogRecord) : (s.dropRecord c r).evaluator = s.evaluator := by
  dsimp only [State.dropRecord]
  repeat' split
  all_goals first | rfl | simp
@[simp] theorem State.dropRecord_decision (s : State) (c : CtxId) (r : LogRecord) : (s.dropRecord c r).decision = s.decision := by
  dsimp only [State.dropRecord]
  repeat' split
  all_goals first | rfl | simp
@[simp] theorem State.dropRecord_monitor (s : State) (c : CtxId) (r : LogRecord) : (s.dropRecord c r).monitor = s.monitor := by
  dsimp only [State.dropRecord]
  repeat' split
  all_goals first | rfl | simp
@[simp] theorem State.dropRecord_pending (s : State) (c : CtxId) (r : LogRecord) : (s.dropRecord c r).pending = s.pending := by
  dsimp only [State.dropRecord]
  repeat' split
  all_goals first | rfl | simp
@[simp] theorem State.logRecord_now (s : State) (c : CtxId) (r : LogRecord) : (s.logRecord c r).now = s.now := by
  dsimp only [State.logRecord]
  repeat' split
  all_goals first | rfl | simp
@[simp] theorem State.logRecord_pins (s : State) (c : CtxId) (r : LogRecord) : (s.logRecord c r).pins = s.pins := by
  dsimp only [State.logRecord]
  repeat' split
  all_goals first | rfl | simp
@[simp] theorem State.logRecord_slots (s : State) (c : CtxId) (r : LogRecord) : (s.logRecord c r).slots = s.slots := by
  dsimp only [State.logRecord]
  repeat' split
  all_goals first | rfl | simp
@[simp] theorem State.logRecord_align (s : State) (c : CtxId) (r : LogRecord) : (s.logRecord c r).align = s.align := by
  dsimp only [State.logRecord]
  repeat' split
  all_goals first | rfl | simp
@[simp] theorem State.logRecord_ports (s : State) (c : CtxId) (r : LogRecord) : (s.logRecord c r).ports = s.ports := by
  dsimp only [State.logRecord]
  repeat' split
  all_goals first | rfl | simp
@[simp] theorem State.logRecord_arbiter (s : State) (c : CtxId) (r : LogRecord) : (s.logRecord c r).arbiter = s.arbiter := by
  dsimp only [State.logRecord]
  repeat' split
  all_goals first | rfl | simp
@[simp] theorem State.logRecord_engine (s : State) (c : CtxId) (r : LogRecord) : (s.logRecord c r).engine = s.engine := by
  dsimp only [State.logRecord]
  repeat' split
  all_goals first | rfl | simp
@[simp] theorem State.logRecord_evaluator (s : State) (c : CtxId) (r : LogRecord) : (s.logRecord c r).evaluator = s.evaluator := by
  dsimp only [State.logRecord]
  repeat' split
  all_goals first | rfl | simp
@[simp] theorem State.logRecord_decision (s : State) (c : CtxId) (r : LogRecord) : (s.logRecord c r).decision = s.decision := by
  dsimp only [State.logRecord]
  repeat' split
  all_goals first | rfl | simp
@[simp] theorem State.logRecord_monitor (s : State) (c : CtxId) (r : LogRecord) : (s.logRecord c r).monitor = s.monitor := by
  dsimp only [State.logRecord]
  repeat' split
  all_goals first | rfl | simp
@[simp] theorem State.logRecord_pending (s : State) (c : CtxId) (r : LogRecord) : (s.logRecord c r).pending = s.pending := by
  dsimp only [State.logRecord]
  repeat' split
  all_goals first | rfl | simp

/-! ### Abandon -/

@[simp] theorem State.abandonAlignment_now (s : State) (c : CtxId) : (s.abandonAlignment c).now = s.now := by
  dsimp only [State.abandonAlignment]
  repeat' split
  all_goals first | rfl | simp
@[simp] theorem State.abandonAlignment_pins (s : State) (c : CtxId) : (s.abandonAlignment c).pins = s.pins := by
  dsimp only [State.abandonAlignment]
  repeat' split
  all_goals first | rfl | simp
@[simp] theorem State.abandonAlignment_flow (s : State) (c : CtxId) : (s.abandonAlignment c).flow = s.flow := by
  dsimp only [State.abandonAlignment]
  repeat' split
  all_goals first | rfl | simp
@[simp] theorem State.abandonAlignment_slots (s : State) (c : CtxId) : (s.abandonAlignment c).slots = s.slots := by
  dsimp only [State.abandonAlignment]
  repeat' split
  all_goals first | rfl | simp
@[simp] theorem State.abandonAlignment_ports (s : State) (c : CtxId) : (s.abandonAlignment c).ports = s.ports := by
  dsimp only [State.abandonAlignment]
  repeat' split
  all_goals first | rfl | simp
@[simp] theorem State.abandonAlignment_arbiter (s : State) (c : CtxId) : (s.abandonAlignment c).arbiter = s.arbiter := by
  dsimp only [State.abandonAlignment]
  repeat' split
  all_goals first | rfl | simp
@[simp] theorem State.abandonAlignment_engine (s : State) (c : CtxId) : (s.abandonAlignment c).engine = s.engine := by
  dsimp only [State.abandonAlignment]
  repeat' split
  all_goals first | rfl | simp
@[simp] theorem State.abandonAlignment_evaluator (s : State) (c : CtxId) : (s.abandonAlignment c).evaluator = s.evaluator := by
  dsimp only [State.abandonAlignment]
  repeat' split
  all_goals first | rfl | simp
@[simp] theorem State.abandonAlignment_decision (s : State) (c : CtxId) : (s.abandonAlignment c).decision = s.decision := by
  dsimp only [State.abandonAlignment]
  repeat' split
  all_goals first | rfl | simp
@[simp] theorem State.abandonAlignment_monitor (s : State) (c : CtxId) : (s.abandonAlignment c).monitor = s.monitor := by
  dsimp only [State.abandonAlignment]
  repeat' split
  all_goals first | rfl | simp
@[simp] theorem State.abandonAlignment_log (s : State) (c : CtxId) : (s.abandonAlignment c).log = s.log := by
  dsimp only [State.abandonAlignment]
  repeat' split
  all_goals first | rfl | simp
@[simp] theorem State.abandonAlignment_link (s : State) (c : CtxId) : (s.abandonAlignment c).link = s.link := by
  dsimp only [State.abandonAlignment]
  repeat' split
  all_goals first | rfl | simp
@[simp] theorem State.abandonAlignment_pending (s : State) (c : CtxId) : (s.abandonAlignment c).pending = s.pending := by
  dsimp only [State.abandonAlignment]
  repeat' split
  all_goals first | rfl | simp
@[simp] theorem State.scanStop_now (s : State)  : (s.scanStop).now = s.now := by
  dsimp only [State.scanStop]
  repeat' split
  all_goals first | rfl | simp
@[simp] theorem State.scanStop_pins (s : State)  : (s.scanStop).pins = s.pins := by
  dsimp only [State.scanStop]
  repeat' split
  all_goals first | rfl | simp
@[simp] theorem State.scanStop_flow (s : State)  : (s.scanStop).flow = s.flow := by
  dsimp only [State.scanStop]
  repeat' split
  all_goals first | rfl | simp
@[simp] theorem State.scanStop_slots (s : State)  : (s.scanStop).slots = s.slots := by
  dsimp only [State.scanStop]
  repeat' split
  all_goals first | rfl | simp
@[simp] theorem State.scanStop_align (s : State)  : (s.scanStop).align = s.align := by
  dsimp only [State.scanStop]
  repeat' split
  all_goals first | rfl | simp
@[simp] theorem State.scanStop_arbiter (s : State)  : (s.scanStop).arbiter = s.arbiter := by
  dsimp only [State.scanStop]
  repeat' split
  all_goals first | rfl | simp
@[simp] theorem State.scanStop_engine (s : State)  : (s.scanStop).engine = s.engine := by
  dsimp only [State.scanStop]
  repeat' split
  all_goals first | rfl | simp
@[simp] theorem State.scanStop_evaluator (s : State)  : (s.scanStop).evaluator = s.evaluator := by
  dsimp only [State.scanStop]
  repeat' split
  all_goals first | rfl | simp
@[simp] theorem State.scanStop_decision (s : State)  : (s.scanStop).decision = s.decision := by
  dsimp only [State.scanStop]
  repeat' split
  all_goals first | rfl | simp
@[simp] theorem State.scanStop_monitor (s : State)  : (s.scanStop).monitor = s.monitor := by
  dsimp only [State.scanStop]
  repeat' split
  all_goals first | rfl | simp
@[simp] theorem State.scanStop_log (s : State)  : (s.scanStop).log = s.log := by
  dsimp only [State.scanStop]
  repeat' split
  all_goals first | rfl | simp
@[simp] theorem State.scanStop_link (s : State)  : (s.scanStop).link = s.link := by
  dsimp only [State.scanStop]
  repeat' split
  all_goals first | rfl | simp
@[simp] theorem State.scanStop_pending (s : State)  : (s.scanStop).pending = s.pending := by
  dsimp only [State.scanStop]
  repeat' split
  all_goals first | rfl | simp
@[simp] theorem State.freeIntakePool_now (s : State)  : (s.freeIntakePool).now = s.now := by
  dsimp only [State.freeIntakePool]
  repeat' split
  all_goals first | rfl | simp
@[simp] theorem State.freeIntakePool_pins (s : State)  : (s.freeIntakePool).pins = s.pins := by
  dsimp only [State.freeIntakePool]
  repeat' split
  all_goals first | rfl | simp
@[simp] theorem State.freeIntakePool_flow (s : State)  : (s.freeIntakePool).flow = s.flow := by
  dsimp only [State.freeIntakePool]
  repeat' split
  all_goals first | rfl | simp
@[simp] theorem State.freeIntakePool_slots (s : State)  : (s.freeIntakePool).slots = s.slots := by
  dsimp only [State.freeIntakePool]
  repeat' split
  all_goals first | rfl | simp
@[simp] theorem State.freeIntakePool_align (s : State)  : (s.freeIntakePool).align = s.align := by
  dsimp only [State.freeIntakePool]
  repeat' split
  all_goals first | rfl | simp
@[simp] theorem State.freeIntakePool_arbiter (s : State)  : (s.freeIntakePool).arbiter = s.arbiter := by
  dsimp only [State.freeIntakePool]
  repeat' split
  all_goals first | rfl | simp
@[simp] theorem State.freeIntakePool_engine (s : State)  : (s.freeIntakePool).engine = s.engine := by
  dsimp only [State.freeIntakePool]
  repeat' split
  all_goals first | rfl | simp
@[simp] theorem State.freeIntakePool_evaluator (s : State)  : (s.freeIntakePool).evaluator = s.evaluator := by
  dsimp only [State.freeIntakePool]
  repeat' split
  all_goals first | rfl | simp
@[simp] theorem State.freeIntakePool_decision (s : State)  : (s.freeIntakePool).decision = s.decision := by
  dsimp only [State.freeIntakePool]
  repeat' split
  all_goals first | rfl | simp
@[simp] theorem State.freeIntakePool_monitor (s : State)  : (s.freeIntakePool).monitor = s.monitor := by
  dsimp only [State.freeIntakePool]
  repeat' split
  all_goals first | rfl | simp
@[simp] theorem State.freeIntakePool_log (s : State)  : (s.freeIntakePool).log = s.log := by
  dsimp only [State.freeIntakePool]
  repeat' split
  all_goals first | rfl | simp
@[simp] theorem State.freeIntakePool_link (s : State)  : (s.freeIntakePool).link = s.link := by
  dsimp only [State.freeIntakePool]
  repeat' split
  all_goals first | rfl | simp
@[simp] theorem State.freeIntakePool_pending (s : State)  : (s.freeIntakePool).pending = s.pending := by
  dsimp only [State.freeIntakePool]
  repeat' split
  all_goals first | rfl | simp
@[simp] theorem State.abandonIntake_now (s : State)  : (s.abandonIntake).now = s.now := by
  dsimp only [State.abandonIntake]
  repeat' split
  all_goals first | rfl | simp
@[simp] theorem State.abandonIntake_pins (s : State)  : (s.abandonIntake).pins = s.pins := by
  dsimp only [State.abandonIntake]
  repeat' split
  all_goals first | rfl | simp
@[simp] theorem State.abandonIntake_flow (s : State)  : (s.abandonIntake).flow = s.flow := by
  dsimp only [State.abandonIntake]
  repeat' split
  all_goals first | rfl | simp
@[simp] theorem State.abandonIntake_slots (s : State)  : (s.abandonIntake).slots = s.slots := by
  dsimp only [State.abandonIntake]
  repeat' split
  all_goals first | rfl | simp
@[simp] theorem State.abandonIntake_align (s : State)  : (s.abandonIntake).align = s.align := by
  dsimp only [State.abandonIntake]
  repeat' split
  all_goals first | rfl | simp
@[simp] theorem State.abandonIntake_engine (s : State)  : (s.abandonIntake).engine = s.engine := by
  dsimp only [State.abandonIntake]
  repeat' split
  all_goals first | rfl | simp
@[simp] theorem State.abandonIntake_evaluator (s : State)  : (s.abandonIntake).evaluator = s.evaluator := by
  dsimp only [State.abandonIntake]
  repeat' split
  all_goals first | rfl | simp
@[simp] theorem State.abandonIntake_decision (s : State)  : (s.abandonIntake).decision = s.decision := by
  dsimp only [State.abandonIntake]
  repeat' split
  all_goals first | rfl | simp
@[simp] theorem State.abandonIntake_monitor (s : State)  : (s.abandonIntake).monitor = s.monitor := by
  dsimp only [State.abandonIntake]
  repeat' split
  all_goals first | rfl | simp
@[simp] theorem State.abandonIntake_log (s : State)  : (s.abandonIntake).log = s.log := by
  dsimp only [State.abandonIntake]
  repeat' split
  all_goals first | rfl | simp
@[simp] theorem State.abandonIntake_link (s : State)  : (s.abandonIntake).link = s.link := by
  dsimp only [State.abandonIntake]
  repeat' split
  all_goals first | rfl | simp
@[simp] theorem State.abandonIntake_pending (s : State)  : (s.abandonIntake).pending = s.pending := by
  dsimp only [State.abandonIntake]
  repeat' split
  all_goals first | rfl | simp
@[simp] theorem State.dropContext_now (s : State) (c : CtxId) : (s.dropContext c).now = s.now := by
  dsimp only [State.dropContext]
  repeat' split
  all_goals first | rfl | simp
@[simp] theorem State.dropContext_pins (s : State) (c : CtxId) : (s.dropContext c).pins = s.pins := by
  dsimp only [State.dropContext]
  repeat' split
  all_goals first | rfl | simp
@[simp] theorem State.dropContext_flow (s : State) (c : CtxId) : (s.dropContext c).flow = s.flow := by
  dsimp only [State.dropContext]
  repeat' split
  all_goals first | rfl | simp
@[simp] theorem State.dropContext_slots (s : State) (c : CtxId) : (s.dropContext c).slots = s.slots := by
  dsimp only [State.dropContext]
  repeat' split
  all_goals first | rfl | simp
@[simp] theorem State.dropContext_align (s : State) (c : CtxId) : (s.dropContext c).align = s.align := by
  dsimp only [State.dropContext]
  repeat' split
  all_goals first | rfl | simp
@[simp] theorem State.dropContext_decision (s : State) (c : CtxId) : (s.dropContext c).decision = s.decision := by
  dsimp only [State.dropContext]
  repeat' split
  all_goals first | rfl | simp
@[simp] theorem State.dropContext_monitor (s : State) (c : CtxId) : (s.dropContext c).monitor = s.monitor := by
  dsimp only [State.dropContext]
  repeat' split
  all_goals first | rfl | simp
@[simp] theorem State.dropContext_log (s : State) (c : CtxId) : (s.dropContext c).log = s.log := by
  dsimp only [State.dropContext]
  repeat' split
  all_goals first | rfl | simp
@[simp] theorem State.dropContext_link (s : State) (c : CtxId) : (s.dropContext c).link = s.link := by
  dsimp only [State.dropContext]
  repeat' split
  all_goals first | rfl | simp
@[simp] theorem State.dropContext_pending (s : State) (c : CtxId) : (s.dropContext c).pending = s.pending := by
  dsimp only [State.dropContext]
  repeat' split
  all_goals first | rfl | simp

/-! ### Lines -/

@[simp] theorem State.releaseTest_now (s : State)  : (s.releaseTest).now = s.now := by
  dsimp only [State.releaseTest]
  repeat' split
  all_goals first | rfl | simp
@[simp] theorem State.releaseTest_pins (s : State)  : (s.releaseTest).pins = s.pins := by
  dsimp only [State.releaseTest]
  repeat' split
  all_goals first | rfl | simp
@[simp] theorem State.releaseTest_slots (s : State)  : (s.releaseTest).slots = s.slots := by
  dsimp only [State.releaseTest]
  repeat' split
  all_goals first | rfl | simp
@[simp] theorem State.releaseTest_align (s : State)  : (s.releaseTest).align = s.align := by
  dsimp only [State.releaseTest]
  repeat' split
  all_goals first | rfl | simp
@[simp] theorem State.releaseTest_ports (s : State)  : (s.releaseTest).ports = s.ports := by
  dsimp only [State.releaseTest]
  repeat' split
  all_goals first | rfl | simp
@[simp] theorem State.releaseTest_arbiter (s : State)  : (s.releaseTest).arbiter = s.arbiter := by
  dsimp only [State.releaseTest]
  repeat' split
  all_goals first | rfl | simp
@[simp] theorem State.releaseTest_engine (s : State)  : (s.releaseTest).engine = s.engine := by
  dsimp only [State.releaseTest]
  repeat' split
  all_goals first | rfl | simp
@[simp] theorem State.releaseTest_evaluator (s : State)  : (s.releaseTest).evaluator = s.evaluator := by
  dsimp only [State.releaseTest]
  repeat' split
  all_goals first | rfl | simp
@[simp] theorem State.releaseTest_decision (s : State)  : (s.releaseTest).decision = s.decision := by
  dsimp only [State.releaseTest]
  repeat' split
  all_goals first | rfl | simp
@[simp] theorem State.releaseTest_monitor (s : State)  : (s.releaseTest).monitor = s.monitor := by
  dsimp only [State.releaseTest]
  repeat' split
  all_goals first | rfl | simp
@[simp] theorem State.releaseTest_log (s : State)  : (s.releaseTest).log = s.log := by
  dsimp only [State.releaseTest]
  repeat' split
  all_goals first | rfl | simp
@[simp] theorem State.releaseTest_link (s : State)  : (s.releaseTest).link = s.link := by
  dsimp only [State.releaseTest]
  repeat' split
  all_goals first | rfl | simp
@[simp] theorem State.releaseTest_pending (s : State)  : (s.releaseTest).pending = s.pending := by
  dsimp only [State.releaseTest]
  repeat' split
  all_goals first | rfl | simp
@[simp] theorem State.driveRelease_now (s : State)  : (s.driveRelease).now = s.now := by
  dsimp only [State.driveRelease]
  repeat' split
  all_goals first | rfl | simp
@[simp] theorem State.driveRelease_pins (s : State)  : (s.driveRelease).pins = s.pins := by
  dsimp only [State.driveRelease]
  repeat' split
  all_goals first | rfl | simp
@[simp] theorem State.driveRelease_slots (s : State)  : (s.driveRelease).slots = s.slots := by
  dsimp only [State.driveRelease]
  repeat' split
  all_goals first | rfl | simp
@[simp] theorem State.driveRelease_align (s : State)  : (s.driveRelease).align = s.align := by
  dsimp only [State.driveRelease]
  repeat' split
  all_goals first | rfl | simp
@[simp] theorem State.driveRelease_ports (s : State)  : (s.driveRelease).ports = s.ports := by
  dsimp only [State.driveRelease]
  repeat' split
  all_goals first | rfl | simp
@[simp] theorem State.driveRelease_arbiter (s : State)  : (s.driveRelease).arbiter = s.arbiter := by
  dsimp only [State.driveRelease]
  repeat' split
  all_goals first | rfl | simp
@[simp] theorem State.driveRelease_engine (s : State)  : (s.driveRelease).engine = s.engine := by
  dsimp only [State.driveRelease]
  repeat' split
  all_goals first | rfl | simp
@[simp] theorem State.driveRelease_evaluator (s : State)  : (s.driveRelease).evaluator = s.evaluator := by
  dsimp only [State.driveRelease]
  repeat' split
  all_goals first | rfl | simp
@[simp] theorem State.driveRelease_decision (s : State)  : (s.driveRelease).decision = s.decision := by
  dsimp only [State.driveRelease]
  repeat' split
  all_goals first | rfl | simp
@[simp] theorem State.driveRelease_monitor (s : State)  : (s.driveRelease).monitor = s.monitor := by
  dsimp only [State.driveRelease]
  repeat' split
  all_goals first | rfl | simp
@[simp] theorem State.driveRelease_log (s : State)  : (s.driveRelease).log = s.log := by
  dsimp only [State.driveRelease]
  repeat' split
  all_goals first | rfl | simp
@[simp] theorem State.driveRelease_link (s : State)  : (s.driveRelease).link = s.link := by
  dsimp only [State.driveRelease]
  repeat' split
  all_goals first | rfl | simp
@[simp] theorem State.driveRelease_pending (s : State)  : (s.driveRelease).pending = s.pending := by
  dsimp only [State.driveRelease]
  repeat' split
  all_goals first | rfl | simp
@[simp] theorem State.driveShift_now (s : State)  : (s.driveShift).now = s.now := by
  dsimp only [State.driveShift]
  repeat' split
  all_goals first | rfl | simp
@[simp] theorem State.driveShift_pins (s : State)  : (s.driveShift).pins = s.pins := by
  dsimp only [State.driveShift]
  repeat' split
  all_goals first | rfl | simp
@[simp] theorem State.driveShift_slots (s : State)  : (s.driveShift).slots = s.slots := by
  dsimp only [State.driveShift]
  repeat' split
  all_goals first | rfl | simp
@[simp] theorem State.driveShift_align (s : State)  : (s.driveShift).align = s.align := by
  dsimp only [State.driveShift]
  repeat' split
  all_goals first | rfl | simp
@[simp] theorem State.driveShift_ports (s : State)  : (s.driveShift).ports = s.ports := by
  dsimp only [State.driveShift]
  repeat' split
  all_goals first | rfl | simp
@[simp] theorem State.driveShift_arbiter (s : State)  : (s.driveShift).arbiter = s.arbiter := by
  dsimp only [State.driveShift]
  repeat' split
  all_goals first | rfl | simp
@[simp] theorem State.driveShift_engine (s : State)  : (s.driveShift).engine = s.engine := by
  dsimp only [State.driveShift]
  repeat' split
  all_goals first | rfl | simp
@[simp] theorem State.driveShift_evaluator (s : State)  : (s.driveShift).evaluator = s.evaluator := by
  dsimp only [State.driveShift]
  repeat' split
  all_goals first | rfl | simp
@[simp] theorem State.driveShift_decision (s : State)  : (s.driveShift).decision = s.decision := by
  dsimp only [State.driveShift]
  repeat' split
  all_goals first | rfl | simp
@[simp] theorem State.driveShift_monitor (s : State)  : (s.driveShift).monitor = s.monitor := by
  dsimp only [State.driveShift]
  repeat' split
  all_goals first | rfl | simp
@[simp] theorem State.driveShift_log (s : State)  : (s.driveShift).log = s.log := by
  dsimp only [State.driveShift]
  repeat' split
  all_goals first | rfl | simp
@[simp] theorem State.driveShift_link (s : State)  : (s.driveShift).link = s.link := by
  dsimp only [State.driveShift]
  repeat' split
  all_goals first | rfl | simp
@[simp] theorem State.driveShift_pending (s : State)  : (s.driveShift).pending = s.pending := by
  dsimp only [State.driveShift]
  repeat' split
  all_goals first | rfl | simp
@[simp] theorem State.driveEntry_now (s : State)  : (s.driveEntry).now = s.now := by
  dsimp only [State.driveEntry]
  repeat' split
  all_goals first | rfl | simp
@[simp] theorem State.driveEntry_pins (s : State)  : (s.driveEntry).pins = s.pins := by
  dsimp only [State.driveEntry]
  repeat' split
  all_goals first | rfl | simp
@[simp] theorem State.driveEntry_slots (s : State)  : (s.driveEntry).slots = s.slots := by
  dsimp only [State.driveEntry]
  repeat' split
  all_goals first | rfl | simp
@[simp] theorem State.driveEntry_align (s : State)  : (s.driveEntry).align = s.align := by
  dsimp only [State.driveEntry]
  repeat' split
  all_goals first | rfl | simp
@[simp] theorem State.driveEntry_ports (s : State)  : (s.driveEntry).ports = s.ports := by
  dsimp only [State.driveEntry]
  repeat' split
  all_goals first | rfl | simp
@[simp] theorem State.driveEntry_arbiter (s : State)  : (s.driveEntry).arbiter = s.arbiter := by
  dsimp only [State.driveEntry]
  repeat' split
  all_goals first | rfl | simp
@[simp] theorem State.driveEntry_engine (s : State)  : (s.driveEntry).engine = s.engine := by
  dsimp only [State.driveEntry]
  repeat' split
  all_goals first | rfl | simp
@[simp] theorem State.driveEntry_evaluator (s : State)  : (s.driveEntry).evaluator = s.evaluator := by
  dsimp only [State.driveEntry]
  repeat' split
  all_goals first | rfl | simp
@[simp] theorem State.driveEntry_decision (s : State)  : (s.driveEntry).decision = s.decision := by
  dsimp only [State.driveEntry]
  repeat' split
  all_goals first | rfl | simp
@[simp] theorem State.driveEntry_monitor (s : State)  : (s.driveEntry).monitor = s.monitor := by
  dsimp only [State.driveEntry]
  repeat' split
  all_goals first | rfl | simp
@[simp] theorem State.driveEntry_log (s : State)  : (s.driveEntry).log = s.log := by
  dsimp only [State.driveEntry]
  repeat' split
  all_goals first | rfl | simp
@[simp] theorem State.driveEntry_link (s : State)  : (s.driveEntry).link = s.link := by
  dsimp only [State.driveEntry]
  repeat' split
  all_goals first | rfl | simp
@[simp] theorem State.driveEntry_pending (s : State)  : (s.driveEntry).pending = s.pending := by
  dsimp only [State.driveEntry]
  repeat' split
  all_goals first | rfl | simp
@[simp] theorem State.driveLines_now (s : State)  : (s.driveLines).now = s.now := by
  dsimp only [State.driveLines]
  repeat' split
  all_goals first | rfl | simp
@[simp] theorem State.driveLines_pins (s : State)  : (s.driveLines).pins = s.pins := by
  dsimp only [State.driveLines]
  repeat' split
  all_goals first | rfl | simp
@[simp] theorem State.driveLines_slots (s : State)  : (s.driveLines).slots = s.slots := by
  dsimp only [State.driveLines]
  repeat' split
  all_goals first | rfl | simp
@[simp] theorem State.driveLines_align (s : State)  : (s.driveLines).align = s.align := by
  dsimp only [State.driveLines]
  repeat' split
  all_goals first | rfl | simp
@[simp] theorem State.driveLines_ports (s : State)  : (s.driveLines).ports = s.ports := by
  dsimp only [State.driveLines]
  repeat' split
  all_goals first | rfl | simp
@[simp] theorem State.driveLines_arbiter (s : State)  : (s.driveLines).arbiter = s.arbiter := by
  dsimp only [State.driveLines]
  repeat' split
  all_goals first | rfl | simp
@[simp] theorem State.driveLines_engine (s : State)  : (s.driveLines).engine = s.engine := by
  dsimp only [State.driveLines]
  repeat' split
  all_goals first | rfl | simp
@[simp] theorem State.driveLines_evaluator (s : State)  : (s.driveLines).evaluator = s.evaluator := by
  dsimp only [State.driveLines]
  repeat' split
  all_goals first | rfl | simp
@[simp] theorem State.driveLines_decision (s : State)  : (s.driveLines).decision = s.decision := by
  dsimp only [State.driveLines]
  repeat' split
  all_goals first | rfl | simp
@[simp] theorem State.driveLines_monitor (s : State)  : (s.driveLines).monitor = s.monitor := by
  dsimp only [State.driveLines]
  repeat' split
  all_goals first | rfl | simp
@[simp] theorem State.driveLines_log (s : State)  : (s.driveLines).log = s.log := by
  dsimp only [State.driveLines]
  repeat' split
  all_goals first | rfl | simp
@[simp] theorem State.driveLines_link (s : State)  : (s.driveLines).link = s.link := by
  dsimp only [State.driveLines]
  repeat' split
  all_goals first | rfl | simp
@[simp] theorem State.driveLines_pending (s : State)  : (s.driveLines).pending = s.pending := by
  dsimp only [State.driveLines]
  repeat' split
  all_goals first | rfl | simp

/-! ### Monitor -/

@[simp] theorem State.feedDrift_now (s : State) (k : SlotId) (cls x : Nat) : (s.feedDrift k cls x).now = s.now := by
  dsimp only [State.feedDrift]
  repeat' split
  all_goals first | rfl | simp
@[simp] theorem State.feedDrift_pins (s : State) (k : SlotId) (cls x : Nat) : (s.feedDrift k cls x).pins = s.pins := by
  dsimp only [State.feedDrift]
  repeat' split
  all_goals first | rfl | simp
@[simp] theorem State.feedDrift_flow (s : State) (k : SlotId) (cls x : Nat) : (s.feedDrift k cls x).flow = s.flow := by
  dsimp only [State.feedDrift]
  repeat' split
  all_goals first | rfl | simp
@[simp] theorem State.feedDrift_slots (s : State) (k : SlotId) (cls x : Nat) : (s.feedDrift k cls x).slots = s.slots := by
  dsimp only [State.feedDrift]
  repeat' split
  all_goals first | rfl | simp
@[simp] theorem State.feedDrift_align (s : State) (k : SlotId) (cls x : Nat) : (s.feedDrift k cls x).align = s.align := by
  dsimp only [State.feedDrift]
  repeat' split
  all_goals first | rfl | simp
@[simp] theorem State.feedDrift_ports (s : State) (k : SlotId) (cls x : Nat) : (s.feedDrift k cls x).ports = s.ports := by
  dsimp only [State.feedDrift]
  repeat' split
  all_goals first | rfl | simp
@[simp] theorem State.feedDrift_arbiter (s : State) (k : SlotId) (cls x : Nat) : (s.feedDrift k cls x).arbiter = s.arbiter := by
  dsimp only [State.feedDrift]
  repeat' split
  all_goals first | rfl | simp
@[simp] theorem State.feedDrift_engine (s : State) (k : SlotId) (cls x : Nat) : (s.feedDrift k cls x).engine = s.engine := by
  dsimp only [State.feedDrift]
  repeat' split
  all_goals first | rfl | simp
@[simp] theorem State.feedDrift_evaluator (s : State) (k : SlotId) (cls x : Nat) : (s.feedDrift k cls x).evaluator = s.evaluator := by
  dsimp only [State.feedDrift]
  repeat' split
  all_goals first | rfl | simp
@[simp] theorem State.feedDrift_decision (s : State) (k : SlotId) (cls x : Nat) : (s.feedDrift k cls x).decision = s.decision := by
  dsimp only [State.feedDrift]
  repeat' split
  all_goals first | rfl | simp
@[simp] theorem State.feedDrift_log (s : State) (k : SlotId) (cls x : Nat) : (s.feedDrift k cls x).log = s.log := by
  dsimp only [State.feedDrift]
  repeat' split
  all_goals first | rfl | simp
@[simp] theorem State.feedDrift_pending (s : State) (k : SlotId) (cls x : Nat) : (s.feedDrift k cls x).pending = s.pending := by
  dsimp only [State.feedDrift]
  repeat' split
  all_goals first | rfl | simp
@[simp] theorem State.unprime_now (s : State) (k : SlotId) (cls : Nat) : (s.unprime k cls).now = s.now := by
  dsimp only [State.unprime]
  repeat' split
  all_goals first | rfl | simp
@[simp] theorem State.unprime_pins (s : State) (k : SlotId) (cls : Nat) : (s.unprime k cls).pins = s.pins := by
  dsimp only [State.unprime]
  repeat' split
  all_goals first | rfl | simp
@[simp] theorem State.unprime_flow (s : State) (k : SlotId) (cls : Nat) : (s.unprime k cls).flow = s.flow := by
  dsimp only [State.unprime]
  repeat' split
  all_goals first | rfl | simp
@[simp] theorem State.unprime_slots (s : State) (k : SlotId) (cls : Nat) : (s.unprime k cls).slots = s.slots := by
  dsimp only [State.unprime]
  repeat' split
  all_goals first | rfl | simp
@[simp] theorem State.unprime_align (s : State) (k : SlotId) (cls : Nat) : (s.unprime k cls).align = s.align := by
  dsimp only [State.unprime]
  repeat' split
  all_goals first | rfl | simp
@[simp] theorem State.unprime_ports (s : State) (k : SlotId) (cls : Nat) : (s.unprime k cls).ports = s.ports := by
  dsimp only [State.unprime]
  repeat' split
  all_goals first | rfl | simp
@[simp] theorem State.unprime_arbiter (s : State) (k : SlotId) (cls : Nat) : (s.unprime k cls).arbiter = s.arbiter := by
  dsimp only [State.unprime]
  repeat' split
  all_goals first | rfl | simp
@[simp] theorem State.unprime_engine (s : State) (k : SlotId) (cls : Nat) : (s.unprime k cls).engine = s.engine := by
  dsimp only [State.unprime]
  repeat' split
  all_goals first | rfl | simp
@[simp] theorem State.unprime_evaluator (s : State) (k : SlotId) (cls : Nat) : (s.unprime k cls).evaluator = s.evaluator := by
  dsimp only [State.unprime]
  repeat' split
  all_goals first | rfl | simp
@[simp] theorem State.unprime_decision (s : State) (k : SlotId) (cls : Nat) : (s.unprime k cls).decision = s.decision := by
  dsimp only [State.unprime]
  repeat' split
  all_goals first | rfl | simp
@[simp] theorem State.unprime_log (s : State) (k : SlotId) (cls : Nat) : (s.unprime k cls).log = s.log := by
  dsimp only [State.unprime]
  repeat' split
  all_goals first | rfl | simp
@[simp] theorem State.unprime_pending (s : State) (k : SlotId) (cls : Nat) : (s.unprime k cls).pending = s.pending := by
  dsimp only [State.unprime]
  repeat' split
  all_goals first | rfl | simp
@[simp] theorem State.unprimeRun_now (s : State) (k : SlotId) (first n : Nat) : (s.unprimeRun k first n).now = s.now := by
  unfold State.unprimeRun
  exact foldl_keeps (fun t => t.now) _ _ s (fun t a => State.unprime_now t k (first + a))
@[simp] theorem State.unprimeRun_pins (s : State) (k : SlotId) (first n : Nat) : (s.unprimeRun k first n).pins = s.pins := by
  unfold State.unprimeRun
  exact foldl_keeps (fun t => t.pins) _ _ s (fun t a => State.unprime_pins t k (first + a))
@[simp] theorem State.unprimeRun_flow (s : State) (k : SlotId) (first n : Nat) : (s.unprimeRun k first n).flow = s.flow := by
  unfold State.unprimeRun
  exact foldl_keeps (fun t => t.flow) _ _ s (fun t a => State.unprime_flow t k (first + a))
@[simp] theorem State.unprimeRun_slots (s : State) (k : SlotId) (first n : Nat) : (s.unprimeRun k first n).slots = s.slots := by
  unfold State.unprimeRun
  exact foldl_keeps (fun t => t.slots) _ _ s (fun t a => State.unprime_slots t k (first + a))
@[simp] theorem State.unprimeRun_align (s : State) (k : SlotId) (first n : Nat) : (s.unprimeRun k first n).align = s.align := by
  unfold State.unprimeRun
  exact foldl_keeps (fun t => t.align) _ _ s (fun t a => State.unprime_align t k (first + a))
@[simp] theorem State.unprimeRun_ports (s : State) (k : SlotId) (first n : Nat) : (s.unprimeRun k first n).ports = s.ports := by
  unfold State.unprimeRun
  exact foldl_keeps (fun t => t.ports) _ _ s (fun t a => State.unprime_ports t k (first + a))
@[simp] theorem State.unprimeRun_arbiter (s : State) (k : SlotId) (first n : Nat) : (s.unprimeRun k first n).arbiter = s.arbiter := by
  unfold State.unprimeRun
  exact foldl_keeps (fun t => t.arbiter) _ _ s (fun t a => State.unprime_arbiter t k (first + a))
@[simp] theorem State.unprimeRun_engine (s : State) (k : SlotId) (first n : Nat) : (s.unprimeRun k first n).engine = s.engine := by
  unfold State.unprimeRun
  exact foldl_keeps (fun t => t.engine) _ _ s (fun t a => State.unprime_engine t k (first + a))
@[simp] theorem State.unprimeRun_evaluator (s : State) (k : SlotId) (first n : Nat) : (s.unprimeRun k first n).evaluator = s.evaluator := by
  unfold State.unprimeRun
  exact foldl_keeps (fun t => t.evaluator) _ _ s (fun t a => State.unprime_evaluator t k (first + a))
@[simp] theorem State.unprimeRun_decision (s : State) (k : SlotId) (first n : Nat) : (s.unprimeRun k first n).decision = s.decision := by
  unfold State.unprimeRun
  exact foldl_keeps (fun t => t.decision) _ _ s (fun t a => State.unprime_decision t k (first + a))
@[simp] theorem State.unprimeRun_log (s : State) (k : SlotId) (first n : Nat) : (s.unprimeRun k first n).log = s.log := by
  unfold State.unprimeRun
  exact foldl_keeps (fun t => t.log) _ _ s (fun t a => State.unprime_log t k (first + a))
@[simp] theorem State.unprimeRun_pending (s : State) (k : SlotId) (first n : Nat) : (s.unprimeRun k first n).pending = s.pending := by
  unfold State.unprimeRun
  exact foldl_keeps (fun t => t.pending) _ _ s (fun t a => State.unprime_pending t k (first + a))
@[simp] theorem State.repeatSite_now (s : State)  : (s.repeatSite).now = s.now := by
  dsimp only [State.repeatSite]
  repeat' split
  all_goals first | rfl | simp
@[simp] theorem State.repeatSite_pins (s : State)  : (s.repeatSite).pins = s.pins := by
  dsimp only [State.repeatSite]
  repeat' split
  all_goals first | rfl | simp
@[simp] theorem State.repeatSite_flow (s : State)  : (s.repeatSite).flow = s.flow := by
  dsimp only [State.repeatSite]
  repeat' split
  all_goals first | rfl | simp
@[simp] theorem State.repeatSite_slots (s : State)  : (s.repeatSite).slots = s.slots := by
  dsimp only [State.repeatSite]
  repeat' split
  all_goals first | rfl | simp
@[simp] theorem State.repeatSite_align (s : State)  : (s.repeatSite).align = s.align := by
  dsimp only [State.repeatSite]
  repeat' split
  all_goals first | rfl | simp
@[simp] theorem State.repeatSite_ports (s : State)  : (s.repeatSite).ports = s.ports := by
  dsimp only [State.repeatSite]
  repeat' split
  all_goals first | rfl | simp
@[simp] theorem State.repeatSite_arbiter (s : State)  : (s.repeatSite).arbiter = s.arbiter := by
  dsimp only [State.repeatSite]
  repeat' split
  all_goals first | rfl | simp
@[simp] theorem State.repeatSite_engine (s : State)  : (s.repeatSite).engine = s.engine := by
  dsimp only [State.repeatSite]
  repeat' split
  all_goals first | rfl | simp
@[simp] theorem State.repeatSite_evaluator (s : State)  : (s.repeatSite).evaluator = s.evaluator := by
  dsimp only [State.repeatSite]
  repeat' split
  all_goals first | rfl | simp
@[simp] theorem State.repeatSite_decision (s : State)  : (s.repeatSite).decision = s.decision := by
  dsimp only [State.repeatSite]
  repeat' split
  all_goals first | rfl | simp
@[simp] theorem State.repeatSite_log (s : State)  : (s.repeatSite).log = s.log := by
  dsimp only [State.repeatSite]
  repeat' split
  all_goals first | rfl | simp
@[simp] theorem State.repeatSite_pending (s : State)  : (s.repeatSite).pending = s.pending := by
  dsimp only [State.repeatSite]
  repeat' split
  all_goals first | rfl | simp
@[simp] theorem State.recognize_now (s : State) (code : BitVec 4) : (s.recognize code).now = s.now := by
  dsimp only [State.recognize]
  repeat' split
  all_goals first | rfl | simp
@[simp] theorem State.recognize_pins (s : State) (code : BitVec 4) : (s.recognize code).pins = s.pins := by
  dsimp only [State.recognize]
  repeat' split
  all_goals first | rfl | simp
@[simp] theorem State.recognize_flow (s : State) (code : BitVec 4) : (s.recognize code).flow = s.flow := by
  dsimp only [State.recognize]
  repeat' split
  all_goals first | rfl | simp
@[simp] theorem State.recognize_slots (s : State) (code : BitVec 4) : (s.recognize code).slots = s.slots := by
  dsimp only [State.recognize]
  repeat' split
  all_goals first | rfl | simp
@[simp] theorem State.recognize_align (s : State) (code : BitVec 4) : (s.recognize code).align = s.align := by
  dsimp only [State.recognize]
  repeat' split
  all_goals first | rfl | simp
@[simp] theorem State.recognize_ports (s : State) (code : BitVec 4) : (s.recognize code).ports = s.ports := by
  dsimp only [State.recognize]
  repeat' split
  all_goals first | rfl | simp
@[simp] theorem State.recognize_arbiter (s : State) (code : BitVec 4) : (s.recognize code).arbiter = s.arbiter := by
  dsimp only [State.recognize]
  repeat' split
  all_goals first | rfl | simp
@[simp] theorem State.recognize_engine (s : State) (code : BitVec 4) : (s.recognize code).engine = s.engine := by
  dsimp only [State.recognize]
  repeat' split
  all_goals first | rfl | simp
@[simp] theorem State.recognize_evaluator (s : State) (code : BitVec 4) : (s.recognize code).evaluator = s.evaluator := by
  dsimp only [State.recognize]
  repeat' split
  all_goals first | rfl | simp
@[simp] theorem State.recognize_decision (s : State) (code : BitVec 4) : (s.recognize code).decision = s.decision := by
  dsimp only [State.recognize]
  repeat' split
  all_goals first | rfl | simp
@[simp] theorem State.recognize_log (s : State) (code : BitVec 4) : (s.recognize code).log = s.log := by
  dsimp only [State.recognize]
  repeat' split
  all_goals first | rfl | simp
@[simp] theorem State.recognize_pending (s : State) (code : BitVec 4) : (s.recognize code).pending = s.pending := by
  dsimp only [State.recognize]
  repeat' split
  all_goals first | rfl | simp
@[simp] theorem State.sampleOven_flow (s : State) (code : BitVec 4) : (s.sampleOven code).flow = s.flow := by
  dsimp only [State.sampleOven]
  repeat' split
  all_goals first | rfl | simp
@[simp] theorem State.sampleOven_slots (s : State) (code : BitVec 4) : (s.sampleOven code).slots = s.slots := by
  dsimp only [State.sampleOven]
  repeat' split
  all_goals first | rfl | simp
@[simp] theorem State.sampleOven_align (s : State) (code : BitVec 4) : (s.sampleOven code).align = s.align := by
  dsimp only [State.sampleOven]
  repeat' split
  all_goals first | rfl | simp
@[simp] theorem State.sampleOven_ports (s : State) (code : BitVec 4) : (s.sampleOven code).ports = s.ports := by
  dsimp only [State.sampleOven]
  repeat' split
  all_goals first | rfl | simp
@[simp] theorem State.sampleOven_arbiter (s : State) (code : BitVec 4) : (s.sampleOven code).arbiter = s.arbiter := by
  dsimp only [State.sampleOven]
  repeat' split
  all_goals first | rfl | simp
@[simp] theorem State.sampleOven_engine (s : State) (code : BitVec 4) : (s.sampleOven code).engine = s.engine := by
  dsimp only [State.sampleOven]
  repeat' split
  all_goals first | rfl | simp
@[simp] theorem State.sampleOven_evaluator (s : State) (code : BitVec 4) : (s.sampleOven code).evaluator = s.evaluator := by
  dsimp only [State.sampleOven]
  repeat' split
  all_goals first | rfl | simp
@[simp] theorem State.sampleOven_decision (s : State) (code : BitVec 4) : (s.sampleOven code).decision = s.decision := by
  dsimp only [State.sampleOven]
  repeat' split
  all_goals first | rfl | simp
@[simp] theorem State.sampleOven_log (s : State) (code : BitVec 4) : (s.sampleOven code).log = s.log := by
  dsimp only [State.sampleOven]
  repeat' split
  all_goals first | rfl | simp
@[simp] theorem State.sampleOven_pending (s : State) (code : BitVec 4) : (s.sampleOven code).pending = s.pending := by
  dsimp only [State.sampleOven]
  repeat' split
  all_goals first | rfl | simp
@[simp] theorem State.countDownHold_now (s : State)  : (s.countDownHold).now = s.now := by
  dsimp only [State.countDownHold]
  repeat' split
  all_goals first | rfl | simp
@[simp] theorem State.countDownHold_pins (s : State)  : (s.countDownHold).pins = s.pins := by
  dsimp only [State.countDownHold]
  repeat' split
  all_goals first | rfl | simp
@[simp] theorem State.countDownHold_flow (s : State)  : (s.countDownHold).flow = s.flow := by
  dsimp only [State.countDownHold]
  repeat' split
  all_goals first | rfl | simp
@[simp] theorem State.countDownHold_slots (s : State)  : (s.countDownHold).slots = s.slots := by
  dsimp only [State.countDownHold]
  repeat' split
  all_goals first | rfl | simp
@[simp] theorem State.countDownHold_align (s : State)  : (s.countDownHold).align = s.align := by
  dsimp only [State.countDownHold]
  repeat' split
  all_goals first | rfl | simp
@[simp] theorem State.countDownHold_ports (s : State)  : (s.countDownHold).ports = s.ports := by
  dsimp only [State.countDownHold]
  repeat' split
  all_goals first | rfl | simp
@[simp] theorem State.countDownHold_arbiter (s : State)  : (s.countDownHold).arbiter = s.arbiter := by
  dsimp only [State.countDownHold]
  repeat' split
  all_goals first | rfl | simp
@[simp] theorem State.countDownHold_engine (s : State)  : (s.countDownHold).engine = s.engine := by
  dsimp only [State.countDownHold]
  repeat' split
  all_goals first | rfl | simp
@[simp] theorem State.countDownHold_evaluator (s : State)  : (s.countDownHold).evaluator = s.evaluator := by
  dsimp only [State.countDownHold]
  repeat' split
  all_goals first | rfl | simp
@[simp] theorem State.countDownHold_decision (s : State)  : (s.countDownHold).decision = s.decision := by
  dsimp only [State.countDownHold]
  repeat' split
  all_goals first | rfl | simp
@[simp] theorem State.countDownHold_log (s : State)  : (s.countDownHold).log = s.log := by
  dsimp only [State.countDownHold]
  repeat' split
  all_goals first | rfl | simp
@[simp] theorem State.countDownHold_link (s : State)  : (s.countDownHold).link = s.link := by
  dsimp only [State.countDownHold]
  repeat' split
  all_goals first | rfl | simp
@[simp] theorem State.countDownHold_pending (s : State)  : (s.countDownHold).pending = s.pending := by
  dsimp only [State.countDownHold]
  repeat' split
  all_goals first | rfl | simp

/-! ### Decision -/

@[simp] theorem State.contextDecided_now (s : State) (c : CtxId) : (s.contextDecided c).now = s.now := by
  dsimp only [State.contextDecided]
  repeat' split
  all_goals first | rfl | simp
@[simp] theorem State.contextDecided_pins (s : State) (c : CtxId) : (s.contextDecided c).pins = s.pins := by
  dsimp only [State.contextDecided]
  repeat' split
  all_goals first | rfl | simp
@[simp] theorem State.contextDecided_align (s : State) (c : CtxId) : (s.contextDecided c).align = s.align := by
  dsimp only [State.contextDecided]
  repeat' split
  all_goals first | rfl | simp
@[simp] theorem State.contextDecided_ports (s : State) (c : CtxId) : (s.contextDecided c).ports = s.ports := by
  dsimp only [State.contextDecided]
  repeat' split
  all_goals first | rfl | simp
@[simp] theorem State.contextDecided_arbiter (s : State) (c : CtxId) : (s.contextDecided c).arbiter = s.arbiter := by
  dsimp only [State.contextDecided]
  repeat' split
  all_goals first | rfl | simp
@[simp] theorem State.contextDecided_engine (s : State) (c : CtxId) : (s.contextDecided c).engine = s.engine := by
  dsimp only [State.contextDecided]
  repeat' split
  all_goals first | rfl | simp
@[simp] theorem State.contextDecided_evaluator (s : State) (c : CtxId) : (s.contextDecided c).evaluator = s.evaluator := by
  dsimp only [State.contextDecided]
  repeat' split
  all_goals first | rfl | simp
@[simp] theorem State.contextDecided_monitor (s : State) (c : CtxId) : (s.contextDecided c).monitor = s.monitor := by
  dsimp only [State.contextDecided]
  repeat' split
  all_goals first | rfl | simp
@[simp] theorem State.contextDecided_log (s : State) (c : CtxId) : (s.contextDecided c).log = s.log := by
  dsimp only [State.contextDecided]
  repeat' split
  all_goals first | rfl | simp
@[simp] theorem State.contextDecided_pending (s : State) (c : CtxId) : (s.contextDecided c).pending = s.pending := by
  dsimp only [State.contextDecided]
  repeat' split
  all_goals first | rfl | simp
@[simp] theorem State.makeDecision_now (s : State) (c : CtxId) (kind : DecisionKind) (time : Nat) : (s.makeDecision c kind time).now = s.now := by
  dsimp only [State.makeDecision]
  repeat' split
  all_goals first | rfl | simp
@[simp] theorem State.makeDecision_pins (s : State) (c : CtxId) (kind : DecisionKind) (time : Nat) : (s.makeDecision c kind time).pins = s.pins := by
  dsimp only [State.makeDecision]
  repeat' split
  all_goals first | rfl | simp
@[simp] theorem State.makeDecision_align (s : State) (c : CtxId) (kind : DecisionKind) (time : Nat) : (s.makeDecision c kind time).align = s.align := by
  dsimp only [State.makeDecision]
  repeat' split
  all_goals first | rfl | simp
@[simp] theorem State.makeDecision_ports (s : State) (c : CtxId) (kind : DecisionKind) (time : Nat) : (s.makeDecision c kind time).ports = s.ports := by
  dsimp only [State.makeDecision]
  repeat' split
  all_goals first | rfl | simp
@[simp] theorem State.makeDecision_arbiter (s : State) (c : CtxId) (kind : DecisionKind) (time : Nat) : (s.makeDecision c kind time).arbiter = s.arbiter := by
  dsimp only [State.makeDecision]
  repeat' split
  all_goals first | rfl | simp
@[simp] theorem State.makeDecision_engine (s : State) (c : CtxId) (kind : DecisionKind) (time : Nat) : (s.makeDecision c kind time).engine = s.engine := by
  dsimp only [State.makeDecision]
  repeat' split
  all_goals first | rfl | simp
@[simp] theorem State.makeDecision_evaluator (s : State) (c : CtxId) (kind : DecisionKind) (time : Nat) : (s.makeDecision c kind time).evaluator = s.evaluator := by
  dsimp only [State.makeDecision]
  repeat' split
  all_goals first | rfl | simp
@[simp] theorem State.makeDecision_pending (s : State) (c : CtxId) (kind : DecisionKind) (time : Nat) : (s.makeDecision c kind time).pending = s.pending := by
  dsimp only [State.makeDecision]
  repeat' split
  all_goals first | rfl | simp
@[simp] theorem State.reportComplete_now (s : State) (c : CtxId) : (s.reportComplete c).now = s.now := by
  dsimp only [State.reportComplete]
  repeat' split
  all_goals first | rfl | simp
@[simp] theorem State.reportComplete_pins (s : State) (c : CtxId) : (s.reportComplete c).pins = s.pins := by
  dsimp only [State.reportComplete]
  repeat' split
  all_goals first | rfl | simp
@[simp] theorem State.reportComplete_align (s : State) (c : CtxId) : (s.reportComplete c).align = s.align := by
  dsimp only [State.reportComplete]
  repeat' split
  all_goals first | rfl | simp
@[simp] theorem State.reportComplete_ports (s : State) (c : CtxId) : (s.reportComplete c).ports = s.ports := by
  dsimp only [State.reportComplete]
  repeat' split
  all_goals first | rfl | simp
@[simp] theorem State.reportComplete_arbiter (s : State) (c : CtxId) : (s.reportComplete c).arbiter = s.arbiter := by
  dsimp only [State.reportComplete]
  repeat' split
  all_goals first | rfl | simp
@[simp] theorem State.reportComplete_engine (s : State) (c : CtxId) : (s.reportComplete c).engine = s.engine := by
  dsimp only [State.reportComplete]
  repeat' split
  all_goals first | rfl | simp
@[simp] theorem State.reportComplete_evaluator (s : State) (c : CtxId) : (s.reportComplete c).evaluator = s.evaluator := by
  dsimp only [State.reportComplete]
  repeat' split
  all_goals first | rfl | simp
@[simp] theorem State.reportComplete_pending (s : State) (c : CtxId) : (s.reportComplete c).pending = s.pending := by
  dsimp only [State.reportComplete]
  repeat' split
  all_goals first | rfl | simp
@[simp] theorem State.enterJudging_now (s : State) (c : CtxId) : (s.enterJudging c).now = s.now := by
  dsimp only [State.enterJudging]
  repeat' split
  all_goals first | rfl | simp
@[simp] theorem State.enterJudging_pins (s : State) (c : CtxId) : (s.enterJudging c).pins = s.pins := by
  dsimp only [State.enterJudging]
  repeat' split
  all_goals first | rfl | simp
@[simp] theorem State.enterJudging_align (s : State) (c : CtxId) : (s.enterJudging c).align = s.align := by
  dsimp only [State.enterJudging]
  repeat' split
  all_goals first | rfl | simp
@[simp] theorem State.enterJudging_ports (s : State) (c : CtxId) : (s.enterJudging c).ports = s.ports := by
  dsimp only [State.enterJudging]
  repeat' split
  all_goals first | rfl | simp
@[simp] theorem State.enterJudging_arbiter (s : State) (c : CtxId) : (s.enterJudging c).arbiter = s.arbiter := by
  dsimp only [State.enterJudging]
  repeat' split
  all_goals first | rfl | simp
@[simp] theorem State.enterJudging_engine (s : State) (c : CtxId) : (s.enterJudging c).engine = s.engine := by
  dsimp only [State.enterJudging]
  repeat' split
  all_goals first | rfl | simp
@[simp] theorem State.enterJudging_evaluator (s : State) (c : CtxId) : (s.enterJudging c).evaluator = s.evaluator := by
  dsimp only [State.enterJudging]
  repeat' split
  all_goals first | rfl | simp
@[simp] theorem State.enterJudging_pending (s : State) (c : CtxId) : (s.enterJudging c).pending = s.pending := by
  dsimp only [State.enterJudging]
  repeat' split
  all_goals first | rfl | simp
@[simp] theorem State.lateDecision_now (s : State) (c : CtxId) : (s.lateDecision c).now = s.now := by
  dsimp only [State.lateDecision]
  repeat' split
  all_goals first | rfl | simp
@[simp] theorem State.lateDecision_pins (s : State) (c : CtxId) : (s.lateDecision c).pins = s.pins := by
  dsimp only [State.lateDecision]
  repeat' split
  all_goals first | rfl | simp
@[simp] theorem State.lateDecision_pending (s : State) (c : CtxId) : (s.lateDecision c).pending = s.pending := by
  dsimp only [State.lateDecision]
  repeat' split
  all_goals first | rfl | simp
@[simp] theorem State.abortContext_now (s : State) (c : CtxId) : (s.abortContext c).now = s.now := by
  dsimp only [State.abortContext]
  repeat' split
  all_goals first | rfl | simp
@[simp] theorem State.abortContext_pins (s : State) (c : CtxId) : (s.abortContext c).pins = s.pins := by
  dsimp only [State.abortContext]
  repeat' split
  all_goals first | rfl | simp
@[simp] theorem State.abortContext_pending (s : State) (c : CtxId) : (s.abortContext c).pending = s.pending := by
  dsimp only [State.abortContext]
  repeat' split
  all_goals first | rfl | simp

/-! ### Alignment -/

@[simp] theorem State.seekAlternate_now (s : State) (c : CtxId) (i : Fin 3) (f : Fiducial) (alt : Nat × Nat) : (s.seekAlternate c i f alt).now = s.now := by
  dsimp only [State.seekAlternate]
  repeat' split
  all_goals first | rfl | simp
@[simp] theorem State.seekAlternate_pins (s : State) (c : CtxId) (i : Fin 3) (f : Fiducial) (alt : Nat × Nat) : (s.seekAlternate c i f alt).pins = s.pins := by
  dsimp only [State.seekAlternate]
  repeat' split
  all_goals first | rfl | simp
@[simp] theorem State.seekAlternate_flow (s : State) (c : CtxId) (i : Fin 3) (f : Fiducial) (alt : Nat × Nat) : (s.seekAlternate c i f alt).flow = s.flow := by
  dsimp only [State.seekAlternate]
  repeat' split
  all_goals first | rfl | simp
@[simp] theorem State.seekAlternate_slots (s : State) (c : CtxId) (i : Fin 3) (f : Fiducial) (alt : Nat × Nat) : (s.seekAlternate c i f alt).slots = s.slots := by
  dsimp only [State.seekAlternate]
  repeat' split
  all_goals first | rfl | simp
@[simp] theorem State.seekAlternate_ports (s : State) (c : CtxId) (i : Fin 3) (f : Fiducial) (alt : Nat × Nat) : (s.seekAlternate c i f alt).ports = s.ports := by
  dsimp only [State.seekAlternate]
  repeat' split
  all_goals first | rfl | simp
@[simp] theorem State.seekAlternate_arbiter (s : State) (c : CtxId) (i : Fin 3) (f : Fiducial) (alt : Nat × Nat) : (s.seekAlternate c i f alt).arbiter = s.arbiter := by
  dsimp only [State.seekAlternate]
  repeat' split
  all_goals first | rfl | simp
@[simp] theorem State.seekAlternate_engine (s : State) (c : CtxId) (i : Fin 3) (f : Fiducial) (alt : Nat × Nat) : (s.seekAlternate c i f alt).engine = s.engine := by
  dsimp only [State.seekAlternate]
  repeat' split
  all_goals first | rfl | simp
@[simp] theorem State.seekAlternate_evaluator (s : State) (c : CtxId) (i : Fin 3) (f : Fiducial) (alt : Nat × Nat) : (s.seekAlternate c i f alt).evaluator = s.evaluator := by
  dsimp only [State.seekAlternate]
  repeat' split
  all_goals first | rfl | simp
@[simp] theorem State.seekAlternate_decision (s : State) (c : CtxId) (i : Fin 3) (f : Fiducial) (alt : Nat × Nat) : (s.seekAlternate c i f alt).decision = s.decision := by
  dsimp only [State.seekAlternate]
  repeat' split
  all_goals first | rfl | simp
@[simp] theorem State.seekAlternate_monitor (s : State) (c : CtxId) (i : Fin 3) (f : Fiducial) (alt : Nat × Nat) : (s.seekAlternate c i f alt).monitor = s.monitor := by
  dsimp only [State.seekAlternate]
  repeat' split
  all_goals first | rfl | simp
@[simp] theorem State.seekAlternate_log (s : State) (c : CtxId) (i : Fin 3) (f : Fiducial) (alt : Nat × Nat) : (s.seekAlternate c i f alt).log = s.log := by
  dsimp only [State.seekAlternate]
  repeat' split
  all_goals first | rfl | simp
@[simp] theorem State.seekAlternate_link (s : State) (c : CtxId) (i : Fin 3) (f : Fiducial) (alt : Nat × Nat) : (s.seekAlternate c i f alt).link = s.link := by
  dsimp only [State.seekAlternate]
  repeat' split
  all_goals first | rfl | simp
@[simp] theorem State.seekAlternate_pending (s : State) (c : CtxId) (i : Fin 3) (f : Fiducial) (alt : Nat × Nat) : (s.seekAlternate c i f alt).pending = s.pending := by
  dsimp only [State.seekAlternate]
  repeat' split
  all_goals first | rfl | simp
@[simp] theorem State.resolveFiducial_now (s : State) (c : CtxId) (i : Fin 3) (o : FidOutcome) : (s.resolveFiducial c i o).now = s.now := by
  dsimp only [State.resolveFiducial]
  repeat' split
  all_goals first | rfl | simp
@[simp] theorem State.resolveFiducial_pins (s : State) (c : CtxId) (i : Fin 3) (o : FidOutcome) : (s.resolveFiducial c i o).pins = s.pins := by
  dsimp only [State.resolveFiducial]
  repeat' split
  all_goals first | rfl | simp
@[simp] theorem State.resolveFiducial_flow (s : State) (c : CtxId) (i : Fin 3) (o : FidOutcome) : (s.resolveFiducial c i o).flow = s.flow := by
  dsimp only [State.resolveFiducial]
  repeat' split
  all_goals first | rfl | simp
@[simp] theorem State.resolveFiducial_slots (s : State) (c : CtxId) (i : Fin 3) (o : FidOutcome) : (s.resolveFiducial c i o).slots = s.slots := by
  dsimp only [State.resolveFiducial]
  repeat' split
  all_goals first | rfl | simp
@[simp] theorem State.resolveFiducial_ports (s : State) (c : CtxId) (i : Fin 3) (o : FidOutcome) : (s.resolveFiducial c i o).ports = s.ports := by
  dsimp only [State.resolveFiducial]
  repeat' split
  all_goals first | rfl | simp
@[simp] theorem State.resolveFiducial_arbiter (s : State) (c : CtxId) (i : Fin 3) (o : FidOutcome) : (s.resolveFiducial c i o).arbiter = s.arbiter := by
  dsimp only [State.resolveFiducial]
  repeat' split
  all_goals first | rfl | simp
@[simp] theorem State.resolveFiducial_engine (s : State) (c : CtxId) (i : Fin 3) (o : FidOutcome) : (s.resolveFiducial c i o).engine = s.engine := by
  dsimp only [State.resolveFiducial]
  repeat' split
  all_goals first | rfl | simp
@[simp] theorem State.resolveFiducial_evaluator (s : State) (c : CtxId) (i : Fin 3) (o : FidOutcome) : (s.resolveFiducial c i o).evaluator = s.evaluator := by
  dsimp only [State.resolveFiducial]
  repeat' split
  all_goals first | rfl | simp
@[simp] theorem State.resolveFiducial_decision (s : State) (c : CtxId) (i : Fin 3) (o : FidOutcome) : (s.resolveFiducial c i o).decision = s.decision := by
  dsimp only [State.resolveFiducial]
  repeat' split
  all_goals first | rfl | simp
@[simp] theorem State.resolveFiducial_monitor (s : State) (c : CtxId) (i : Fin 3) (o : FidOutcome) : (s.resolveFiducial c i o).monitor = s.monitor := by
  dsimp only [State.resolveFiducial]
  repeat' split
  all_goals first | rfl | simp
@[simp] theorem State.resolveFiducial_log (s : State) (c : CtxId) (i : Fin 3) (o : FidOutcome) : (s.resolveFiducial c i o).log = s.log := by
  dsimp only [State.resolveFiducial]
  repeat' split
  all_goals first | rfl | simp
@[simp] theorem State.resolveFiducial_link (s : State) (c : CtxId) (i : Fin 3) (o : FidOutcome) : (s.resolveFiducial c i o).link = s.link := by
  dsimp only [State.resolveFiducial]
  repeat' split
  all_goals first | rfl | simp
@[simp] theorem State.resolveFiducial_pending (s : State) (c : CtxId) (i : Fin 3) (o : FidOutcome) : (s.resolveFiducial c i o).pending = s.pending := by
  dsimp only [State.resolveFiducial]
  repeat' split
  all_goals first | rfl | simp
@[simp] theorem State.resolveMark_now (s : State) (c : CtxId) (n : Nat) (r : MarkReading) : (s.resolveMark c n r).now = s.now := by
  dsimp only [State.resolveMark]
  repeat' split
  all_goals first | rfl | simp
@[simp] theorem State.resolveMark_pins (s : State) (c : CtxId) (n : Nat) (r : MarkReading) : (s.resolveMark c n r).pins = s.pins := by
  dsimp only [State.resolveMark]
  repeat' split
  all_goals first | rfl | simp
@[simp] theorem State.resolveMark_slots (s : State) (c : CtxId) (n : Nat) (r : MarkReading) : (s.resolveMark c n r).slots = s.slots := by
  dsimp only [State.resolveMark]
  repeat' split
  all_goals first | rfl | simp
@[simp] theorem State.resolveMark_ports (s : State) (c : CtxId) (n : Nat) (r : MarkReading) : (s.resolveMark c n r).ports = s.ports := by
  dsimp only [State.resolveMark]
  repeat' split
  all_goals first | rfl | simp
@[simp] theorem State.resolveMark_arbiter (s : State) (c : CtxId) (n : Nat) (r : MarkReading) : (s.resolveMark c n r).arbiter = s.arbiter := by
  dsimp only [State.resolveMark]
  repeat' split
  all_goals first | rfl | simp
@[simp] theorem State.resolveMark_engine (s : State) (c : CtxId) (n : Nat) (r : MarkReading) : (s.resolveMark c n r).engine = s.engine := by
  dsimp only [State.resolveMark]
  repeat' split
  all_goals first | rfl | simp
@[simp] theorem State.resolveMark_evaluator (s : State) (c : CtxId) (n : Nat) (r : MarkReading) : (s.resolveMark c n r).evaluator = s.evaluator := by
  dsimp only [State.resolveMark]
  repeat' split
  all_goals first | rfl | simp
@[simp] theorem State.resolveMark_decision (s : State) (c : CtxId) (n : Nat) (r : MarkReading) : (s.resolveMark c n r).decision = s.decision := by
  dsimp only [State.resolveMark]
  repeat' split
  all_goals first | rfl | simp
@[simp] theorem State.resolveMark_monitor (s : State) (c : CtxId) (n : Nat) (r : MarkReading) : (s.resolveMark c n r).monitor = s.monitor := by
  dsimp only [State.resolveMark]
  repeat' split
  all_goals first | rfl | simp
@[simp] theorem State.resolveMark_log (s : State) (c : CtxId) (n : Nat) (r : MarkReading) : (s.resolveMark c n r).log = s.log := by
  dsimp only [State.resolveMark]
  repeat' split
  all_goals first | rfl | simp
@[simp] theorem State.resolveMark_link (s : State) (c : CtxId) (n : Nat) (r : MarkReading) : (s.resolveMark c n r).link = s.link := by
  dsimp only [State.resolveMark]
  repeat' split
  all_goals first | rfl | simp
@[simp] theorem State.resolveMark_pending (s : State) (c : CtxId) (n : Nat) (r : MarkReading) : (s.resolveMark c n r).pending = s.pending := by
  dsimp only [State.resolveMark]
  repeat' split
  all_goals first | rfl | simp
@[simp] theorem State.seekPrimary_now (s : State) (c : CtxId) (i : Fin 3) : (s.seekPrimary c i).now = s.now := by
  dsimp only [State.seekPrimary]
  repeat' split
  all_goals first | rfl | simp
@[simp] theorem State.seekPrimary_pins (s : State) (c : CtxId) (i : Fin 3) : (s.seekPrimary c i).pins = s.pins := by
  dsimp only [State.seekPrimary]
  repeat' split
  all_goals first | rfl | simp
@[simp] theorem State.seekPrimary_flow (s : State) (c : CtxId) (i : Fin 3) : (s.seekPrimary c i).flow = s.flow := by
  dsimp only [State.seekPrimary]
  repeat' split
  all_goals first | rfl | simp
@[simp] theorem State.seekPrimary_slots (s : State) (c : CtxId) (i : Fin 3) : (s.seekPrimary c i).slots = s.slots := by
  dsimp only [State.seekPrimary]
  repeat' split
  all_goals first | rfl | simp
@[simp] theorem State.seekPrimary_ports (s : State) (c : CtxId) (i : Fin 3) : (s.seekPrimary c i).ports = s.ports := by
  dsimp only [State.seekPrimary]
  repeat' split
  all_goals first | rfl | simp
@[simp] theorem State.seekPrimary_arbiter (s : State) (c : CtxId) (i : Fin 3) : (s.seekPrimary c i).arbiter = s.arbiter := by
  dsimp only [State.seekPrimary]
  repeat' split
  all_goals first | rfl | simp
@[simp] theorem State.seekPrimary_engine (s : State) (c : CtxId) (i : Fin 3) : (s.seekPrimary c i).engine = s.engine := by
  dsimp only [State.seekPrimary]
  repeat' split
  all_goals first | rfl | simp
@[simp] theorem State.seekPrimary_evaluator (s : State) (c : CtxId) (i : Fin 3) : (s.seekPrimary c i).evaluator = s.evaluator := by
  dsimp only [State.seekPrimary]
  repeat' split
  all_goals first | rfl | simp
@[simp] theorem State.seekPrimary_decision (s : State) (c : CtxId) (i : Fin 3) : (s.seekPrimary c i).decision = s.decision := by
  dsimp only [State.seekPrimary]
  repeat' split
  all_goals first | rfl | simp
@[simp] theorem State.seekPrimary_monitor (s : State) (c : CtxId) (i : Fin 3) : (s.seekPrimary c i).monitor = s.monitor := by
  dsimp only [State.seekPrimary]
  repeat' split
  all_goals first | rfl | simp
@[simp] theorem State.seekPrimary_log (s : State) (c : CtxId) (i : Fin 3) : (s.seekPrimary c i).log = s.log := by
  dsimp only [State.seekPrimary]
  repeat' split
  all_goals first | rfl | simp
@[simp] theorem State.seekPrimary_link (s : State) (c : CtxId) (i : Fin 3) : (s.seekPrimary c i).link = s.link := by
  dsimp only [State.seekPrimary]
  repeat' split
  all_goals first | rfl | simp
@[simp] theorem State.seekPrimary_pending (s : State) (c : CtxId) (i : Fin 3) : (s.seekPrimary c i).pending = s.pending := by
  dsimp only [State.seekPrimary]
  repeat' split
  all_goals first | rfl | simp
@[simp] theorem State.seekPlacement_now (s : State) (c : CtxId) (i : Nat) (p : Placement) : (s.seekPlacement c i p).now = s.now := by
  dsimp only [State.seekPlacement]
  repeat' split
  all_goals first | rfl | simp
@[simp] theorem State.seekPlacement_pins (s : State) (c : CtxId) (i : Nat) (p : Placement) : (s.seekPlacement c i p).pins = s.pins := by
  dsimp only [State.seekPlacement]
  repeat' split
  all_goals first | rfl | simp
@[simp] theorem State.seekPlacement_slots (s : State) (c : CtxId) (i : Nat) (p : Placement) : (s.seekPlacement c i p).slots = s.slots := by
  dsimp only [State.seekPlacement]
  repeat' split
  all_goals first | rfl | simp
@[simp] theorem State.seekPlacement_ports (s : State) (c : CtxId) (i : Nat) (p : Placement) : (s.seekPlacement c i p).ports = s.ports := by
  dsimp only [State.seekPlacement]
  repeat' split
  all_goals first | rfl | simp
@[simp] theorem State.seekPlacement_arbiter (s : State) (c : CtxId) (i : Nat) (p : Placement) : (s.seekPlacement c i p).arbiter = s.arbiter := by
  dsimp only [State.seekPlacement]
  repeat' split
  all_goals first | rfl | simp
@[simp] theorem State.seekPlacement_engine (s : State) (c : CtxId) (i : Nat) (p : Placement) : (s.seekPlacement c i p).engine = s.engine := by
  dsimp only [State.seekPlacement]
  repeat' split
  all_goals first | rfl | simp
@[simp] theorem State.seekPlacement_evaluator (s : State) (c : CtxId) (i : Nat) (p : Placement) : (s.seekPlacement c i p).evaluator = s.evaluator := by
  dsimp only [State.seekPlacement]
  repeat' split
  all_goals first | rfl | simp
@[simp] theorem State.seekPlacement_decision (s : State) (c : CtxId) (i : Nat) (p : Placement) : (s.seekPlacement c i p).decision = s.decision := by
  dsimp only [State.seekPlacement]
  repeat' split
  all_goals first | rfl | simp
@[simp] theorem State.seekPlacement_monitor (s : State) (c : CtxId) (i : Nat) (p : Placement) : (s.seekPlacement c i p).monitor = s.monitor := by
  dsimp only [State.seekPlacement]
  repeat' split
  all_goals first | rfl | simp
@[simp] theorem State.seekPlacement_log (s : State) (c : CtxId) (i : Nat) (p : Placement) : (s.seekPlacement c i p).log = s.log := by
  dsimp only [State.seekPlacement]
  repeat' split
  all_goals first | rfl | simp
@[simp] theorem State.seekPlacement_link (s : State) (c : CtxId) (i : Nat) (p : Placement) : (s.seekPlacement c i p).link = s.link := by
  dsimp only [State.seekPlacement]
  repeat' split
  all_goals first | rfl | simp
@[simp] theorem State.seekPlacement_pending (s : State) (c : CtxId) (i : Nat) (p : Placement) : (s.seekPlacement c i p).pending = s.pending := by
  dsimp only [State.seekPlacement]
  repeat' split
  all_goals first | rfl | simp
@[simp] theorem State.seekPlacements_now (s : State) (c : CtxId) (n : Nat) (l : List Placement) : (s.seekPlacements c n l).now = s.now := by
  induction l generalizing s n with
  | nil => rfl
  | cons p rest ih => simp [State.seekPlacements, ih]
@[simp] theorem State.seekPlacements_pins (s : State) (c : CtxId) (n : Nat) (l : List Placement) : (s.seekPlacements c n l).pins = s.pins := by
  induction l generalizing s n with
  | nil => rfl
  | cons p rest ih => simp [State.seekPlacements, ih]
@[simp] theorem State.seekPlacements_slots (s : State) (c : CtxId) (n : Nat) (l : List Placement) : (s.seekPlacements c n l).slots = s.slots := by
  induction l generalizing s n with
  | nil => rfl
  | cons p rest ih => simp [State.seekPlacements, ih]
@[simp] theorem State.seekPlacements_ports (s : State) (c : CtxId) (n : Nat) (l : List Placement) : (s.seekPlacements c n l).ports = s.ports := by
  induction l generalizing s n with
  | nil => rfl
  | cons p rest ih => simp [State.seekPlacements, ih]
@[simp] theorem State.seekPlacements_arbiter (s : State) (c : CtxId) (n : Nat) (l : List Placement) : (s.seekPlacements c n l).arbiter = s.arbiter := by
  induction l generalizing s n with
  | nil => rfl
  | cons p rest ih => simp [State.seekPlacements, ih]
@[simp] theorem State.seekPlacements_engine (s : State) (c : CtxId) (n : Nat) (l : List Placement) : (s.seekPlacements c n l).engine = s.engine := by
  induction l generalizing s n with
  | nil => rfl
  | cons p rest ih => simp [State.seekPlacements, ih]
@[simp] theorem State.seekPlacements_evaluator (s : State) (c : CtxId) (n : Nat) (l : List Placement) : (s.seekPlacements c n l).evaluator = s.evaluator := by
  induction l generalizing s n with
  | nil => rfl
  | cons p rest ih => simp [State.seekPlacements, ih]
@[simp] theorem State.seekPlacements_decision (s : State) (c : CtxId) (n : Nat) (l : List Placement) : (s.seekPlacements c n l).decision = s.decision := by
  induction l generalizing s n with
  | nil => rfl
  | cons p rest ih => simp [State.seekPlacements, ih]
@[simp] theorem State.seekPlacements_monitor (s : State) (c : CtxId) (n : Nat) (l : List Placement) : (s.seekPlacements c n l).monitor = s.monitor := by
  induction l generalizing s n with
  | nil => rfl
  | cons p rest ih => simp [State.seekPlacements, ih]
@[simp] theorem State.seekPlacements_log (s : State) (c : CtxId) (n : Nat) (l : List Placement) : (s.seekPlacements c n l).log = s.log := by
  induction l generalizing s n with
  | nil => rfl
  | cons p rest ih => simp [State.seekPlacements, ih]
@[simp] theorem State.seekPlacements_link (s : State) (c : CtxId) (n : Nat) (l : List Placement) : (s.seekPlacements c n l).link = s.link := by
  induction l generalizing s n with
  | nil => rfl
  | cons p rest ih => simp [State.seekPlacements, ih]
@[simp] theorem State.seekPlacements_pending (s : State) (c : CtxId) (n : Nat) (l : List Placement) : (s.seekPlacements c n l).pending = s.pending := by
  induction l generalizing s n with
  | nil => rfl
  | cons p rest ih => simp [State.seekPlacements, ih]
@[simp] theorem State.seekOutOfField_now (s : State) (c : CtxId) (i : Fin 3) : (s.seekOutOfField c i).now = s.now := by
  dsimp only [State.seekOutOfField]
  repeat' split
  all_goals first | rfl | simp
@[simp] theorem State.seekOutOfField_pins (s : State) (c : CtxId) (i : Fin 3) : (s.seekOutOfField c i).pins = s.pins := by
  dsimp only [State.seekOutOfField]
  repeat' split
  all_goals first | rfl | simp
@[simp] theorem State.seekOutOfField_flow (s : State) (c : CtxId) (i : Fin 3) : (s.seekOutOfField c i).flow = s.flow := by
  dsimp only [State.seekOutOfField]
  repeat' split
  all_goals first | rfl | simp
@[simp] theorem State.seekOutOfField_slots (s : State) (c : CtxId) (i : Fin 3) : (s.seekOutOfField c i).slots = s.slots := by
  dsimp only [State.seekOutOfField]
  repeat' split
  all_goals first | rfl | simp
@[simp] theorem State.seekOutOfField_ports (s : State) (c : CtxId) (i : Fin 3) : (s.seekOutOfField c i).ports = s.ports := by
  dsimp only [State.seekOutOfField]
  repeat' split
  all_goals first | rfl | simp
@[simp] theorem State.seekOutOfField_arbiter (s : State) (c : CtxId) (i : Fin 3) : (s.seekOutOfField c i).arbiter = s.arbiter := by
  dsimp only [State.seekOutOfField]
  repeat' split
  all_goals first | rfl | simp
@[simp] theorem State.seekOutOfField_engine (s : State) (c : CtxId) (i : Fin 3) : (s.seekOutOfField c i).engine = s.engine := by
  dsimp only [State.seekOutOfField]
  repeat' split
  all_goals first | rfl | simp
@[simp] theorem State.seekOutOfField_evaluator (s : State) (c : CtxId) (i : Fin 3) : (s.seekOutOfField c i).evaluator = s.evaluator := by
  dsimp only [State.seekOutOfField]
  repeat' split
  all_goals first | rfl | simp
@[simp] theorem State.seekOutOfField_decision (s : State) (c : CtxId) (i : Fin 3) : (s.seekOutOfField c i).decision = s.decision := by
  dsimp only [State.seekOutOfField]
  repeat' split
  all_goals first | rfl | simp
@[simp] theorem State.seekOutOfField_monitor (s : State) (c : CtxId) (i : Fin 3) : (s.seekOutOfField c i).monitor = s.monitor := by
  dsimp only [State.seekOutOfField]
  repeat' split
  all_goals first | rfl | simp
@[simp] theorem State.seekOutOfField_log (s : State) (c : CtxId) (i : Fin 3) : (s.seekOutOfField c i).log = s.log := by
  dsimp only [State.seekOutOfField]
  repeat' split
  all_goals first | rfl | simp
@[simp] theorem State.seekOutOfField_link (s : State) (c : CtxId) (i : Fin 3) : (s.seekOutOfField c i).link = s.link := by
  dsimp only [State.seekOutOfField]
  repeat' split
  all_goals first | rfl | simp
@[simp] theorem State.seekOutOfField_pending (s : State) (c : CtxId) (i : Fin 3) : (s.seekOutOfField c i).pending = s.pending := by
  dsimp only [State.seekOutOfField]
  repeat' split
  all_goals first | rfl | simp
@[simp] theorem State.startHead_now (s : State) (p : PortId) : (s.startHead p).now = s.now := by
  dsimp only [State.startHead]
  repeat' split
  all_goals first | rfl | simp
@[simp] theorem State.startHead_pins (s : State) (p : PortId) : (s.startHead p).pins = s.pins := by
  dsimp only [State.startHead]
  repeat' split
  all_goals first | rfl | simp
@[simp] theorem State.startHead_flow (s : State) (p : PortId) : (s.startHead p).flow = s.flow := by
  dsimp only [State.startHead]
  repeat' split
  all_goals first | rfl | simp
@[simp] theorem State.startHead_slots (s : State) (p : PortId) : (s.startHead p).slots = s.slots := by
  dsimp only [State.startHead]
  repeat' split
  all_goals first | rfl | simp
@[simp] theorem State.startHead_arbiter (s : State) (p : PortId) : (s.startHead p).arbiter = s.arbiter := by
  dsimp only [State.startHead]
  repeat' split
  all_goals first | rfl | simp
@[simp] theorem State.startHead_engine (s : State) (p : PortId) : (s.startHead p).engine = s.engine := by
  dsimp only [State.startHead]
  repeat' split
  all_goals first | rfl | simp
@[simp] theorem State.startHead_evaluator (s : State) (p : PortId) : (s.startHead p).evaluator = s.evaluator := by
  dsimp only [State.startHead]
  repeat' split
  all_goals first | rfl | simp
@[simp] theorem State.startHead_decision (s : State) (p : PortId) : (s.startHead p).decision = s.decision := by
  dsimp only [State.startHead]
  repeat' split
  all_goals first | rfl | simp
@[simp] theorem State.startHead_monitor (s : State) (p : PortId) : (s.startHead p).monitor = s.monitor := by
  dsimp only [State.startHead]
  repeat' split
  all_goals first | rfl | simp
@[simp] theorem State.startHead_log (s : State) (p : PortId) : (s.startHead p).log = s.log := by
  dsimp only [State.startHead]
  repeat' split
  all_goals first | rfl | simp
@[simp] theorem State.startHead_link (s : State) (p : PortId) : (s.startHead p).link = s.link := by
  dsimp only [State.startHead]
  repeat' split
  all_goals first | rfl | simp
@[simp] theorem State.startHead_pending (s : State) (p : PortId) : (s.startHead p).pending = s.pending := by
  dsimp only [State.startHead]
  repeat' split
  all_goals first | rfl | simp
@[simp] theorem State.startHeads_now (s : State)  : (s.startHeads).now = s.now := by
  unfold State.startHeads
  exact foldl_keeps (fun t => t.now) _ _ s (fun t a => State.startHead_now t a)
@[simp] theorem State.startHeads_pins (s : State)  : (s.startHeads).pins = s.pins := by
  unfold State.startHeads
  exact foldl_keeps (fun t => t.pins) _ _ s (fun t a => State.startHead_pins t a)
@[simp] theorem State.startHeads_flow (s : State)  : (s.startHeads).flow = s.flow := by
  unfold State.startHeads
  exact foldl_keeps (fun t => t.flow) _ _ s (fun t a => State.startHead_flow t a)
@[simp] theorem State.startHeads_slots (s : State)  : (s.startHeads).slots = s.slots := by
  unfold State.startHeads
  exact foldl_keeps (fun t => t.slots) _ _ s (fun t a => State.startHead_slots t a)
@[simp] theorem State.startHeads_arbiter (s : State)  : (s.startHeads).arbiter = s.arbiter := by
  unfold State.startHeads
  exact foldl_keeps (fun t => t.arbiter) _ _ s (fun t a => State.startHead_arbiter t a)
@[simp] theorem State.startHeads_engine (s : State)  : (s.startHeads).engine = s.engine := by
  unfold State.startHeads
  exact foldl_keeps (fun t => t.engine) _ _ s (fun t a => State.startHead_engine t a)
@[simp] theorem State.startHeads_evaluator (s : State)  : (s.startHeads).evaluator = s.evaluator := by
  unfold State.startHeads
  exact foldl_keeps (fun t => t.evaluator) _ _ s (fun t a => State.startHead_evaluator t a)
@[simp] theorem State.startHeads_decision (s : State)  : (s.startHeads).decision = s.decision := by
  unfold State.startHeads
  exact foldl_keeps (fun t => t.decision) _ _ s (fun t a => State.startHead_decision t a)
@[simp] theorem State.startHeads_monitor (s : State)  : (s.startHeads).monitor = s.monitor := by
  unfold State.startHeads
  exact foldl_keeps (fun t => t.monitor) _ _ s (fun t a => State.startHead_monitor t a)
@[simp] theorem State.startHeads_log (s : State)  : (s.startHeads).log = s.log := by
  unfold State.startHeads
  exact foldl_keeps (fun t => t.log) _ _ s (fun t a => State.startHead_log t a)
@[simp] theorem State.startHeads_link (s : State)  : (s.startHeads).link = s.link := by
  unfold State.startHeads
  exact foldl_keeps (fun t => t.link) _ _ s (fun t a => State.startHead_link t a)
@[simp] theorem State.startHeads_pending (s : State)  : (s.startHeads).pending = s.pending := by
  unfold State.startHeads
  exact foldl_keeps (fun t => t.pending) _ _ s (fun t a => State.startHead_pending t a)
@[simp] theorem State.alignFault_now (s : State) (c : CtxId) (cause : AlignCause) : (s.alignFault c cause).now = s.now := by
  dsimp only [State.alignFault]
  repeat' split
  all_goals first | rfl | simp
@[simp] theorem State.alignFault_pins (s : State) (c : CtxId) (cause : AlignCause) : (s.alignFault c cause).pins = s.pins := by
  dsimp only [State.alignFault]
  repeat' split
  all_goals first | rfl | simp
@[simp] theorem State.alignFault_ports (s : State) (c : CtxId) (cause : AlignCause) : (s.alignFault c cause).ports = s.ports := by
  dsimp only [State.alignFault]
  repeat' split
  all_goals first | rfl | simp
@[simp] theorem State.alignFault_arbiter (s : State) (c : CtxId) (cause : AlignCause) : (s.alignFault c cause).arbiter = s.arbiter := by
  dsimp only [State.alignFault]
  repeat' split
  all_goals first | rfl | simp
@[simp] theorem State.alignFault_engine (s : State) (c : CtxId) (cause : AlignCause) : (s.alignFault c cause).engine = s.engine := by
  dsimp only [State.alignFault]
  repeat' split
  all_goals first | rfl | simp
@[simp] theorem State.alignFault_evaluator (s : State) (c : CtxId) (cause : AlignCause) : (s.alignFault c cause).evaluator = s.evaluator := by
  dsimp only [State.alignFault]
  repeat' split
  all_goals first | rfl | simp
@[simp] theorem State.alignFault_pending (s : State) (c : CtxId) (cause : AlignCause) : (s.alignFault c cause).pending = s.pending := by
  dsimp only [State.alignFault]
  repeat' split
  all_goals first | rfl | simp
@[simp] theorem State.alignSuccess_now (s : State) (c : CtxId) (t : Transform) (residual : Nat) (p : Plane) : (s.alignSuccess c t residual p).now = s.now := by
  dsimp only [State.alignSuccess]
  repeat' split
  all_goals first | rfl | simp
@[simp] theorem State.alignSuccess_pins (s : State) (c : CtxId) (t : Transform) (residual : Nat) (p : Plane) : (s.alignSuccess c t residual p).pins = s.pins := by
  dsimp only [State.alignSuccess]
  repeat' split
  all_goals first | rfl | simp
@[simp] theorem State.alignSuccess_slots (s : State) (c : CtxId) (t : Transform) (residual : Nat) (p : Plane) : (s.alignSuccess c t residual p).slots = s.slots := by
  dsimp only [State.alignSuccess]
  repeat' split
  all_goals first | rfl | simp
@[simp] theorem State.alignSuccess_ports (s : State) (c : CtxId) (t : Transform) (residual : Nat) (p : Plane) : (s.alignSuccess c t residual p).ports = s.ports := by
  dsimp only [State.alignSuccess]
  repeat' split
  all_goals first | rfl | simp
@[simp] theorem State.alignSuccess_arbiter (s : State) (c : CtxId) (t : Transform) (residual : Nat) (p : Plane) : (s.alignSuccess c t residual p).arbiter = s.arbiter := by
  dsimp only [State.alignSuccess]
  repeat' split
  all_goals first | rfl | simp
@[simp] theorem State.alignSuccess_evaluator (s : State) (c : CtxId) (t : Transform) (residual : Nat) (p : Plane) : (s.alignSuccess c t residual p).evaluator = s.evaluator := by
  dsimp only [State.alignSuccess]
  repeat' split
  all_goals first | rfl | simp
@[simp] theorem State.alignSuccess_decision (s : State) (c : CtxId) (t : Transform) (residual : Nat) (p : Plane) : (s.alignSuccess c t residual p).decision = s.decision := by
  dsimp only [State.alignSuccess]
  repeat' split
  all_goals first | rfl | simp
@[simp] theorem State.alignSuccess_monitor (s : State) (c : CtxId) (t : Transform) (residual : Nat) (p : Plane) : (s.alignSuccess c t residual p).monitor = s.monitor := by
  dsimp only [State.alignSuccess]
  repeat' split
  all_goals first | rfl | simp
@[simp] theorem State.alignSuccess_log (s : State) (c : CtxId) (t : Transform) (residual : Nat) (p : Plane) : (s.alignSuccess c t residual p).log = s.log := by
  dsimp only [State.alignSuccess]
  repeat' split
  all_goals first | rfl | simp
@[simp] theorem State.alignSuccess_link (s : State) (c : CtxId) (t : Transform) (residual : Nat) (p : Plane) : (s.alignSuccess c t residual p).link = s.link := by
  dsimp only [State.alignSuccess]
  repeat' split
  all_goals first | rfl | simp
@[simp] theorem State.alignSuccess_pending (s : State) (c : CtxId) (t : Transform) (residual : Nat) (p : Plane) : (s.alignSuccess c t residual p).pending = s.pending := by
  dsimp only [State.alignSuccess]
  repeat' split
  all_goals first | rfl | simp
@[simp] theorem State.alignmentTest_now (s : State)  : (s.alignmentTest).now = s.now := by
  dsimp only [State.alignmentTest]
  repeat' split
  all_goals first | rfl | simp
@[simp] theorem State.alignmentTest_pins (s : State)  : (s.alignmentTest).pins = s.pins := by
  dsimp only [State.alignmentTest]
  repeat' split
  all_goals first | rfl | simp
@[simp] theorem State.alignmentTest_ports (s : State)  : (s.alignmentTest).ports = s.ports := by
  dsimp only [State.alignmentTest]
  repeat' split
  all_goals first | rfl | simp
@[simp] theorem State.alignmentTest_arbiter (s : State)  : (s.alignmentTest).arbiter = s.arbiter := by
  dsimp only [State.alignmentTest]
  repeat' split
  all_goals first | rfl | simp
@[simp] theorem State.alignmentTest_evaluator (s : State)  : (s.alignmentTest).evaluator = s.evaluator := by
  dsimp only [State.alignmentTest]
  repeat' split
  all_goals first | rfl | simp
@[simp] theorem State.alignmentTest_pending (s : State)  : (s.alignmentTest).pending = s.pending := by
  dsimp only [State.alignmentTest]
  repeat' split
  all_goals first | rfl | simp
@[simp] theorem State.beginAlignment_now (s : State) (c : CtxId) : (s.beginAlignment c).now = s.now := by
  dsimp only [State.beginAlignment]
  simp [foldl_keeps (fun t => State.now t) _ _ _ (fun (t : State) (a : Fin 3) => State.seekPrimary_now t c a), foldl_keeps (fun t => State.now t) _ _ _ (fun (t : State) (a : Fin 3) => State.seekOutOfField_now t c a)]
@[simp] theorem State.beginAlignment_pins (s : State) (c : CtxId) : (s.beginAlignment c).pins = s.pins := by
  dsimp only [State.beginAlignment]
  simp [foldl_keeps (fun t => State.pins t) _ _ _ (fun (t : State) (a : Fin 3) => State.seekPrimary_pins t c a), foldl_keeps (fun t => State.pins t) _ _ _ (fun (t : State) (a : Fin 3) => State.seekOutOfField_pins t c a)]
@[simp] theorem State.beginAlignment_arbiter (s : State) (c : CtxId) : (s.beginAlignment c).arbiter = s.arbiter := by
  dsimp only [State.beginAlignment]
  simp [foldl_keeps (fun t => State.arbiter t) _ _ _ (fun (t : State) (a : Fin 3) => State.seekPrimary_arbiter t c a), foldl_keeps (fun t => State.arbiter t) _ _ _ (fun (t : State) (a : Fin 3) => State.seekOutOfField_arbiter t c a)]
@[simp] theorem State.beginAlignment_evaluator (s : State) (c : CtxId) : (s.beginAlignment c).evaluator = s.evaluator := by
  dsimp only [State.beginAlignment]
  simp [foldl_keeps (fun t => State.evaluator t) _ _ _ (fun (t : State) (a : Fin 3) => State.seekPrimary_evaluator t c a), foldl_keeps (fun t => State.evaluator t) _ _ _ (fun (t : State) (a : Fin 3) => State.seekOutOfField_evaluator t c a)]
@[simp] theorem State.beginAlignment_pending (s : State) (c : CtxId) : (s.beginAlignment c).pending = s.pending := by
  dsimp only [State.beginAlignment]
  simp [foldl_keeps (fun t => State.pending t) _ _ _ (fun (t : State) (a : Fin 3) => State.seekPrimary_pending t c a), foldl_keeps (fun t => State.pending t) _ _ _ (fun (t : State) (a : Fin 3) => State.seekOutOfField_pending t c a)]
@[simp] theorem State.resolveLocate_now (s : State) (p : PortId) (o : FidOutcome) (r : MarkReading) : (s.resolveLocate p o r).now = s.now := by
  dsimp only [State.resolveLocate]
  repeat' split
  all_goals first | rfl | simp
@[simp] theorem State.resolveLocate_pins (s : State) (p : PortId) (o : FidOutcome) (r : MarkReading) : (s.resolveLocate p o r).pins = s.pins := by
  dsimp only [State.resolveLocate]
  repeat' split
  all_goals first | rfl | simp
@[simp] theorem State.resolveLocate_arbiter (s : State) (p : PortId) (o : FidOutcome) (r : MarkReading) : (s.resolveLocate p o r).arbiter = s.arbiter := by
  dsimp only [State.resolveLocate]
  repeat' split
  all_goals first | rfl | simp
@[simp] theorem State.resolveLocate_evaluator (s : State) (p : PortId) (o : FidOutcome) (r : MarkReading) : (s.resolveLocate p o r).evaluator = s.evaluator := by
  dsimp only [State.resolveLocate]
  repeat' split
  all_goals first | rfl | simp
@[simp] theorem State.resolveLocate_pending (s : State) (p : PortId) (o : FidOutcome) (r : MarkReading) : (s.resolveLocate p o r).pending = s.pending := by
  dsimp only [State.resolveLocate]
  repeat' split
  all_goals first | rfl | simp
@[simp] theorem State.locateFrame_now (s : State) (p : PortId) (good : Bool) (body : List Byte) : (s.locateFrame p good body).now = s.now := by
  dsimp only [State.locateFrame]
  repeat' split
  all_goals first | rfl | simp
@[simp] theorem State.locateFrame_pins (s : State) (p : PortId) (good : Bool) (body : List Byte) : (s.locateFrame p good body).pins = s.pins := by
  dsimp only [State.locateFrame]
  repeat' split
  all_goals first | rfl | simp
@[simp] theorem State.locateFrame_arbiter (s : State) (p : PortId) (good : Bool) (body : List Byte) : (s.locateFrame p good body).arbiter = s.arbiter := by
  dsimp only [State.locateFrame]
  repeat' split
  all_goals first | rfl | simp
@[simp] theorem State.locateFrame_evaluator (s : State) (p : PortId) (good : Bool) (body : List Byte) : (s.locateFrame p good body).evaluator = s.evaluator := by
  dsimp only [State.locateFrame]
  repeat' split
  all_goals first | rfl | simp
@[simp] theorem State.locateFrame_pending (s : State) (p : PortId) (good : Bool) (body : List Byte) : (s.locateFrame p good body).pending = s.pending := by
  dsimp only [State.locateFrame]
  repeat' split
  all_goals first | rfl | simp

/-! ### Window -/

@[simp] theorem State.writeOff_now (s : State) (c : CtxId) (joint placement site : Nat) (cause : Cause) : (s.writeOff c joint placement site cause).now = s.now := by
  dsimp only [State.writeOff]
  repeat' split
  all_goals first | rfl | simp
@[simp] theorem State.writeOff_pins (s : State) (c : CtxId) (joint placement site : Nat) (cause : Cause) : (s.writeOff c joint placement site cause).pins = s.pins := by
  dsimp only [State.writeOff]
  repeat' split
  all_goals first | rfl | simp
@[simp] theorem State.writeOff_align (s : State) (c : CtxId) (joint placement site : Nat) (cause : Cause) : (s.writeOff c joint placement site cause).align = s.align := by
  dsimp only [State.writeOff]
  repeat' split
  all_goals first | rfl | simp
@[simp] theorem State.writeOff_ports (s : State) (c : CtxId) (joint placement site : Nat) (cause : Cause) : (s.writeOff c joint placement site cause).ports = s.ports := by
  dsimp only [State.writeOff]
  repeat' split
  all_goals first | rfl | simp
@[simp] theorem State.writeOff_arbiter (s : State) (c : CtxId) (joint placement site : Nat) (cause : Cause) : (s.writeOff c joint placement site cause).arbiter = s.arbiter := by
  dsimp only [State.writeOff]
  repeat' split
  all_goals first | rfl | simp
@[simp] theorem State.writeOff_engine (s : State) (c : CtxId) (joint placement site : Nat) (cause : Cause) : (s.writeOff c joint placement site cause).engine = s.engine := by
  dsimp only [State.writeOff]
  repeat' split
  all_goals first | rfl | simp
@[simp] theorem State.writeOff_evaluator (s : State) (c : CtxId) (joint placement site : Nat) (cause : Cause) : (s.writeOff c joint placement site cause).evaluator = s.evaluator := by
  dsimp only [State.writeOff]
  repeat' split
  all_goals first | rfl | simp
@[simp] theorem State.writeOff_pending (s : State) (c : CtxId) (joint placement site : Nat) (cause : Cause) : (s.writeOff c joint placement site cause).pending = s.pending := by
  dsimp only [State.writeOff]
  repeat' split
  all_goals first | rfl | simp
@[simp] theorem State.writeSkipped_now (s : State) (c : CtxId) (joint : Nat) (cause : Cause) : (s.writeSkipped c joint cause).now = s.now := by
  dsimp only [State.writeSkipped]
  repeat' split
  all_goals first | rfl | simp
@[simp] theorem State.writeSkipped_pins (s : State) (c : CtxId) (joint : Nat) (cause : Cause) : (s.writeSkipped c joint cause).pins = s.pins := by
  dsimp only [State.writeSkipped]
  repeat' split
  all_goals first | rfl | simp
@[simp] theorem State.writeSkipped_align (s : State) (c : CtxId) (joint : Nat) (cause : Cause) : (s.writeSkipped c joint cause).align = s.align := by
  dsimp only [State.writeSkipped]
  repeat' split
  all_goals first | rfl | simp
@[simp] theorem State.writeSkipped_ports (s : State) (c : CtxId) (joint : Nat) (cause : Cause) : (s.writeSkipped c joint cause).ports = s.ports := by
  dsimp only [State.writeSkipped]
  repeat' split
  all_goals first | rfl | simp
@[simp] theorem State.writeSkipped_arbiter (s : State) (c : CtxId) (joint : Nat) (cause : Cause) : (s.writeSkipped c joint cause).arbiter = s.arbiter := by
  dsimp only [State.writeSkipped]
  repeat' split
  all_goals first | rfl | simp
@[simp] theorem State.writeSkipped_engine (s : State) (c : CtxId) (joint : Nat) (cause : Cause) : (s.writeSkipped c joint cause).engine = s.engine := by
  dsimp only [State.writeSkipped]
  repeat' split
  all_goals first | rfl | simp
@[simp] theorem State.writeSkipped_evaluator (s : State) (c : CtxId) (joint : Nat) (cause : Cause) : (s.writeSkipped c joint cause).evaluator = s.evaluator := by
  dsimp only [State.writeSkipped]
  repeat' split
  all_goals first | rfl | simp
@[simp] theorem State.writeSkipped_pending (s : State) (c : CtxId) (joint : Nat) (cause : Cause) : (s.writeSkipped c joint cause).pending = s.pending := by
  dsimp only [State.writeSkipped]
  repeat' split
  all_goals first | rfl | simp
@[simp] theorem State.visitJoint_now (s : State)  : (s.visitJoint).now = s.now := by
  dsimp only [State.visitJoint]
  repeat' split
  all_goals first | rfl | simp
@[simp] theorem State.visitJoint_pins (s : State)  : (s.visitJoint).pins = s.pins := by
  dsimp only [State.visitJoint]
  repeat' split
  all_goals first | rfl | simp
@[simp] theorem State.visitJoint_align (s : State)  : (s.visitJoint).align = s.align := by
  dsimp only [State.visitJoint]
  repeat' split
  all_goals first | rfl | simp
@[simp] theorem State.visitJoint_ports (s : State)  : (s.visitJoint).ports = s.ports := by
  dsimp only [State.visitJoint]
  repeat' split
  all_goals first | rfl | simp
@[simp] theorem State.visitJoint_arbiter (s : State)  : (s.visitJoint).arbiter = s.arbiter := by
  dsimp only [State.visitJoint]
  repeat' split
  all_goals first | rfl | simp
@[simp] theorem State.visitJoint_evaluator (s : State)  : (s.visitJoint).evaluator = s.evaluator := by
  dsimp only [State.visitJoint]
  repeat' split
  all_goals first | rfl | simp
@[simp] theorem State.visitJoint_pending (s : State)  : (s.visitJoint).pending = s.pending := by
  dsimp only [State.visitJoint]
  repeat' split
  all_goals first | rfl | simp
@[simp] theorem State.visitJoints_now (s : State) (x0 : Nat) : (s.visitJoints x0).now = s.now := by
  induction x0 generalizing s with
  | zero => rfl
  | succ n ih => simp [State.visitJoints, ih]
@[simp] theorem State.visitJoints_pins (s : State) (x0 : Nat) : (s.visitJoints x0).pins = s.pins := by
  induction x0 generalizing s with
  | zero => rfl
  | succ n ih => simp [State.visitJoints, ih]
@[simp] theorem State.visitJoints_align (s : State) (x0 : Nat) : (s.visitJoints x0).align = s.align := by
  induction x0 generalizing s with
  | zero => rfl
  | succ n ih => simp [State.visitJoints, ih]
@[simp] theorem State.visitJoints_ports (s : State) (x0 : Nat) : (s.visitJoints x0).ports = s.ports := by
  induction x0 generalizing s with
  | zero => rfl
  | succ n ih => simp [State.visitJoints, ih]
@[simp] theorem State.visitJoints_arbiter (s : State) (x0 : Nat) : (s.visitJoints x0).arbiter = s.arbiter := by
  induction x0 generalizing s with
  | zero => rfl
  | succ n ih => simp [State.visitJoints, ih]
@[simp] theorem State.visitJoints_evaluator (s : State) (x0 : Nat) : (s.visitJoints x0).evaluator = s.evaluator := by
  induction x0 generalizing s with
  | zero => rfl
  | succ n ih => simp [State.visitJoints, ih]
@[simp] theorem State.visitJoints_pending (s : State) (x0 : Nat) : (s.visitJoints x0).pending = s.pending := by
  induction x0 generalizing s with
  | zero => rfl
  | succ n ih => simp [State.visitJoints, ih]
@[simp] theorem State.startScan_now (s : State) (c : CtxId) (first last : Nat) : (s.startScan c first last).now = s.now := by
  dsimp only [State.startScan]
  repeat' split
  all_goals first | rfl | simp
@[simp] theorem State.startScan_pins (s : State) (c : CtxId) (first last : Nat) : (s.startScan c first last).pins = s.pins := by
  dsimp only [State.startScan]
  repeat' split
  all_goals first | rfl | simp
@[simp] theorem State.startScan_flow (s : State) (c : CtxId) (first last : Nat) : (s.startScan c first last).flow = s.flow := by
  dsimp only [State.startScan]
  repeat' split
  all_goals first | rfl | simp
@[simp] theorem State.startScan_slots (s : State) (c : CtxId) (first last : Nat) : (s.startScan c first last).slots = s.slots := by
  dsimp only [State.startScan]
  repeat' split
  all_goals first | rfl | simp
@[simp] theorem State.startScan_align (s : State) (c : CtxId) (first last : Nat) : (s.startScan c first last).align = s.align := by
  dsimp only [State.startScan]
  repeat' split
  all_goals first | rfl | simp
@[simp] theorem State.startScan_arbiter (s : State) (c : CtxId) (first last : Nat) : (s.startScan c first last).arbiter = s.arbiter := by
  dsimp only [State.startScan]
  repeat' split
  all_goals first | rfl | simp
@[simp] theorem State.startScan_engine (s : State) (c : CtxId) (first last : Nat) : (s.startScan c first last).engine = s.engine := by
  dsimp only [State.startScan]
  repeat' split
  all_goals first | rfl | simp
@[simp] theorem State.startScan_evaluator (s : State) (c : CtxId) (first last : Nat) : (s.startScan c first last).evaluator = s.evaluator := by
  dsimp only [State.startScan]
  repeat' split
  all_goals first | rfl | simp
@[simp] theorem State.startScan_decision (s : State) (c : CtxId) (first last : Nat) : (s.startScan c first last).decision = s.decision := by
  dsimp only [State.startScan]
  repeat' split
  all_goals first | rfl | simp
@[simp] theorem State.startScan_monitor (s : State) (c : CtxId) (first last : Nat) : (s.startScan c first last).monitor = s.monitor := by
  dsimp only [State.startScan]
  repeat' split
  all_goals first | rfl | simp
@[simp] theorem State.startScan_log (s : State) (c : CtxId) (first last : Nat) : (s.startScan c first last).log = s.log := by
  dsimp only [State.startScan]
  repeat' split
  all_goals first | rfl | simp
@[simp] theorem State.startScan_link (s : State) (c : CtxId) (first last : Nat) : (s.startScan c first last).link = s.link := by
  dsimp only [State.startScan]
  repeat' split
  all_goals first | rfl | simp
@[simp] theorem State.startScan_pending (s : State) (c : CtxId) (first last : Nat) : (s.startScan c first last).pending = s.pending := by
  dsimp only [State.startScan]
  repeat' split
  all_goals first | rfl | simp
@[simp] theorem State.completeArming_now (s : State)  : (s.completeArming).now = s.now := by
  dsimp only [State.completeArming]
  repeat' split
  all_goals first | rfl | simp
@[simp] theorem State.completeArming_pins (s : State)  : (s.completeArming).pins = s.pins := by
  dsimp only [State.completeArming]
  repeat' split
  all_goals first | rfl | simp
@[simp] theorem State.completeArming_align (s : State)  : (s.completeArming).align = s.align := by
  dsimp only [State.completeArming]
  repeat' split
  all_goals first | rfl | simp
@[simp] theorem State.completeArming_arbiter (s : State)  : (s.completeArming).arbiter = s.arbiter := by
  dsimp only [State.completeArming]
  repeat' split
  all_goals first | rfl | simp
@[simp] theorem State.completeArming_evaluator (s : State)  : (s.completeArming).evaluator = s.evaluator := by
  dsimp only [State.completeArming]
  repeat' split
  all_goals first | rfl | simp
@[simp] theorem State.completeArming_pending (s : State)  : (s.completeArming).pending = s.pending := by
  dsimp only [State.completeArming]
  repeat' split
  all_goals first | rfl | simp
@[simp] theorem State.openJoint_now (s : State) (c : CtxId) (a : ArmedJoint) : (s.openJoint c a).now = s.now := by
  dsimp only [State.openJoint]
  repeat' split
  all_goals first | rfl | simp
@[simp] theorem State.openJoint_pins (s : State) (c : CtxId) (a : ArmedJoint) : (s.openJoint c a).pins = s.pins := by
  dsimp only [State.openJoint]
  repeat' split
  all_goals first | rfl | simp
@[simp] theorem State.openJoint_align (s : State) (c : CtxId) (a : ArmedJoint) : (s.openJoint c a).align = s.align := by
  dsimp only [State.openJoint]
  repeat' split
  all_goals first | rfl | simp
@[simp] theorem State.openJoint_ports (s : State) (c : CtxId) (a : ArmedJoint) : (s.openJoint c a).ports = s.ports := by
  dsimp only [State.openJoint]
  repeat' split
  all_goals first | rfl | simp
@[simp] theorem State.openJoint_arbiter (s : State) (c : CtxId) (a : ArmedJoint) : (s.openJoint c a).arbiter = s.arbiter := by
  dsimp only [State.openJoint]
  repeat' split
  all_goals first | rfl | simp
@[simp] theorem State.openJoint_evaluator (s : State) (c : CtxId) (a : ArmedJoint) : (s.openJoint c a).evaluator = s.evaluator := by
  dsimp only [State.openJoint]
  repeat' split
  all_goals first | rfl | simp
@[simp] theorem State.openJoint_pending (s : State) (c : CtxId) (a : ArmedJoint) : (s.openJoint c a).pending = s.pending := by
  dsimp only [State.openJoint]
  repeat' split
  all_goals first | rfl | simp
@[simp] theorem State.openUpTo_now (s : State) (c : CtxId) (r : Nat) : (s.openUpTo c r).now = s.now := by
  dsimp only [State.openUpTo]
  simp [foldl_keeps (fun t => State.now t) _ _ _ (fun (t : State) (a : ArmedJoint) => State.openJoint_now t c a)]
@[simp] theorem State.openUpTo_pins (s : State) (c : CtxId) (r : Nat) : (s.openUpTo c r).pins = s.pins := by
  dsimp only [State.openUpTo]
  simp [foldl_keeps (fun t => State.pins t) _ _ _ (fun (t : State) (a : ArmedJoint) => State.openJoint_pins t c a)]
@[simp] theorem State.openUpTo_align (s : State) (c : CtxId) (r : Nat) : (s.openUpTo c r).align = s.align := by
  dsimp only [State.openUpTo]
  simp [foldl_keeps (fun t => State.align t) _ _ _ (fun (t : State) (a : ArmedJoint) => State.openJoint_align t c a)]
@[simp] theorem State.openUpTo_ports (s : State) (c : CtxId) (r : Nat) : (s.openUpTo c r).ports = s.ports := by
  dsimp only [State.openUpTo]
  simp [foldl_keeps (fun t => State.ports t) _ _ _ (fun (t : State) (a : ArmedJoint) => State.openJoint_ports t c a)]
@[simp] theorem State.openUpTo_arbiter (s : State) (c : CtxId) (r : Nat) : (s.openUpTo c r).arbiter = s.arbiter := by
  dsimp only [State.openUpTo]
  simp [foldl_keeps (fun t => State.arbiter t) _ _ _ (fun (t : State) (a : ArmedJoint) => State.openJoint_arbiter t c a)]
@[simp] theorem State.openUpTo_evaluator (s : State) (c : CtxId) (r : Nat) : (s.openUpTo c r).evaluator = s.evaluator := by
  dsimp only [State.openUpTo]
  simp [foldl_keeps (fun t => State.evaluator t) _ _ _ (fun (t : State) (a : ArmedJoint) => State.openJoint_evaluator t c a)]
@[simp] theorem State.openUpTo_pending (s : State) (c : CtxId) (r : Nat) : (s.openUpTo c r).pending = s.pending := by
  dsimp only [State.openUpTo]
  simp [foldl_keeps (fun t => State.pending t) _ _ _ (fun (t : State) (a : ArmedJoint) => State.openJoint_pending t c a)]
@[simp] theorem State.openingStep_now (s : State) (c : CtxId) (r : Nat) : (s.openingStep c r).now = s.now := by
  dsimp only [State.openingStep]
  repeat' split
  all_goals first | rfl | simp
@[simp] theorem State.openingStep_pins (s : State) (c : CtxId) (r : Nat) : (s.openingStep c r).pins = s.pins := by
  dsimp only [State.openingStep]
  repeat' split
  all_goals first | rfl | simp
@[simp] theorem State.openingStep_align (s : State) (c : CtxId) (r : Nat) : (s.openingStep c r).align = s.align := by
  dsimp only [State.openingStep]
  repeat' split
  all_goals first | rfl | simp
@[simp] theorem State.openingStep_ports (s : State) (c : CtxId) (r : Nat) : (s.openingStep c r).ports = s.ports := by
  dsimp only [State.openingStep]
  repeat' split
  all_goals first | rfl | simp
@[simp] theorem State.openingStep_arbiter (s : State) (c : CtxId) (r : Nat) : (s.openingStep c r).arbiter = s.arbiter := by
  dsimp only [State.openingStep]
  repeat' split
  all_goals first | rfl | simp
@[simp] theorem State.openingStep_evaluator (s : State) (c : CtxId) (r : Nat) : (s.openingStep c r).evaluator = s.evaluator := by
  dsimp only [State.openingStep]
  repeat' split
  all_goals first | rfl | simp
@[simp] theorem State.openingStep_pending (s : State) (c : CtxId) (r : Nat) : (s.openingStep c r).pending = s.pending := by
  dsimp only [State.openingStep]
  repeat' split
  all_goals first | rfl | simp
@[simp] theorem State.additionStep_now (s : State) (job : Served) (r c : Nat) (samples : List Int) : (s.additionStep job r c samples).now = s.now := by
  dsimp only [State.additionStep]
  repeat' split
  all_goals first | rfl | simp
@[simp] theorem State.additionStep_pins (s : State) (job : Served) (r c : Nat) (samples : List Int) : (s.additionStep job r c samples).pins = s.pins := by
  dsimp only [State.additionStep]
  repeat' split
  all_goals first | rfl | simp
@[simp] theorem State.additionStep_flow (s : State) (job : Served) (r c : Nat) (samples : List Int) : (s.additionStep job r c samples).flow = s.flow := by
  dsimp only [State.additionStep]
  repeat' split
  all_goals first | rfl | simp
@[simp] theorem State.additionStep_slots (s : State) (job : Served) (r c : Nat) (samples : List Int) : (s.additionStep job r c samples).slots = s.slots := by
  dsimp only [State.additionStep]
  repeat' split
  all_goals first | rfl | simp
@[simp] theorem State.additionStep_align (s : State) (job : Served) (r c : Nat) (samples : List Int) : (s.additionStep job r c samples).align = s.align := by
  dsimp only [State.additionStep]
  repeat' split
  all_goals first | rfl | simp
@[simp] theorem State.additionStep_ports (s : State) (job : Served) (r c : Nat) (samples : List Int) : (s.additionStep job r c samples).ports = s.ports := by
  dsimp only [State.additionStep]
  repeat' split
  all_goals first | rfl | simp
@[simp] theorem State.additionStep_arbiter (s : State) (job : Served) (r c : Nat) (samples : List Int) : (s.additionStep job r c samples).arbiter = s.arbiter := by
  dsimp only [State.additionStep]
  repeat' split
  all_goals first | rfl | simp
@[simp] theorem State.additionStep_evaluator (s : State) (job : Served) (r c : Nat) (samples : List Int) : (s.additionStep job r c samples).evaluator = s.evaluator := by
  dsimp only [State.additionStep]
  repeat' split
  all_goals first | rfl | simp
@[simp] theorem State.additionStep_decision (s : State) (job : Served) (r c : Nat) (samples : List Int) : (s.additionStep job r c samples).decision = s.decision := by
  dsimp only [State.additionStep]
  repeat' split
  all_goals first | rfl | simp
@[simp] theorem State.additionStep_monitor (s : State) (job : Served) (r c : Nat) (samples : List Int) : (s.additionStep job r c samples).monitor = s.monitor := by
  dsimp only [State.additionStep]
  repeat' split
  all_goals first | rfl | simp
@[simp] theorem State.additionStep_log (s : State) (job : Served) (r c : Nat) (samples : List Int) : (s.additionStep job r c samples).log = s.log := by
  dsimp only [State.additionStep]
  repeat' split
  all_goals first | rfl | simp
@[simp] theorem State.additionStep_link (s : State) (job : Served) (r c : Nat) (samples : List Int) : (s.additionStep job r c samples).link = s.link := by
  dsimp only [State.additionStep]
  repeat' split
  all_goals first | rfl | simp
@[simp] theorem State.additionStep_pending (s : State) (job : Served) (r c : Nat) (samples : List Int) : (s.additionStep job r c samples).pending = s.pending := by
  dsimp only [State.additionStep]
  repeat' split
  all_goals first | rfl | simp
@[simp] theorem State.closeJoint_now (s : State) (c : CtxId) (o : OpenJoint) : (s.closeJoint c o).now = s.now := by
  dsimp only [State.closeJoint]
  repeat' split
  all_goals first | rfl | simp
@[simp] theorem State.closeJoint_pins (s : State) (c : CtxId) (o : OpenJoint) : (s.closeJoint c o).pins = s.pins := by
  dsimp only [State.closeJoint]
  repeat' split
  all_goals first | rfl | simp
@[simp] theorem State.closeJoint_flow (s : State) (c : CtxId) (o : OpenJoint) : (s.closeJoint c o).flow = s.flow := by
  dsimp only [State.closeJoint]
  repeat' split
  all_goals first | rfl | simp
@[simp] theorem State.closeJoint_slots (s : State) (c : CtxId) (o : OpenJoint) : (s.closeJoint c o).slots = s.slots := by
  dsimp only [State.closeJoint]
  repeat' split
  all_goals first | rfl | simp
@[simp] theorem State.closeJoint_align (s : State) (c : CtxId) (o : OpenJoint) : (s.closeJoint c o).align = s.align := by
  dsimp only [State.closeJoint]
  repeat' split
  all_goals first | rfl | simp
@[simp] theorem State.closeJoint_ports (s : State) (c : CtxId) (o : OpenJoint) : (s.closeJoint c o).ports = s.ports := by
  dsimp only [State.closeJoint]
  repeat' split
  all_goals first | rfl | simp
@[simp] theorem State.closeJoint_arbiter (s : State) (c : CtxId) (o : OpenJoint) : (s.closeJoint c o).arbiter = s.arbiter := by
  dsimp only [State.closeJoint]
  repeat' split
  all_goals first | rfl | simp
@[simp] theorem State.closeJoint_decision (s : State) (c : CtxId) (o : OpenJoint) : (s.closeJoint c o).decision = s.decision := by
  dsimp only [State.closeJoint]
  repeat' split
  all_goals first | rfl | simp
@[simp] theorem State.closeJoint_monitor (s : State) (c : CtxId) (o : OpenJoint) : (s.closeJoint c o).monitor = s.monitor := by
  dsimp only [State.closeJoint]
  repeat' split
  all_goals first | rfl | simp
@[simp] theorem State.closeJoint_log (s : State) (c : CtxId) (o : OpenJoint) : (s.closeJoint c o).log = s.log := by
  dsimp only [State.closeJoint]
  repeat' split
  all_goals first | rfl | simp
@[simp] theorem State.closeJoint_link (s : State) (c : CtxId) (o : OpenJoint) : (s.closeJoint c o).link = s.link := by
  dsimp only [State.closeJoint]
  repeat' split
  all_goals first | rfl | simp
@[simp] theorem State.closeJoint_pending (s : State) (c : CtxId) (o : OpenJoint) : (s.closeJoint c o).pending = s.pending := by
  dsimp only [State.closeJoint]
  repeat' split
  all_goals first | rfl | simp
@[simp] theorem State.closeWhere_now (s : State) (c : CtxId) (p : OpenJoint → Bool) : (s.closeWhere c p).now = s.now := by
  dsimp only [State.closeWhere]
  simp [foldl_keeps (fun t => State.now t) _ _ _ (fun (t : State) (a : OpenJoint) => State.closeJoint_now t c a)]
@[simp] theorem State.closeWhere_pins (s : State) (c : CtxId) (p : OpenJoint → Bool) : (s.closeWhere c p).pins = s.pins := by
  dsimp only [State.closeWhere]
  simp [foldl_keeps (fun t => State.pins t) _ _ _ (fun (t : State) (a : OpenJoint) => State.closeJoint_pins t c a)]
@[simp] theorem State.closeWhere_flow (s : State) (c : CtxId) (p : OpenJoint → Bool) : (s.closeWhere c p).flow = s.flow := by
  dsimp only [State.closeWhere]
  simp [foldl_keeps (fun t => State.flow t) _ _ _ (fun (t : State) (a : OpenJoint) => State.closeJoint_flow t c a)]
@[simp] theorem State.closeWhere_slots (s : State) (c : CtxId) (p : OpenJoint → Bool) : (s.closeWhere c p).slots = s.slots := by
  dsimp only [State.closeWhere]
  simp [foldl_keeps (fun t => State.slots t) _ _ _ (fun (t : State) (a : OpenJoint) => State.closeJoint_slots t c a)]
@[simp] theorem State.closeWhere_align (s : State) (c : CtxId) (p : OpenJoint → Bool) : (s.closeWhere c p).align = s.align := by
  dsimp only [State.closeWhere]
  simp [foldl_keeps (fun t => State.align t) _ _ _ (fun (t : State) (a : OpenJoint) => State.closeJoint_align t c a)]
@[simp] theorem State.closeWhere_ports (s : State) (c : CtxId) (p : OpenJoint → Bool) : (s.closeWhere c p).ports = s.ports := by
  dsimp only [State.closeWhere]
  simp [foldl_keeps (fun t => State.ports t) _ _ _ (fun (t : State) (a : OpenJoint) => State.closeJoint_ports t c a)]
@[simp] theorem State.closeWhere_arbiter (s : State) (c : CtxId) (p : OpenJoint → Bool) : (s.closeWhere c p).arbiter = s.arbiter := by
  dsimp only [State.closeWhere]
  simp [foldl_keeps (fun t => State.arbiter t) _ _ _ (fun (t : State) (a : OpenJoint) => State.closeJoint_arbiter t c a)]
@[simp] theorem State.closeWhere_decision (s : State) (c : CtxId) (p : OpenJoint → Bool) : (s.closeWhere c p).decision = s.decision := by
  dsimp only [State.closeWhere]
  simp [foldl_keeps (fun t => State.decision t) _ _ _ (fun (t : State) (a : OpenJoint) => State.closeJoint_decision t c a)]
@[simp] theorem State.closeWhere_monitor (s : State) (c : CtxId) (p : OpenJoint → Bool) : (s.closeWhere c p).monitor = s.monitor := by
  dsimp only [State.closeWhere]
  simp [foldl_keeps (fun t => State.monitor t) _ _ _ (fun (t : State) (a : OpenJoint) => State.closeJoint_monitor t c a)]
@[simp] theorem State.closeWhere_log (s : State) (c : CtxId) (p : OpenJoint → Bool) : (s.closeWhere c p).log = s.log := by
  dsimp only [State.closeWhere]
  simp [foldl_keeps (fun t => State.log t) _ _ _ (fun (t : State) (a : OpenJoint) => State.closeJoint_log t c a)]
@[simp] theorem State.closeWhere_link (s : State) (c : CtxId) (p : OpenJoint → Bool) : (s.closeWhere c p).link = s.link := by
  dsimp only [State.closeWhere]
  simp [foldl_keeps (fun t => State.link t) _ _ _ (fun (t : State) (a : OpenJoint) => State.closeJoint_link t c a)]
@[simp] theorem State.closeWhere_pending (s : State) (c : CtxId) (p : OpenJoint → Bool) : (s.closeWhere c p).pending = s.pending := by
  dsimp only [State.closeWhere]
  simp [foldl_keeps (fun t => State.pending t) _ _ _ (fun (t : State) (a : OpenJoint) => State.closeJoint_pending t c a)]
@[simp] theorem State.takeEntry_now (s : State)  : (s.takeEntry).now = s.now := by
  dsimp only [State.takeEntry]
  repeat' split
  all_goals first | rfl | simp
@[simp] theorem State.takeEntry_pins (s : State)  : (s.takeEntry).pins = s.pins := by
  dsimp only [State.takeEntry]
  repeat' split
  all_goals first | rfl | simp
@[simp] theorem State.takeEntry_flow (s : State)  : (s.takeEntry).flow = s.flow := by
  dsimp only [State.takeEntry]
  repeat' split
  all_goals first | rfl | simp
@[simp] theorem State.takeEntry_slots (s : State)  : (s.takeEntry).slots = s.slots := by
  dsimp only [State.takeEntry]
  repeat' split
  all_goals first | rfl | simp
@[simp] theorem State.takeEntry_align (s : State)  : (s.takeEntry).align = s.align := by
  dsimp only [State.takeEntry]
  repeat' split
  all_goals first | rfl | simp
@[simp] theorem State.takeEntry_ports (s : State)  : (s.takeEntry).ports = s.ports := by
  dsimp only [State.takeEntry]
  repeat' split
  all_goals first | rfl | simp
@[simp] theorem State.takeEntry_arbiter (s : State)  : (s.takeEntry).arbiter = s.arbiter := by
  dsimp only [State.takeEntry]
  repeat' split
  all_goals first | rfl | simp
@[simp] theorem State.takeEntry_decision (s : State)  : (s.takeEntry).decision = s.decision := by
  dsimp only [State.takeEntry]
  repeat' split
  all_goals first | rfl | simp
@[simp] theorem State.takeEntry_monitor (s : State)  : (s.takeEntry).monitor = s.monitor := by
  dsimp only [State.takeEntry]
  repeat' split
  all_goals first | rfl | simp
@[simp] theorem State.takeEntry_log (s : State)  : (s.takeEntry).log = s.log := by
  dsimp only [State.takeEntry]
  repeat' split
  all_goals first | rfl | simp
@[simp] theorem State.takeEntry_link (s : State)  : (s.takeEntry).link = s.link := by
  dsimp only [State.takeEntry]
  repeat' split
  all_goals first | rfl | simp
@[simp] theorem State.takeEntry_pending (s : State)  : (s.takeEntry).pending = s.pending := by
  dsimp only [State.takeEntry]
  repeat' split
  all_goals first | rfl | simp
@[simp] theorem State.closingTest_now (s : State)  : (s.closingTest).now = s.now := by
  dsimp only [State.closingTest]
  repeat' split
  all_goals simp [foldl_keeps (fun t => State.now t) _ _ _ (fun (t : State) (a : ArmedJoint) => State.openJoint_now t _ a)]
@[simp] theorem State.closingTest_pins (s : State)  : (s.closingTest).pins = s.pins := by
  dsimp only [State.closingTest]
  repeat' split
  all_goals simp [foldl_keeps (fun t => State.pins t) _ _ _ (fun (t : State) (a : ArmedJoint) => State.openJoint_pins t _ a)]
@[simp] theorem State.closingTest_align (s : State)  : (s.closingTest).align = s.align := by
  dsimp only [State.closingTest]
  repeat' split
  all_goals simp [foldl_keeps (fun t => State.align t) _ _ _ (fun (t : State) (a : ArmedJoint) => State.openJoint_align t _ a)]
@[simp] theorem State.closingTest_ports (s : State)  : (s.closingTest).ports = s.ports := by
  dsimp only [State.closingTest]
  repeat' split
  all_goals simp [foldl_keeps (fun t => State.ports t) _ _ _ (fun (t : State) (a : ArmedJoint) => State.openJoint_ports t _ a)]
@[simp] theorem State.closingTest_arbiter (s : State)  : (s.closingTest).arbiter = s.arbiter := by
  dsimp only [State.closingTest]
  repeat' split
  all_goals simp [foldl_keeps (fun t => State.arbiter t) _ _ _ (fun (t : State) (a : ArmedJoint) => State.openJoint_arbiter t _ a)]
@[simp] theorem State.closingTest_pending (s : State)  : (s.closingTest).pending = s.pending := by
  dsimp only [State.closingTest]
  repeat' split
  all_goals simp [foldl_keeps (fun t => State.pending t) _ _ _ (fun (t : State) (a : ArmedJoint) => State.openJoint_pending t _ a)]
@[simp] theorem State.scanEndTest_now (s : State)  : (s.scanEndTest).now = s.now := by
  dsimp only [State.scanEndTest]
  repeat' split
  all_goals first | rfl | simp
@[simp] theorem State.scanEndTest_pins (s : State)  : (s.scanEndTest).pins = s.pins := by
  dsimp only [State.scanEndTest]
  repeat' split
  all_goals first | rfl | simp
@[simp] theorem State.scanEndTest_align (s : State)  : (s.scanEndTest).align = s.align := by
  dsimp only [State.scanEndTest]
  repeat' split
  all_goals first | rfl | simp
@[simp] theorem State.scanEndTest_ports (s : State)  : (s.scanEndTest).ports = s.ports := by
  dsimp only [State.scanEndTest]
  repeat' split
  all_goals first | rfl | simp
@[simp] theorem State.scanEndTest_arbiter (s : State)  : (s.scanEndTest).arbiter = s.arbiter := by
  dsimp only [State.scanEndTest]
  repeat' split
  all_goals first | rfl | simp
@[simp] theorem State.scanEndTest_engine (s : State)  : (s.scanEndTest).engine = s.engine := by
  dsimp only [State.scanEndTest]
  repeat' split
  all_goals first | rfl | simp
@[simp] theorem State.scanEndTest_evaluator (s : State)  : (s.scanEndTest).evaluator = s.evaluator := by
  dsimp only [State.scanEndTest]
  repeat' split
  all_goals first | rfl | simp
@[simp] theorem State.scanEndTest_pending (s : State)  : (s.scanEndTest).pending = s.pending := by
  dsimp only [State.scanEndTest]
  repeat' split
  all_goals first | rfl | simp

/-! ### Evaluator -/

@[simp] theorem State.feedResult_now (s : State) (e : EvalEntry) (r : EvalResult) : (s.feedResult e r).now = s.now := by
  dsimp only [State.feedResult]
  repeat' split
  all_goals first | rfl | simp
@[simp] theorem State.feedResult_pins (s : State) (e : EvalEntry) (r : EvalResult) : (s.feedResult e r).pins = s.pins := by
  dsimp only [State.feedResult]
  repeat' split
  all_goals first | rfl | simp
@[simp] theorem State.feedResult_flow (s : State) (e : EvalEntry) (r : EvalResult) : (s.feedResult e r).flow = s.flow := by
  dsimp only [State.feedResult]
  repeat' split
  all_goals first | rfl | simp
@[simp] theorem State.feedResult_slots (s : State) (e : EvalEntry) (r : EvalResult) : (s.feedResult e r).slots = s.slots := by
  dsimp only [State.feedResult]
  repeat' split
  all_goals first | rfl | simp
@[simp] theorem State.feedResult_align (s : State) (e : EvalEntry) (r : EvalResult) : (s.feedResult e r).align = s.align := by
  dsimp only [State.feedResult]
  repeat' split
  all_goals first | rfl | simp
@[simp] theorem State.feedResult_ports (s : State) (e : EvalEntry) (r : EvalResult) : (s.feedResult e r).ports = s.ports := by
  dsimp only [State.feedResult]
  repeat' split
  all_goals first | rfl | simp
@[simp] theorem State.feedResult_arbiter (s : State) (e : EvalEntry) (r : EvalResult) : (s.feedResult e r).arbiter = s.arbiter := by
  dsimp only [State.feedResult]
  repeat' split
  all_goals first | rfl | simp
@[simp] theorem State.feedResult_engine (s : State) (e : EvalEntry) (r : EvalResult) : (s.feedResult e r).engine = s.engine := by
  dsimp only [State.feedResult]
  repeat' split
  all_goals first | rfl | simp
@[simp] theorem State.feedResult_evaluator (s : State) (e : EvalEntry) (r : EvalResult) : (s.feedResult e r).evaluator = s.evaluator := by
  dsimp only [State.feedResult]
  repeat' split
  all_goals first | rfl | simp
@[simp] theorem State.feedResult_decision (s : State) (e : EvalEntry) (r : EvalResult) : (s.feedResult e r).decision = s.decision := by
  dsimp only [State.feedResult]
  repeat' split
  all_goals first | rfl | simp
@[simp] theorem State.feedResult_log (s : State) (e : EvalEntry) (r : EvalResult) : (s.feedResult e r).log = s.log := by
  dsimp only [State.feedResult]
  repeat' split
  all_goals first | rfl | simp
@[simp] theorem State.feedResult_pending (s : State) (e : EvalEntry) (r : EvalResult) : (s.feedResult e r).pending = s.pending := by
  dsimp only [State.feedResult]
  repeat' split
  all_goals first | rfl | simp
@[simp] theorem State.logResult_now (s : State) (e : EvalEntry) (r : EvalResult) : (s.logResult e r).now = s.now := by
  dsimp only [State.logResult]
  repeat' split
  all_goals first | rfl | simp
@[simp] theorem State.logResult_pins (s : State) (e : EvalEntry) (r : EvalResult) : (s.logResult e r).pins = s.pins := by
  dsimp only [State.logResult]
  repeat' split
  all_goals first | rfl | simp
@[simp] theorem State.logResult_slots (s : State) (e : EvalEntry) (r : EvalResult) : (s.logResult e r).slots = s.slots := by
  dsimp only [State.logResult]
  repeat' split
  all_goals first | rfl | simp
@[simp] theorem State.logResult_align (s : State) (e : EvalEntry) (r : EvalResult) : (s.logResult e r).align = s.align := by
  dsimp only [State.logResult]
  repeat' split
  all_goals first | rfl | simp
@[simp] theorem State.logResult_ports (s : State) (e : EvalEntry) (r : EvalResult) : (s.logResult e r).ports = s.ports := by
  dsimp only [State.logResult]
  repeat' split
  all_goals first | rfl | simp
@[simp] theorem State.logResult_arbiter (s : State) (e : EvalEntry) (r : EvalResult) : (s.logResult e r).arbiter = s.arbiter := by
  dsimp only [State.logResult]
  repeat' split
  all_goals first | rfl | simp
@[simp] theorem State.logResult_engine (s : State) (e : EvalEntry) (r : EvalResult) : (s.logResult e r).engine = s.engine := by
  dsimp only [State.logResult]
  repeat' split
  all_goals first | rfl | simp
@[simp] theorem State.logResult_evaluator (s : State) (e : EvalEntry) (r : EvalResult) : (s.logResult e r).evaluator = s.evaluator := by
  dsimp only [State.logResult]
  repeat' split
  all_goals first | rfl | simp
@[simp] theorem State.logResult_decision (s : State) (e : EvalEntry) (r : EvalResult) : (s.logResult e r).decision = s.decision := by
  dsimp only [State.logResult]
  repeat' split
  all_goals first | rfl | simp
@[simp] theorem State.logResult_monitor (s : State) (e : EvalEntry) (r : EvalResult) : (s.logResult e r).monitor = s.monitor := by
  dsimp only [State.logResult]
  repeat' split
  all_goals first | rfl | simp
@[simp] theorem State.logResult_pending (s : State) (e : EvalEntry) (r : EvalResult) : (s.logResult e r).pending = s.pending := by
  dsimp only [State.logResult]
  repeat' split
  all_goals first | rfl | simp
@[simp] theorem State.keepResult_now (s : State) (e : EvalEntry) (r : EvalResult) : (s.keepResult e r).now = s.now := by
  dsimp only [State.keepResult]
  repeat' split
  all_goals first | rfl | simp
@[simp] theorem State.keepResult_pins (s : State) (e : EvalEntry) (r : EvalResult) : (s.keepResult e r).pins = s.pins := by
  dsimp only [State.keepResult]
  repeat' split
  all_goals first | rfl | simp
@[simp] theorem State.keepResult_align (s : State) (e : EvalEntry) (r : EvalResult) : (s.keepResult e r).align = s.align := by
  dsimp only [State.keepResult]
  repeat' split
  all_goals first | rfl | simp
@[simp] theorem State.keepResult_ports (s : State) (e : EvalEntry) (r : EvalResult) : (s.keepResult e r).ports = s.ports := by
  dsimp only [State.keepResult]
  repeat' split
  all_goals first | rfl | simp
@[simp] theorem State.keepResult_arbiter (s : State) (e : EvalEntry) (r : EvalResult) : (s.keepResult e r).arbiter = s.arbiter := by
  dsimp only [State.keepResult]
  repeat' split
  all_goals first | rfl | simp
@[simp] theorem State.keepResult_pending (s : State) (e : EvalEntry) (r : EvalResult) : (s.keepResult e r).pending = s.pending := by
  dsimp only [State.keepResult]
  repeat' split
  all_goals first | rfl | simp
@[simp] theorem State.discardResult_now (s : State) (e : EvalEntry) : (s.discardResult e).now = s.now := by
  dsimp only [State.discardResult]
  repeat' split
  all_goals first | rfl | simp
@[simp] theorem State.discardResult_pins (s : State) (e : EvalEntry) : (s.discardResult e).pins = s.pins := by
  dsimp only [State.discardResult]
  repeat' split
  all_goals first | rfl | simp
@[simp] theorem State.discardResult_flow (s : State) (e : EvalEntry) : (s.discardResult e).flow = s.flow := by
  dsimp only [State.discardResult]
  repeat' split
  all_goals first | rfl | simp
@[simp] theorem State.discardResult_slots (s : State) (e : EvalEntry) : (s.discardResult e).slots = s.slots := by
  dsimp only [State.discardResult]
  repeat' split
  all_goals first | rfl | simp
@[simp] theorem State.discardResult_align (s : State) (e : EvalEntry) : (s.discardResult e).align = s.align := by
  dsimp only [State.discardResult]
  repeat' split
  all_goals first | rfl | simp
@[simp] theorem State.discardResult_ports (s : State) (e : EvalEntry) : (s.discardResult e).ports = s.ports := by
  dsimp only [State.discardResult]
  repeat' split
  all_goals first | rfl | simp
@[simp] theorem State.discardResult_arbiter (s : State) (e : EvalEntry) : (s.discardResult e).arbiter = s.arbiter := by
  dsimp only [State.discardResult]
  repeat' split
  all_goals first | rfl | simp
@[simp] theorem State.discardResult_decision (s : State) (e : EvalEntry) : (s.discardResult e).decision = s.decision := by
  dsimp only [State.discardResult]
  repeat' split
  all_goals first | rfl | simp
@[simp] theorem State.discardResult_monitor (s : State) (e : EvalEntry) : (s.discardResult e).monitor = s.monitor := by
  dsimp only [State.discardResult]
  repeat' split
  all_goals first | rfl | simp
@[simp] theorem State.discardResult_log (s : State) (e : EvalEntry) : (s.discardResult e).log = s.log := by
  dsimp only [State.discardResult]
  repeat' split
  all_goals first | rfl | simp
@[simp] theorem State.discardResult_link (s : State) (e : EvalEntry) : (s.discardResult e).link = s.link := by
  dsimp only [State.discardResult]
  repeat' split
  all_goals first | rfl | simp
@[simp] theorem State.discardResult_pending (s : State) (e : EvalEntry) : (s.discardResult e).pending = s.pending := by
  dsimp only [State.discardResult]
  repeat' split
  all_goals first | rfl | simp
@[simp] theorem State.completeEvaluation_now (s : State) (x : Evaluation) : (s.completeEvaluation x).now = s.now := by
  dsimp only [State.completeEvaluation]
  repeat' split
  all_goals first | rfl | simp
@[simp] theorem State.completeEvaluation_pins (s : State) (x : Evaluation) : (s.completeEvaluation x).pins = s.pins := by
  dsimp only [State.completeEvaluation]
  repeat' split
  all_goals first | rfl | simp
@[simp] theorem State.completeEvaluation_align (s : State) (x : Evaluation) : (s.completeEvaluation x).align = s.align := by
  dsimp only [State.completeEvaluation]
  repeat' split
  all_goals first | rfl | simp
@[simp] theorem State.completeEvaluation_ports (s : State) (x : Evaluation) : (s.completeEvaluation x).ports = s.ports := by
  dsimp only [State.completeEvaluation]
  repeat' split
  all_goals first | rfl | simp
@[simp] theorem State.completeEvaluation_arbiter (s : State) (x : Evaluation) : (s.completeEvaluation x).arbiter = s.arbiter := by
  dsimp only [State.completeEvaluation]
  repeat' split
  all_goals first | rfl | simp
@[simp] theorem State.completeEvaluation_pending (s : State) (x : Evaluation) : (s.completeEvaluation x).pending = s.pending := by
  dsimp only [State.completeEvaluation]
  repeat' split
  all_goals first | rfl | simp

/-! ### Heads -/

@[simp] theorem State.grantPort_now (s : State) (p : PortId) : (s.grantPort p).now = s.now := by
  dsimp only [State.grantPort]
  repeat' split
  all_goals first | rfl | simp
@[simp] theorem State.grantPort_pins (s : State) (p : PortId) : (s.grantPort p).pins = s.pins := by
  dsimp only [State.grantPort]
  repeat' split
  all_goals first | rfl | simp
@[simp] theorem State.grantPort_flow (s : State) (p : PortId) : (s.grantPort p).flow = s.flow := by
  dsimp only [State.grantPort]
  repeat' split
  all_goals first | rfl | simp
@[simp] theorem State.grantPort_slots (s : State) (p : PortId) : (s.grantPort p).slots = s.slots := by
  dsimp only [State.grantPort]
  repeat' split
  all_goals first | rfl | simp
@[simp] theorem State.grantPort_align (s : State) (p : PortId) : (s.grantPort p).align = s.align := by
  dsimp only [State.grantPort]
  repeat' split
  all_goals first | rfl | simp
@[simp] theorem State.grantPort_engine (s : State) (p : PortId) : (s.grantPort p).engine = s.engine := by
  dsimp only [State.grantPort]
  repeat' split
  all_goals first | rfl | simp
@[simp] theorem State.grantPort_evaluator (s : State) (p : PortId) : (s.grantPort p).evaluator = s.evaluator := by
  dsimp only [State.grantPort]
  repeat' split
  all_goals first | rfl | simp
@[simp] theorem State.grantPort_decision (s : State) (p : PortId) : (s.grantPort p).decision = s.decision := by
  dsimp only [State.grantPort]
  repeat' split
  all_goals first | rfl | simp
@[simp] theorem State.grantPort_monitor (s : State) (p : PortId) : (s.grantPort p).monitor = s.monitor := by
  dsimp only [State.grantPort]
  repeat' split
  all_goals first | rfl | simp
@[simp] theorem State.grantPort_log (s : State) (p : PortId) : (s.grantPort p).log = s.log := by
  dsimp only [State.grantPort]
  repeat' split
  all_goals first | rfl | simp
@[simp] theorem State.grantPort_link (s : State) (p : PortId) : (s.grantPort p).link = s.link := by
  dsimp only [State.grantPort]
  repeat' split
  all_goals first | rfl | simp
@[simp] theorem State.grantPort_pending (s : State) (p : PortId) : (s.grantPort p).pending = s.pending := by
  dsimp only [State.grantPort]
  repeat' split
  all_goals first | rfl | simp
@[simp] theorem State.releaseIntake_now (s : State)  : (s.releaseIntake).now = s.now := by
  dsimp only [State.releaseIntake]
  repeat' split
  all_goals first | rfl | simp
@[simp] theorem State.releaseIntake_pins (s : State)  : (s.releaseIntake).pins = s.pins := by
  dsimp only [State.releaseIntake]
  repeat' split
  all_goals first | rfl | simp
@[simp] theorem State.releaseIntake_align (s : State)  : (s.releaseIntake).align = s.align := by
  dsimp only [State.releaseIntake]
  repeat' split
  all_goals first | rfl | simp
@[simp] theorem State.releaseIntake_engine (s : State)  : (s.releaseIntake).engine = s.engine := by
  dsimp only [State.releaseIntake]
  repeat' split
  all_goals first | rfl | simp
@[simp] theorem State.releaseIntake_evaluator (s : State)  : (s.releaseIntake).evaluator = s.evaluator := by
  dsimp only [State.releaseIntake]
  repeat' split
  all_goals first | rfl | simp
@[simp] theorem State.releaseIntake_pending (s : State)  : (s.releaseIntake).pending = s.pending := by
  dsimp only [State.releaseIntake]
  repeat' split
  all_goals first | rfl | simp
@[simp] theorem State.grantUpTo_now (s : State) (n : Nat) : (State.grantUpTo n s).now = s.now := by
  induction n generalizing s with
  | zero => rfl
  | succ n ih =>
    dsimp only [State.grantUpTo]
    repeat' split
    all_goals first | rfl | simp [ih]
@[simp] theorem State.grantUpTo_pins (s : State) (n : Nat) : (State.grantUpTo n s).pins = s.pins := by
  induction n generalizing s with
  | zero => rfl
  | succ n ih =>
    dsimp only [State.grantUpTo]
    repeat' split
    all_goals first | rfl | simp [ih]
@[simp] theorem State.grantUpTo_align (s : State) (n : Nat) : (State.grantUpTo n s).align = s.align := by
  induction n generalizing s with
  | zero => rfl
  | succ n ih =>
    dsimp only [State.grantUpTo]
    repeat' split
    all_goals first | rfl | simp [ih]
@[simp] theorem State.grantUpTo_engine (s : State) (n : Nat) : (State.grantUpTo n s).engine = s.engine := by
  induction n generalizing s with
  | zero => rfl
  | succ n ih =>
    dsimp only [State.grantUpTo]
    repeat' split
    all_goals first | rfl | simp [ih]
@[simp] theorem State.grantUpTo_evaluator (s : State) (n : Nat) : (State.grantUpTo n s).evaluator = s.evaluator := by
  induction n generalizing s with
  | zero => rfl
  | succ n ih =>
    dsimp only [State.grantUpTo]
    repeat' split
    all_goals first | rfl | simp [ih]
@[simp] theorem State.grantUpTo_pending (s : State) (n : Nat) : (State.grantUpTo n s).pending = s.pending := by
  induction n generalizing s with
  | zero => rfl
  | succ n ih =>
    dsimp only [State.grantUpTo]
    repeat' split
    all_goals first | rfl | simp [ih]
@[simp] theorem State.grant_now (s : State)  : (s.grant).now = s.now := by
  dsimp only [State.grant]
  repeat' split
  all_goals first | rfl | simp
@[simp] theorem State.grant_pins (s : State)  : (s.grant).pins = s.pins := by
  dsimp only [State.grant]
  repeat' split
  all_goals first | rfl | simp
@[simp] theorem State.grant_align (s : State)  : (s.grant).align = s.align := by
  dsimp only [State.grant]
  repeat' split
  all_goals first | rfl | simp
@[simp] theorem State.grant_engine (s : State)  : (s.grant).engine = s.engine := by
  dsimp only [State.grant]
  repeat' split
  all_goals first | rfl | simp
@[simp] theorem State.grant_evaluator (s : State)  : (s.grant).evaluator = s.evaluator := by
  dsimp only [State.grant]
  repeat' split
  all_goals first | rfl | simp
@[simp] theorem State.grant_pending (s : State)  : (s.grant).pending = s.pending := by
  dsimp only [State.grant]
  repeat' split
  all_goals first | rfl | simp
@[simp] theorem State.queryPort_now (s : State) (p : PortId) : (s.queryPort p).now = s.now := by
  dsimp only [State.queryPort]
  repeat' split
  all_goals first | rfl | simp
@[simp] theorem State.queryPort_pins (s : State) (p : PortId) : (s.queryPort p).pins = s.pins := by
  dsimp only [State.queryPort]
  repeat' split
  all_goals first | rfl | simp
@[simp] theorem State.queryPort_flow (s : State) (p : PortId) : (s.queryPort p).flow = s.flow := by
  dsimp only [State.queryPort]
  repeat' split
  all_goals first | rfl | simp
@[simp] theorem State.queryPort_slots (s : State) (p : PortId) : (s.queryPort p).slots = s.slots := by
  dsimp only [State.queryPort]
  repeat' split
  all_goals first | rfl | simp
@[simp] theorem State.queryPort_align (s : State) (p : PortId) : (s.queryPort p).align = s.align := by
  dsimp only [State.queryPort]
  repeat' split
  all_goals first | rfl | simp
@[simp] theorem State.queryPort_arbiter (s : State) (p : PortId) : (s.queryPort p).arbiter = s.arbiter := by
  dsimp only [State.queryPort]
  repeat' split
  all_goals first | rfl | simp
@[simp] theorem State.queryPort_engine (s : State) (p : PortId) : (s.queryPort p).engine = s.engine := by
  dsimp only [State.queryPort]
  repeat' split
  all_goals first | rfl | simp
@[simp] theorem State.queryPort_evaluator (s : State) (p : PortId) : (s.queryPort p).evaluator = s.evaluator := by
  dsimp only [State.queryPort]
  repeat' split
  all_goals first | rfl | simp
@[simp] theorem State.queryPort_decision (s : State) (p : PortId) : (s.queryPort p).decision = s.decision := by
  dsimp only [State.queryPort]
  repeat' split
  all_goals first | rfl | simp
@[simp] theorem State.queryPort_monitor (s : State) (p : PortId) : (s.queryPort p).monitor = s.monitor := by
  dsimp only [State.queryPort]
  repeat' split
  all_goals first | rfl | simp
@[simp] theorem State.queryPort_log (s : State) (p : PortId) : (s.queryPort p).log = s.log := by
  dsimp only [State.queryPort]
  repeat' split
  all_goals first | rfl | simp
@[simp] theorem State.queryPort_link (s : State) (p : PortId) : (s.queryPort p).link = s.link := by
  dsimp only [State.queryPort]
  repeat' split
  all_goals first | rfl | simp
@[simp] theorem State.queryPort_pending (s : State) (p : PortId) : (s.queryPort p).pending = s.pending := by
  dsimp only [State.queryPort]
  repeat' split
  all_goals first | rfl | simp
@[simp] theorem State.faultHead_now (s : State) (p : PortId) (cause : HeadFaultCause) (mark : Option Int) : (s.faultHead p cause mark).now = s.now := by
  dsimp only [State.faultHead]
  repeat' split
  all_goals first | rfl | simp
@[simp] theorem State.faultHead_pins (s : State) (p : PortId) (cause : HeadFaultCause) (mark : Option Int) : (s.faultHead p cause mark).pins = s.pins := by
  dsimp only [State.faultHead]
  repeat' split
  all_goals first | rfl | simp
@[simp] theorem State.faultHead_flow (s : State) (p : PortId) (cause : HeadFaultCause) (mark : Option Int) : (s.faultHead p cause mark).flow = s.flow := by
  dsimp only [State.faultHead]
  repeat' split
  all_goals first | rfl | simp
@[simp] theorem State.faultHead_slots (s : State) (p : PortId) (cause : HeadFaultCause) (mark : Option Int) : (s.faultHead p cause mark).slots = s.slots := by
  dsimp only [State.faultHead]
  repeat' split
  all_goals first | rfl | simp
@[simp] theorem State.faultHead_align (s : State) (p : PortId) (cause : HeadFaultCause) (mark : Option Int) : (s.faultHead p cause mark).align = s.align := by
  dsimp only [State.faultHead]
  repeat' split
  all_goals first | rfl | simp
@[simp] theorem State.faultHead_arbiter (s : State) (p : PortId) (cause : HeadFaultCause) (mark : Option Int) : (s.faultHead p cause mark).arbiter = s.arbiter := by
  dsimp only [State.faultHead]
  repeat' split
  all_goals first | rfl | simp
@[simp] theorem State.faultHead_engine (s : State) (p : PortId) (cause : HeadFaultCause) (mark : Option Int) : (s.faultHead p cause mark).engine = s.engine := by
  dsimp only [State.faultHead]
  repeat' split
  all_goals first | rfl | simp
@[simp] theorem State.faultHead_evaluator (s : State) (p : PortId) (cause : HeadFaultCause) (mark : Option Int) : (s.faultHead p cause mark).evaluator = s.evaluator := by
  dsimp only [State.faultHead]
  repeat' split
  all_goals first | rfl | simp
@[simp] theorem State.faultHead_decision (s : State) (p : PortId) (cause : HeadFaultCause) (mark : Option Int) : (s.faultHead p cause mark).decision = s.decision := by
  dsimp only [State.faultHead]
  repeat' split
  all_goals first | rfl | simp
@[simp] theorem State.faultHead_monitor (s : State) (p : PortId) (cause : HeadFaultCause) (mark : Option Int) : (s.faultHead p cause mark).monitor = s.monitor := by
  dsimp only [State.faultHead]
  repeat' split
  all_goals first | rfl | simp
@[simp] theorem State.faultHead_log (s : State) (p : PortId) (cause : HeadFaultCause) (mark : Option Int) : (s.faultHead p cause mark).log = s.log := by
  dsimp only [State.faultHead]
  repeat' split
  all_goals first | rfl | simp
@[simp] theorem State.faultHead_pending (s : State) (p : PortId) (cause : HeadFaultCause) (mark : Option Int) : (s.faultHead p cause mark).pending = s.pending := by
  dsimp only [State.faultHead]
  repeat' split
  all_goals first | rfl | simp
@[simp] theorem State.headReadyFrame_now (s : State) (p : PortId) (answer seq : Nat) : (s.headReadyFrame p answer seq).now = s.now := by
  dsimp only [State.headReadyFrame]
  repeat' split
  all_goals first | rfl | simp
@[simp] theorem State.headReadyFrame_pins (s : State) (p : PortId) (answer seq : Nat) : (s.headReadyFrame p answer seq).pins = s.pins := by
  dsimp only [State.headReadyFrame]
  repeat' split
  all_goals first | rfl | simp
@[simp] theorem State.headReadyFrame_flow (s : State) (p : PortId) (answer seq : Nat) : (s.headReadyFrame p answer seq).flow = s.flow := by
  dsimp only [State.headReadyFrame]
  repeat' split
  all_goals first | rfl | simp
@[simp] theorem State.headReadyFrame_slots (s : State) (p : PortId) (answer seq : Nat) : (s.headReadyFrame p answer seq).slots = s.slots := by
  dsimp only [State.headReadyFrame]
  repeat' split
  all_goals first | rfl | simp
@[simp] theorem State.headReadyFrame_align (s : State) (p : PortId) (answer seq : Nat) : (s.headReadyFrame p answer seq).align = s.align := by
  dsimp only [State.headReadyFrame]
  repeat' split
  all_goals first | rfl | simp
@[simp] theorem State.headReadyFrame_arbiter (s : State) (p : PortId) (answer seq : Nat) : (s.headReadyFrame p answer seq).arbiter = s.arbiter := by
  dsimp only [State.headReadyFrame]
  repeat' split
  all_goals first | rfl | simp
@[simp] theorem State.headReadyFrame_engine (s : State) (p : PortId) (answer seq : Nat) : (s.headReadyFrame p answer seq).engine = s.engine := by
  dsimp only [State.headReadyFrame]
  repeat' split
  all_goals first | rfl | simp
@[simp] theorem State.headReadyFrame_evaluator (s : State) (p : PortId) (answer seq : Nat) : (s.headReadyFrame p answer seq).evaluator = s.evaluator := by
  dsimp only [State.headReadyFrame]
  repeat' split
  all_goals first | rfl | simp
@[simp] theorem State.headReadyFrame_decision (s : State) (p : PortId) (answer seq : Nat) : (s.headReadyFrame p answer seq).decision = s.decision := by
  dsimp only [State.headReadyFrame]
  repeat' split
  all_goals first | rfl | simp
@[simp] theorem State.headReadyFrame_monitor (s : State) (p : PortId) (answer seq : Nat) : (s.headReadyFrame p answer seq).monitor = s.monitor := by
  dsimp only [State.headReadyFrame]
  repeat' split
  all_goals first | rfl | simp
@[simp] theorem State.headReadyFrame_log (s : State) (p : PortId) (answer seq : Nat) : (s.headReadyFrame p answer seq).log = s.log := by
  dsimp only [State.headReadyFrame]
  repeat' split
  all_goals first | rfl | simp
@[simp] theorem State.headReadyFrame_link (s : State) (p : PortId) (answer seq : Nat) : (s.headReadyFrame p answer seq).link = s.link := by
  dsimp only [State.headReadyFrame]
  repeat' split
  all_goals first | rfl | simp
@[simp] theorem State.headReadyFrame_pending (s : State) (p : PortId) (answer seq : Nat) : (s.headReadyFrame p answer seq).pending = s.pending := by
  dsimp only [State.headReadyFrame]
  repeat' split
  all_goals first | rfl | simp
@[simp] theorem State.itemSteps_now (s : State) (job : Served) (p : PortId) (item : IntakeItem) : (s.itemSteps job p item).now = s.now := by
  cases item <;> simp [State.itemSteps]
@[simp] theorem State.itemSteps_pins (s : State) (job : Served) (p : PortId) (item : IntakeItem) : (s.itemSteps job p item).pins = s.pins := by
  cases item <;> simp [State.itemSteps]
@[simp] theorem State.itemSteps_align (s : State) (job : Served) (p : PortId) (item : IntakeItem) : (s.itemSteps job p item).align = s.align := by
  cases item <;> simp [State.itemSteps]
@[simp] theorem State.itemSteps_ports (s : State) (job : Served) (p : PortId) (item : IntakeItem) : (s.itemSteps job p item).ports = s.ports := by
  cases item <;> simp [State.itemSteps]
@[simp] theorem State.itemSteps_arbiter (s : State) (job : Served) (p : PortId) (item : IntakeItem) : (s.itemSteps job p item).arbiter = s.arbiter := by
  cases item <;> simp [State.itemSteps]
@[simp] theorem State.itemSteps_evaluator (s : State) (job : Served) (p : PortId) (item : IntakeItem) : (s.itemSteps job p item).evaluator = s.evaluator := by
  cases item <;> simp [State.itemSteps]
@[simp] theorem State.itemSteps_pending (s : State) (job : Served) (p : PortId) (item : IntakeItem) : (s.itemSteps job p item).pending = s.pending := by
  cases item <;> simp [State.itemSteps]
@[simp] theorem State.intakeSteps_now (s : State) (job : Served) (p : PortId) (item : IntakeItem) : (s.intakeSteps job p item).now = s.now := by
  dsimp only [State.intakeSteps]
  repeat' split
  all_goals first | rfl | simp
@[simp] theorem State.intakeSteps_pins (s : State) (job : Served) (p : PortId) (item : IntakeItem) : (s.intakeSteps job p item).pins = s.pins := by
  dsimp only [State.intakeSteps]
  repeat' split
  all_goals first | rfl | simp
@[simp] theorem State.intakeSteps_align (s : State) (job : Served) (p : PortId) (item : IntakeItem) : (s.intakeSteps job p item).align = s.align := by
  dsimp only [State.intakeSteps]
  repeat' split
  all_goals first | rfl | simp
@[simp] theorem State.intakeSteps_arbiter (s : State) (job : Served) (p : PortId) (item : IntakeItem) : (s.intakeSteps job p item).arbiter = s.arbiter := by
  dsimp only [State.intakeSteps]
  repeat' split
  all_goals first | rfl | simp
@[simp] theorem State.intakeSteps_pending (s : State) (job : Served) (p : PortId) (item : IntakeItem) : (s.intakeSteps job p item).pending = s.pending := by
  dsimp only [State.intakeSteps]
  repeat' split
  all_goals first | rfl | simp

/-! ### Flow -/

@[simp] theorem State.arrive_now (s : State) (c : CtxId) (d : Descriptor) : (s.arrive c d).now = s.now := by
  dsimp only [State.arrive]
  repeat' split
  all_goals first | rfl | simp
@[simp] theorem State.arrive_pins (s : State) (c : CtxId) (d : Descriptor) : (s.arrive c d).pins = s.pins := by
  dsimp only [State.arrive]
  repeat' split
  all_goals first | rfl | simp
@[simp] theorem State.arrive_arbiter (s : State) (c : CtxId) (d : Descriptor) : (s.arrive c d).arbiter = s.arbiter := by
  dsimp only [State.arrive]
  repeat' split
  all_goals first | rfl | simp
@[simp] theorem State.arrive_evaluator (s : State) (c : CtxId) (d : Descriptor) : (s.arrive c d).evaluator = s.evaluator := by
  dsimp only [State.arrive]
  repeat' split
  all_goals first | rfl | simp
@[simp] theorem State.arrive_pending (s : State) (c : CtxId) (d : Descriptor) : (s.arrive c d).pending = s.pending := by
  dsimp only [State.arrive]
  repeat' split
  all_goals first | rfl | simp
@[simp] theorem State.removeBoard_now (s : State) (c : CtxId) : (s.removeBoard c).now = s.now := by
  dsimp only [State.removeBoard]
  repeat' split
  all_goals first | rfl | simp
@[simp] theorem State.removeBoard_pins (s : State) (c : CtxId) : (s.removeBoard c).pins = s.pins := by
  dsimp only [State.removeBoard]
  repeat' split
  all_goals first | rfl | simp
@[simp] theorem State.removeBoard_pending (s : State) (c : CtxId) : (s.removeBoard c).pending = s.pending := by
  dsimp only [State.removeBoard]
  repeat' split
  all_goals first | rfl | simp
@[simp] theorem State.completeRelease_now (s : State) (c : CtxId) : (s.completeRelease c).now = s.now := by
  dsimp only [State.completeRelease]
  repeat' split
  all_goals first | rfl | simp
@[simp] theorem State.completeRelease_pins (s : State) (c : CtxId) : (s.completeRelease c).pins = s.pins := by
  dsimp only [State.completeRelease]
  repeat' split
  all_goals first | rfl | simp
@[simp] theorem State.completeRelease_align (s : State) (c : CtxId) : (s.completeRelease c).align = s.align := by
  dsimp only [State.completeRelease]
  repeat' split
  all_goals first | rfl | simp
@[simp] theorem State.completeRelease_ports (s : State) (c : CtxId) : (s.completeRelease c).ports = s.ports := by
  dsimp only [State.completeRelease]
  repeat' split
  all_goals first | rfl | simp
@[simp] theorem State.completeRelease_arbiter (s : State) (c : CtxId) : (s.completeRelease c).arbiter = s.arbiter := by
  dsimp only [State.completeRelease]
  repeat' split
  all_goals first | rfl | simp
@[simp] theorem State.completeRelease_engine (s : State) (c : CtxId) : (s.completeRelease c).engine = s.engine := by
  dsimp only [State.completeRelease]
  repeat' split
  all_goals first | rfl | simp
@[simp] theorem State.completeRelease_evaluator (s : State) (c : CtxId) : (s.completeRelease c).evaluator = s.evaluator := by
  dsimp only [State.completeRelease]
  repeat' split
  all_goals first | rfl | simp
@[simp] theorem State.completeRelease_monitor (s : State) (c : CtxId) : (s.completeRelease c).monitor = s.monitor := by
  dsimp only [State.completeRelease]
  repeat' split
  all_goals first | rfl | simp
@[simp] theorem State.completeRelease_log (s : State) (c : CtxId) : (s.completeRelease c).log = s.log := by
  dsimp only [State.completeRelease]
  repeat' split
  all_goals first | rfl | simp
@[simp] theorem State.completeRelease_pending (s : State) (c : CtxId) : (s.completeRelease c).pending = s.pending := by
  dsimp only [State.completeRelease]
  repeat' split
  all_goals first | rfl | simp
@[simp] theorem State.abortIfMeasuring_now (s : State) (c : CtxId) : (s.abortIfMeasuring c).now = s.now := by
  dsimp only [State.abortIfMeasuring]
  repeat' split
  all_goals first | rfl | simp
@[simp] theorem State.abortIfMeasuring_pins (s : State) (c : CtxId) : (s.abortIfMeasuring c).pins = s.pins := by
  dsimp only [State.abortIfMeasuring]
  repeat' split
  all_goals first | rfl | simp
@[simp] theorem State.abortIfMeasuring_pending (s : State) (c : CtxId) : (s.abortIfMeasuring c).pending = s.pending := by
  dsimp only [State.abortIfMeasuring]
  repeat' split
  all_goals first | rfl | simp
@[simp] theorem State.enterHeld_now (s : State) (target : StationState) (cause : StationCause) : (s.enterHeld target cause).now = s.now := by
  dsimp only [State.enterHeld]
  repeat' split
  all_goals first | rfl | simp
@[simp] theorem State.enterHeld_pins (s : State) (target : StationState) (cause : StationCause) : (s.enterHeld target cause).pins = s.pins := by
  dsimp only [State.enterHeld]
  repeat' split
  all_goals first | rfl | simp
@[simp] theorem State.enterHeld_pending (s : State) (target : StationState) (cause : StationCause) : (s.enterHeld target cause).pending = s.pending := by
  dsimp only [State.enterHeld]
  repeat' split
  all_goals first | rfl | simp

end Sys2Proof.Machine
end

