-- ==== Sys2Proof/Laws/Lines.lean ====
section
/-! SUPPORT. Laws/Lines.lean: what the shared operations make of the output lines, the station state and
the exit timer: most leave them, and the pass over the lines brings them into agreement. -/

namespace Sys2Proof.Machine

/-- The station state, the three single lines and the exit timer. -/
def Flow.outs (w : Flow) : StationState × Bool × Bool × Bool × Option Nat :=
  (w.station, w.entryEnable, w.shift, w.release, w.exitTimer)

/-- The exit timer runs exactly while RELEASE is high. -/
def Flow.TimerOk (w : Flow) : Prop := w.exitTimer.isSome = w.release

theorem Flow.LinesOk.of_outs {w v : Flow} (h : v.outs = w.outs) (hw : w.LinesOk) : v.LinesOk := by
  simp only [Flow.outs, Prod.mk.injEq] at h
  obtain ⟨h1, h2, h3, h4, h5⟩ := h
  have hm : v.moving = w.moving := by simp [Flow.moving, h1]
  exact ⟨by rw [h1, h2]; exact hw.entry, by rw [hm, h3, h4]; exact hw.moving, by rw [h4, h5]; exact hw.timer⟩

theorem Flow.TimerOk.of_outs {w v : Flow} (h : v.outs = w.outs) (hw : w.TimerOk) : v.TimerOk := by
  simp only [Flow.outs, Prod.mk.injEq] at h
  obtain ⟨-, -, -, h4, h5⟩ := h
  simpa [Flow.TimerOk, h4, h5] using hw

theorem Flow.LinesOk.timerOk {w : Flow} (h : w.LinesOk) : w.TimerOk := h.timer

@[simp] theorem Flow.outs_ctxs (w : Flow) (x : Pair Context) : ({ w with ctxs := x } : Flow).outs = w.outs := rfl

@[simp] theorem State.modCtx_outs (s : State) (c : CtxId) (f : Context → Context) :
    (s.modCtx c f).flow.outs = s.flow.outs := rfl

theorem State.modFlow_outs (s : State) (f : Flow → Flow) (h : (f s.flow).outs = s.flow.outs) :
    (s.modFlow f).flow.outs = s.flow.outs := h

@[simp] theorem State.logRecord_outs (s : State) (c : CtxId) (r : LogRecord) :
    (s.logRecord c r).flow.outs = s.flow.outs := by
  dsimp only [State.logRecord, State.dropRecord]
  repeat' split
  all_goals first | rfl | simp

@[simp] theorem State.resolveMark_outs (s : State) (c : CtxId) (n : Nat) (r : MarkReading) :
    (s.resolveMark c n r).flow.outs = s.flow.outs := by
  cases r <;> rfl

@[simp] theorem State.seekPlacement_outs (s : State) (c : CtxId) (n : Nat) (p : Placement) :
    (s.seekPlacement c n p).flow.outs = s.flow.outs := by
  dsimp only [State.seekPlacement]
  repeat' split
  all_goals simp

@[simp] theorem State.seekPlacements_outs (s : State) (c : CtxId) (n : Nat) (l : List Placement) :
    (s.seekPlacements c n l).flow.outs = s.flow.outs := by
  induction l generalizing s n with
  | nil => rfl
  | cons p rest ih => simp [State.seekPlacements, ih]

@[simp] theorem State.releaseTest_lines (s : State) :
    (s.releaseTest).flow.outs = s.flow.outs := by
  dsimp only [State.releaseTest]
  repeat' split
  all_goals first | rfl | simp

/-- The pass over the lines brings them into agreement with the station state (R22, R25). -/
theorem State.driveLines_linesOk (s : State) (h : s.flow.TimerOk) : s.driveLines.flow.LinesOk := by
  have h1 : s.releaseTest.flow.TimerOk := h.of_outs (by simp)
  have hst : s.driveLines.flow.station = s.releaseTest.flow.station := rfl
  have hmv : s.driveLines.flow.moving = s.releaseTest.flow.moving := by simp [Flow.moving, hst]
  refine ⟨?_, ?_, ?_⟩
  · intro he
    have he' : (s.releaseTest.driveRelease.driveShift).entryCondition = true := he
    simp only [State.entryCondition, Bool.and_eq_true, beq_iff_eq] at he'
    exact he'.1.1.1.1
  · intro hm
    rw [hmv] at hm
    have hs : s.driveLines.flow.shift = (s.releaseTest.driveRelease).shiftCondition := rfl
    have hr : s.driveLines.flow.release =
        (s.releaseTest.flow.moving && (s.releaseTest.flow.findCtx (fun x => x.state == .releasing)).isSome) := rfl
    have hm2 : s.releaseTest.driveRelease.flow.moving = s.releaseTest.flow.moving := rfl
    exact ⟨by rw [hs, State.shiftCondition, hm2, hm, Bool.and_false], by rw [hr, hm, Bool.false_and]⟩
  · have ht : s.driveLines.flow.exitTimer =
        (if (s.releaseTest.flow.moving && (s.releaseTest.flow.findCtx (fun x => x.state == .releasing)).isSome) = true then
          (if s.releaseTest.flow.release = true then s.releaseTest.flow.exitTimer
            else some (s.releaseTest.after StationConfig.exitTimeout)) else none) := rfl
    have hr : s.driveLines.flow.release =
        (s.releaseTest.flow.moving && (s.releaseTest.flow.findCtx (fun x => x.state == .releasing)).isSome) := rfl
    rw [ht, hr]
    unfold Flow.TimerOk at h1
    split
    · rename_i hc
      rw [hc]
      split
      · rename_i h2; rw [h1, h2]
      · rfl
    · rename_i hc
      simp only [Bool.not_eq_true] at hc
      rw [hc]; rfl

/-- Driving ENTRY_ENABLE alone keeps the lines in agreement. -/
theorem State.driveEntry_linesOk (s : State) (h : s.flow.LinesOk) : s.driveEntry.flow.LinesOk := by
  refine ⟨?_, h.moving, h.timer⟩
  intro he
  have he' : s.entryCondition = true := he
  simp only [State.entryCondition, Bool.and_eq_true, beq_iff_eq] at he'
  exact he'.1.1.1.1

theorem State.freeContext_timerOk (s : State) (c : CtxId) (h : s.flow.TimerOk) :
    (s.freeContext c).flow.TimerOk := by
  dsimp only [State.freeContext, State.drainTest]
  split <;> exact h

theorem State.contextDecided_linesOk (s : State) (c : CtxId) (h : s.flow.TimerOk) :
    (s.contextDecided c).flow.LinesOk := by
  apply State.driveLines_linesOk
  split
  · exact State.freeContext_timerOk _ _ h
  · exact h

theorem State.makeDecision_linesOk (s : State) (c : CtxId) (k : DecisionKind) (t : Nat)
    (h : s.flow.TimerOk) : (s.makeDecision c k t).flow.LinesOk := by
  apply State.contextDecided_linesOk
  exact h.of_outs (by simp)

theorem State.reportComplete_linesOk (s : State) (c : CtxId) (h : s.flow.LinesOk) :
    (s.reportComplete c).flow.LinesOk := by
  dsimp only [State.reportComplete]
  split
  · split
    · exact State.makeDecision_linesOk _ _ _ _ h.timerOk
    · exact h
  · exact h

theorem State.enterJudging_linesOk (s : State) (c : CtxId) (h : s.flow.TimerOk) :
    (s.enterJudging c).flow.LinesOk := by
  have h1 := State.driveLines_linesOk (s.modCtx c (fun x => { x with state := .judging })) h
  dsimp only [State.enterJudging]
  split
  · exact State.makeDecision_linesOk _ _ _ _ h1.timerOk
  · exact h1

theorem State.lateDecision_linesOk (s : State) (c : CtxId) (h : s.flow.LinesOk) :
    (s.lateDecision c).flow.LinesOk := by
  dsimp only [State.lateDecision]
  apply State.makeDecision_linesOk
  split <;> exact h.timerOk.of_outs (by simp)

theorem State.abortContext_timerOk (s : State) (c : CtxId) (h : s.flow.TimerOk) :
    (s.abortContext c).flow.TimerOk := by
  dsimp only [State.abortContext]
  split
  · exact (State.makeDecision_linesOk _ _ _ _ (h.of_outs (by simp))).timerOk
  · exact h

theorem State.abortContext_linesOk (s : State) (c : CtxId) (h : s.flow.LinesOk) :
    (s.abortContext c).flow.LinesOk := by
  dsimp only [State.abortContext]
  split
  · exact State.makeDecision_linesOk _ _ _ _ (h.timerOk.of_outs (by simp))
  · exact h

theorem State.alignmentTest_linesOk (s : State) (h : s.flow.LinesOk) : s.alignmentTest.flow.LinesOk := by
  dsimp only [State.alignmentTest]
  split
  · exact h
  · split
    · split
      · exact h.of_outs (by simp [State.alignSuccess])
      · dsimp only [State.alignFault]
        split
        · exact State.makeDecision_linesOk _ _ _ _
            (State.reportComplete_linesOk _ _ (h.of_outs (by simp))).timerOk
        · exact State.reportComplete_linesOk _ _ (h.of_outs (by simp))
    · exact h

theorem State.beginAlignment_linesOk (s : State) (c : CtxId) (h : s.flow.LinesOk) :
    (s.beginAlignment c).flow.LinesOk := by
  dsimp only [State.beginAlignment]
  apply State.alignmentTest_linesOk
  apply h.of_outs
  simp only [State.startHeads_flow]
  rw [foldl_keeps (fun t => State.flow t) _ _ _
    (fun (t : State) (a : Fin 3) => State.seekOutOfField_flow t c a)]
  simp only [State.seekPlacements_outs]
  rw [foldl_keeps (fun t => State.flow t) _ _ _
    (fun (t : State) (a : Fin 3) => State.seekPrimary_flow t c a)]
  rfl

theorem State.resolveLocate_linesOk (s : State) (p : PortId) (o : FidOutcome) (r : MarkReading)
    (h : s.flow.LinesOk) : (s.resolveLocate p o r).flow.LinesOk := by
  dsimp only [State.resolveLocate]
  split
  · apply State.alignmentTest_linesOk
    apply h.of_outs
    simp only [State.startHeads_flow]
    split <;> simp
  · exact h

theorem State.locateFrame_linesOk (s : State) (p : PortId) (g : Bool) (b : List Byte)
    (h : s.flow.LinesOk) : (s.locateFrame p g b).flow.LinesOk := by
  dsimp only [State.locateFrame]
  repeat' split
  · exact State.resolveLocate_linesOk _ _ _ _ h
  · exact State.resolveLocate_linesOk _ _ _ _ h
  · exact h
  · exact h

theorem State.writeOff_linesOk (s : State) (c : CtxId) (j p i : Nat) (k : Cause) (h : s.flow.LinesOk) :
    (s.writeOff c j p i k).flow.LinesOk := by
  dsimp only [State.writeOff]
  exact State.reportComplete_linesOk _ _ (h.of_outs (by simp))

theorem State.writeSkipped_linesOk (s : State) (c : CtxId) (j : Nat) (k : Cause) (h : s.flow.LinesOk) :
    (s.writeSkipped c j k).flow.LinesOk := by
  dsimp only [State.writeSkipped]
  exact State.reportComplete_linesOk _ _ (h.of_outs (by simp))

theorem State.visitJoint_linesOk (s : State) (h : s.flow.LinesOk) : s.visitJoint.flow.LinesOk := by
  dsimp only [State.visitJoint]
  repeat' split
  all_goals first
    | exact h
    | exact State.writeSkipped_linesOk _ _ _ _ h
    | exact State.writeOff_linesOk _ _ _ _ _ _ h

theorem State.visitJoints_linesOk (s : State) (n : Nat) (h : s.flow.LinesOk) :
    (s.visitJoints n).flow.LinesOk := by
  induction n generalizing s with
  | zero => exact h
  | succ n ih => exact ih _ (State.visitJoint_linesOk _ h)

theorem State.completeArming_linesOk (s : State) (h : s.flow.LinesOk) :
    s.completeArming.flow.LinesOk := by
  dsimp only [State.completeArming]
  repeat' split
  · exact h.of_outs (by simp)
  · exact State.enterJudging_linesOk _ _ h.timerOk
  · exact h

theorem State.openJoint_linesOk (s : State) (c : CtxId) (a : ArmedJoint) (h : s.flow.LinesOk) :
    (s.openJoint c a).flow.LinesOk := by
  dsimp only [State.openJoint]
  split
  · exact h
  · exact State.writeOff_linesOk _ _ _ _ _ _ h

/-- A fold keeps an invariant that each of its steps keeps. -/
theorem foldl_inv {σ α : Type} (P : σ → Prop) (f : σ → α → σ) (l : List α) (s : σ)
    (hs : P s) (h : ∀ t a, P t → P (f t a)) : P (l.foldl f s) := by
  induction l generalizing s with
  | nil => exact hs
  | cons a rest ih => exact ih _ (h s a hs)

theorem State.openingStep_linesOk (s : State) (c : CtxId) (r : Nat) (h : s.flow.LinesOk) :
    (s.openingStep c r).flow.LinesOk :=
  foldl_inv (fun t => State.flow t |>.LinesOk) _ _ _ h (fun _ _ ht => State.openJoint_linesOk _ _ _ ht)

theorem State.closingTest_linesOk (s : State) (h : s.flow.LinesOk) : s.closingTest.flow.LinesOk := by
  dsimp only [State.closingTest]
  split
  · split
    · simp only [State.takeEntry_flow, State.modEngine_flow, State.closeWhere_flow]
      exact foldl_inv (fun t => State.flow t |>.LinesOk) _ _ _ h
        (fun _ _ ht => State.openJoint_linesOk _ _ _ ht)
    · simpa using h
  · exact h

theorem State.scanEndTest_linesOk (s : State) (h : s.flow.LinesOk) : s.scanEndTest.flow.LinesOk := by
  dsimp only [State.scanEndTest]
  repeat' split
  · exact State.enterJudging_linesOk _ _ h.timerOk
  · exact h
  · exact h

theorem State.completeEvaluation_linesOk (s : State) (x : Evaluation) (h : s.flow.LinesOk) :
    (s.completeEvaluation x).flow.LinesOk := by
  dsimp only [State.completeEvaluation]
  simp only [State.takeEntry_flow]
  repeat' split
  · exact h
  · dsimp only [State.keepResult]
    simp only [State.modEvaluator_flow]
    apply State.reportComplete_linesOk
    apply h.of_outs
    dsimp only [State.logResult]
    split <;> simp
  · exact h

theorem State.grantUpTo_linesOk (n : Nat) (s : State) (h : s.flow.LinesOk) :
    (State.grantUpTo n s).flow.LinesOk := by
  induction n generalizing s with
  | zero => exact h
  | succ n ih =>
    dsimp only [State.grantUpTo]
    repeat' split
    · simpa using h
    · apply ih
      dsimp only [State.releaseIntake]
      apply State.scanEndTest_linesOk
      simpa using h
    · exact h

theorem State.grant_linesOk (s : State) (h : s.flow.LinesOk) : s.grant.flow.LinesOk :=
  State.grantUpTo_linesOk _ _ h

theorem State.intakeSteps_linesOk (s : State) (j : Served) (p : PortId) (i : IntakeItem)
    (h : s.flow.LinesOk) : (s.intakeSteps j p i).flow.LinesOk := by
  dsimp only [State.intakeSteps]
  apply State.closingTest_linesOk
  simp only [State.modPort_flow]
  cases i with
  | tile k => simpa [State.itemSteps] using State.openingStep_linesOk _ _ _ h
  | loss r c => exact State.openingStep_linesOk _ _ _ h
  | endRecord => exact h

theorem State.arrive_linesOk (s : State) (c : CtxId) (d : Descriptor) (h : s.flow.LinesOk) :
    (s.arrive c d).flow.LinesOk := by
  dsimp only [State.arrive]
  apply State.beginAlignment_linesOk
  apply h.of_outs
  split <;> (simp; rfl)

theorem State.removeBoard_timerOk (s : State) (c : CtxId) (h : s.flow.TimerOk) :
    (s.removeBoard c).flow.TimerOk := by
  dsimp only [State.removeBoard]
  repeat' split
  · exact State.abortContext_timerOk _ _ h
  · exact State.freeContext_timerOk _ _ h
  · exact h

theorem State.enterHeld_timerOk (s : State) (t : StationState) (k : StationCause) :
    (s.enterHeld t k).flow.TimerOk := by
  dsimp only [State.enterHeld, State.abortIfMeasuring]
  repeat' split
  all_goals first
    | exact State.abortContext_timerOk _ _ (State.abortContext_timerOk _ _ rfl)
    | exact State.abortContext_timerOk _ _ rfl
    | rfl

end Sys2Proof.Machine
end

