-- ==== Sys2Proof/Laws/Notices.lean ====
section
/-! SUPPORT. Laws/Notices.lean: what raising, draining and sending do to the link controller, and that the
operations of the other blocks reach it by raising notices alone. -/

namespace Sys2Proof.Machine

/-! ### Maps -/

theorem mapGet_eq_none {α : Type} (k : Nat) (l : List (Nat × α)) :
    mapGet k l = none ↔ ∀ e ∈ l, e.1 ≠ k := by
  induction l with
  | nil => simp [mapGet]
  | cons e rest ih =>
    obtain ⟨j, a⟩ := e
    by_cases h : j = k
    · simp [mapGet, h]
    · simp [mapGet, h, ih]

theorem mapGet_mem {α : Type} {k : Nat} {l : List (Nat × α)} {a : α} (h : mapGet k l = some a) :
    (k, a) ∈ l := by
  induction l with
  | nil => simp [mapGet] at h
  | cons e rest ih =>
    obtain ⟨j, b⟩ := e
    by_cases hj : j = k
    · simp [mapGet, hj] at h; simp [hj, h]
    · simp [mapGet, hj] at h; exact List.mem_cons_of_mem _ (ih h)

theorem mem_mapPut {α : Type} {k : Nat} {a : α} {l : List (Nat × α)} {e : Nat × α}
    (h : e ∈ mapPut k a l) : e = (k, a) ∨ e ∈ l := by
  induction l with
  | nil => simpa [mapPut] using h
  | cons x rest ih =>
    obtain ⟨j, b⟩ := x
    simp only [mapPut] at h
    split at h
    · simpa using h
    · split at h
      · simp only [List.mem_cons] at h ⊢; tauto
      · simp only [List.mem_cons] at h ⊢
        rcases h with h | h
        · tauto
        · rcases ih h with h | h <;> tauto

theorem mapWf_mapPut {α : Type} (k : Nat) (a : α) (l : List (Nat × α)) (h : mapWf l) :
    mapWf (mapPut k a l) := by
  induction l with
  | nil => simp [mapPut]
  | cons x rest ih =>
    obtain ⟨j, b⟩ := x
    simp only [List.pairwise_cons] at h
    simp only [mapPut]
    split
    · rename_i hk
      refine List.pairwise_cons.2 ⟨?_, List.pairwise_cons.2 h⟩
      intro e he
      rcases List.mem_cons.1 he with rfl | he
      · exact hk
      · exact lt_trans hk (h.1 e he)
    · rename_i hk
      split
      · rename_i hkj
        subst hkj
        exact List.pairwise_cons.2 ⟨h.1, h.2⟩
      · rename_i hkj
        refine List.pairwise_cons.2 ⟨?_, ih h.2⟩
        intro e he
        rcases mem_mapPut he with rfl | he
        · simp; omega
        · exact h.1 e he

theorem mapWf_mapDel {α : Type} (k : Nat) (l : List (Nat × α)) (h : mapWf l) : mapWf (mapDel k l) :=
  List.Pairwise.sublist List.filter_sublist h

theorem mem_mapDel {α : Type} {k : Nat} {l : List (Nat × α)} {e : Nat × α} (h : e ∈ mapDel k l) :
    e ∈ l ∧ e.1 ≠ k := by
  simpa [mapDel] using h

theorem mapGet_mapDel_self {α : Type} (k : Nat) (l : List (Nat × α)) : mapGet k (mapDel k l) = none := by
  rw [mapGet_eq_none]
  intro e he
  exact (mem_mapDel he).2

theorem mapGet_mapDel_ne {α : Type} {k j : Nat} (l : List (Nat × α)) (h : j ≠ k) :
    mapGet j (mapDel k l) = mapGet j l := by
  induction l with
  | nil => rfl
  | cons x rest ih =>
    obtain ⟨i, b⟩ := x
    by_cases hik : i = k
    · have hij : ¬ i = j := by omega
      have : mapDel k ((i, b) :: rest) = mapDel k rest := by simp [mapDel, hik]
      rw [this, ih]
      simp [mapGet, hij]
    · have : mapDel k ((i, b) :: rest) = (i, b) :: mapDel k rest := by simp [mapDel, hik]
      rw [this]
      simp [mapGet, ih]

theorem mapGet_mapPut_self {α : Type} (k : Nat) (a : α) (l : List (Nat × α)) :
    mapGet k (mapPut k a l) = some a := by
  induction l with
  | nil => simp [mapPut, mapGet]
  | cons x rest ih =>
    obtain ⟨j, b⟩ := x
    simp only [mapPut]
    split
    · simp [mapGet]
    · split
      · simp [mapGet]
      · rename_i h1 h2
        have : ¬ j = k := by omega
        simp [mapGet, this, ih]

theorem mapGet_mapPut_ne {α : Type} {k j : Nat} (a : α) (l : List (Nat × α)) (h : j ≠ k) :
    mapGet j (mapPut k a l) = mapGet j l := by
  induction l with
  | nil => simp [mapPut, mapGet, Ne.symm h]
  | cons x rest ih =>
    obtain ⟨i, b⟩ := x
    simp only [mapPut]
    split
    · simp [mapGet, Ne.symm h]
    · split
      · rename_i h1 h2
        subst h2
        simp [mapGet, Ne.symm h]
      · simp [mapGet, ih]

/-! ### Raising (R173) -/

/-- The link controller after a list of notices has been raised, in order. -/
def Link.Raises (l l' : Link) : Prop := ∃ ds : List NoticeData, l' = ds.foldl (fun l d => Link.raise d l) l

theorem Link.Raises.refl (l : Link) : l.Raises l := ⟨[], rfl⟩

theorem Link.Raises.of_eq {l l' : Link} (h : l' = l) : l.Raises l' := h ▸ Link.Raises.refl l

theorem Link.Raises.trans {a b c : Link} (h : a.Raises b) (h' : b.Raises c) : a.Raises c := by
  obtain ⟨ds, rfl⟩ := h
  obtain ⟨es, rfl⟩ := h'
  exact ⟨ds ++ es, by simp⟩

theorem Link.Raises.one (l : Link) (d : NoticeData) : l.Raises (l.raise d) := ⟨[d], rfl⟩

theorem Link.Raises.raise {a b : Link} (h : a.Raises b) (d : NoticeData) : a.Raises (b.raise d) :=
  h.trans (Link.Raises.one b d)

/-- The fields that raising a notice never touches. -/
theorem Link.Raises.rest {l l' : Link} (h : l.Raises l') :
    l'.framer = l.framer ∧ l'.held = l.held ∧ l'.inService = l.inService ∧ l'.resetCount = l.resetCount
      ∧ l'.replySlot = l.replySlot ∧ l'.refusals = l.refusals ∧ l'.mask = l.mask
      ∧ l'.sending = l.sending := by
  obtain ⟨ds, rfl⟩ := h
  induction ds generalizing l with
  | nil => simp
  | cons d rest ih =>
    have h1 : (l.raise d).framer = l.framer ∧ (l.raise d).held = l.held
        ∧ (l.raise d).inService = l.inService ∧ (l.raise d).resetCount = l.resetCount
        ∧ (l.raise d).replySlot = l.replySlot ∧ (l.raise d).refusals = l.refusals
        ∧ (l.raise d).mask = l.mask ∧ (l.raise d).sending = l.sending := by
      unfold Link.raise
      repeat' split
      all_goals simp
    obtain ⟨a, b, c, d', e, f, g, i⟩ := h1
    obtain ⟨a', b', c', d'', e', f', g', i'⟩ := @ih (l.raise d)
    exact ⟨a'.trans a, b'.trans b, c'.trans c, d''.trans d', e'.trans e, f'.trans f, g'.trans g, i'.trans i⟩

/-- An operation of another block reaches the link controller by raising notices alone. -/
theorem foldl_raises {α : Type} (f : State → α → State) (l : List α) (s : State)
    (h : ∀ t a, (State.link t).Raises (f t a).link) : s.link.Raises (l.foldl f s).link := by
  induction l generalizing s with
  | nil => exact Link.Raises.refl _
  | cons a rest ih => exact (h s a).trans (ih _)

theorem State.changeStation_raises (s : State) (a : StationState) (k : StationCause) :
    s.link.Raises (s.changeStation a k).link := Link.Raises.one _ _

theorem State.drainTest_raises (s : State) : s.link.Raises s.drainTest.link := by
  dsimp only [State.drainTest]
  split
  · exact Link.Raises.one _ _
  · exact Link.Raises.refl _

theorem State.freeContext_raises (s : State) (c : CtxId) : s.link.Raises (s.freeContext c).link := by
  dsimp only [State.freeContext]
  exact State.drainTest_raises _

theorem State.logRecord_raises (s : State) (c : CtxId) (r : LogRecord) :
    s.link.Raises (s.logRecord c r).link := by
  dsimp only [State.logRecord, State.dropRecord]
  repeat' split
  all_goals first | exact Link.Raises.refl _ | exact Link.Raises.one _ _

theorem State.feedDrift_raises (s : State) (k : SlotId) (i x : Nat) :
    s.link.Raises (s.feedDrift k i x).link := by
  dsimp only [State.feedDrift]
  repeat' split
  all_goals first | exact Link.Raises.refl _ | exact Link.Raises.one _ _

theorem State.unprime_raises (s : State) (k : SlotId) (i : Nat) :
    s.link.Raises (s.unprime k i).link := by
  dsimp only [State.unprime]
  repeat' split
  all_goals first | exact Link.Raises.refl _ | exact Link.Raises.one _ _

theorem State.unprimeRun_raises (s : State) (k : SlotId) (i n : Nat) :
    s.link.Raises (s.unprimeRun k i n).link :=
  foldl_raises _ _ _ (fun t a => State.unprime_raises t k (i + a))

theorem State.repeatSite_raises (s : State) : s.link.Raises s.repeatSite.link := by
  dsimp only [State.repeatSite]
  repeat' split
  all_goals first | exact Link.Raises.refl _ | exact Link.Raises.one _ _

theorem State.sampleOven_raises (s : State) (c : BitVec 4) : s.link.Raises (s.sampleOven c).link := by
  dsimp only [State.sampleOven, State.recognize]
  repeat' split
  all_goals first | exact Link.Raises.refl _ | exact Link.Raises.one _ _

theorem State.sampleRun_raises (s : State) (c : BitVec 4) (n : Nat) :
    s.link.Raises (s.sampleRun c n).link := by
  induction n generalizing s with
  | zero => exact Link.Raises.refl _
  | succ n ih => exact (State.sampleOven_raises s c).trans (ih _)

theorem State.contextDecided_raises (s : State) (c : CtxId) :
    s.link.Raises (s.contextDecided c).link := by
  dsimp only [State.contextDecided]
  simp only [State.driveLines_link]
  split
  · exact State.freeContext_raises _ _
  · exact Link.Raises.refl _

theorem State.makeDecision_raises (s : State) (c : CtxId) (k : DecisionKind) (t : Nat) :
    s.link.Raises (s.makeDecision c k t).link := by
  refine Link.Raises.trans ?_ (State.contextDecided_raises _ _)
  exact (State.logRecord_raises (s.setDecision c (.decided (s.decisionOf c k t))) _ _).raise _

theorem State.reportComplete_raises (s : State) (c : CtxId) :
    s.link.Raises (s.reportComplete c).link := by
  dsimp only [State.reportComplete]
  repeat' split
  · exact State.makeDecision_raises _ _ _ _
  · exact Link.Raises.refl _
  · exact Link.Raises.refl _

theorem State.enterJudging_raises (s : State) (c : CtxId) : s.link.Raises (s.enterJudging c).link := by
  dsimp only [State.enterJudging]
  split
  · refine Link.Raises.trans ?_ (State.makeDecision_raises _ _ _ _)
    exact Link.Raises.of_eq (by simp)
  · exact Link.Raises.of_eq (by simp)

theorem State.lateDecision_raises (s : State) (c : CtxId) : s.link.Raises (s.lateDecision c).link := by
  dsimp only [State.lateDecision]
  refine Link.Raises.trans ?_ (State.makeDecision_raises _ _ _ _)
  split <;> exact Link.Raises.of_eq (by simp)

theorem State.abortContext_raises (s : State) (c : CtxId) : s.link.Raises (s.abortContext c).link := by
  dsimp only [State.abortContext]
  split
  · refine Link.Raises.trans ?_ (State.makeDecision_raises _ _ _ _)
    exact Link.Raises.of_eq (by simp)
  · exact Link.Raises.refl _

theorem State.alignmentTest_raises (s : State) : s.link.Raises s.alignmentTest.link := by
  dsimp only [State.alignmentTest]
  split
  · exact Link.Raises.refl _
  · split
    · split
      · exact Link.Raises.of_eq (by simp)
      · dsimp only [State.alignFault]
        split
        · refine Link.Raises.trans ?_ (State.makeDecision_raises _ _ _ _)
          refine Link.Raises.trans ?_ (State.reportComplete_raises _ _)
          exact Link.Raises.of_eq (by simp)
        · refine Link.Raises.trans ?_ (State.reportComplete_raises _ _)
          exact Link.Raises.of_eq (by simp)
    · exact Link.Raises.refl _

theorem State.beginAlignment_raises (s : State) (c : CtxId) :
    s.link.Raises (s.beginAlignment c).link := by
  dsimp only [State.beginAlignment]
  refine Link.Raises.trans ?_ (State.alignmentTest_raises _)
  apply Link.Raises.of_eq
  simp only [State.startHeads_link]
  rw [foldl_keeps (fun t => State.link t) _ _ _
    (fun (t : State) (a : Fin 3) => State.seekOutOfField_link t c a)]
  simp only [State.seekPlacements_link]
  rw [foldl_keeps (fun t => State.link t) _ _ _
    (fun (t : State) (a : Fin 3) => State.seekPrimary_link t c a)]
  rfl

theorem State.resolveLocate_raises (s : State) (p : PortId) (o : FidOutcome) (r : MarkReading) :
    s.link.Raises (s.resolveLocate p o r).link := by
  dsimp only [State.resolveLocate]
  split
  · refine Link.Raises.trans ?_ (State.alignmentTest_raises _)
    apply Link.Raises.of_eq
    simp only [State.startHeads_link]
    split <;> simp
  · exact Link.Raises.refl _

theorem State.writeOff_raises (s : State) (c : CtxId) (j p i : Nat) (k : Cause) :
    s.link.Raises (s.writeOff c j p i k).link := by
  dsimp only [State.writeOff]
  refine Link.Raises.trans ?_ (State.reportComplete_raises _ _)
  exact State.logRecord_raises (s.modCtx c _) _ _

theorem State.writeSkipped_raises (s : State) (c : CtxId) (j : Nat) (k : Cause) :
    s.link.Raises (s.writeSkipped c j k).link := by
  dsimp only [State.writeSkipped]
  exact State.reportComplete_raises (s.modCtx c _) _

theorem State.visitJoint_raises (s : State) : s.link.Raises s.visitJoint.link := by
  dsimp only [State.visitJoint]
  repeat' split
  · exact State.writeSkipped_raises (s.modEngine _) _ _ _
  · exact State.writeOff_raises (s.modEngine _) _ _ _ _ _
  · exact Link.Raises.refl _
  · exact Link.Raises.refl _
  · exact Link.Raises.refl _
  · exact Link.Raises.refl _

theorem State.visitJoints_raises (s : State) (n : Nat) : s.link.Raises (s.visitJoints n).link := by
  induction n generalizing s with
  | zero => exact Link.Raises.refl _
  | succ n ih => exact (State.visitJoint_raises s).trans (ih _)

theorem State.completeArming_raises (s : State) : s.link.Raises s.completeArming.link := by
  dsimp only [State.completeArming]
  repeat' split
  · exact Link.Raises.of_eq (by simp)
  · exact State.enterJudging_raises (s.modEngine _) _
  · exact Link.Raises.refl _

theorem State.openJoint_raises (s : State) (c : CtxId) (a : ArmedJoint) :
    s.link.Raises (s.openJoint c a).link := by
  dsimp only [State.openJoint]
  split
  · exact Link.Raises.refl _
  · exact State.writeOff_raises (s.modEngine _) _ _ _ _ _

theorem State.openingStep_raises (s : State) (c : CtxId) (r : Nat) :
    s.link.Raises (s.openingStep c r).link := by
  dsimp only [State.openingStep, State.openUpTo]
  exact foldl_raises _ _ _ (fun t a => State.openJoint_raises t c a)

theorem State.closingTest_raises (s : State) : s.link.Raises s.closingTest.link := by
  dsimp only [State.closingTest]
  split
  · split
    · simp only [State.takeEntry_link, State.modEngine_link, State.closeWhere_link]
      exact foldl_raises _ _ _ (fun t a => State.openJoint_raises t _ a)
    · exact Link.Raises.of_eq (by simp)
  · exact Link.Raises.refl _

theorem State.scanEndTest_raises (s : State) : s.link.Raises s.scanEndTest.link := by
  dsimp only [State.scanEndTest]
  repeat' split
  · exact State.enterJudging_raises _ _
  · exact Link.Raises.refl _
  · exact Link.Raises.refl _

theorem State.feedResult_raises (s : State) (e : EvalEntry) (r : EvalResult) :
    s.link.Raises (s.feedResult e r).link := by
  dsimp only [State.feedResult]
  repeat' split
  all_goals first | exact Link.Raises.refl _ | exact State.feedDrift_raises _ _ _ _

theorem State.logResult_raises (s : State) (e : EvalEntry) (r : EvalResult) :
    s.link.Raises (s.logResult e r).link := by
  dsimp only [State.logResult]
  split
  · exact Link.Raises.refl _
  · exact State.logRecord_raises _ _ _

theorem State.completeEvaluation_raises (s : State) (x : Evaluation) :
    s.link.Raises (s.completeEvaluation x).link := by
  dsimp only [State.completeEvaluation]
  simp only [State.takeEntry_link]
  repeat' split
  · exact Link.Raises.refl _
  · dsimp only [State.keepResult]
    simp only [State.modEvaluator_link]
    refine Link.Raises.trans ?_ (State.reportComplete_raises _ _)
    refine Link.Raises.trans ?_ (State.logResult_raises _ _ _)
    refine Link.Raises.trans ?_ (State.feedResult_raises _ _ _)
    exact Link.Raises.of_eq (by simp)
  · exact Link.Raises.refl _

theorem State.grantUpTo_raises (n : Nat) (s : State) : s.link.Raises (State.grantUpTo n s).link := by
  induction n generalizing s with
  | zero => exact Link.Raises.refl _
  | succ n ih =>
    dsimp only [State.grantUpTo]
    repeat' split
    · exact Link.Raises.of_eq (by simp)
    · refine Link.Raises.trans ?_ (ih _)
      dsimp only [State.releaseIntake]
      refine Link.Raises.trans ?_ (State.scanEndTest_raises _)
      exact Link.Raises.of_eq (by simp)
    · exact Link.Raises.refl _

theorem State.grant_raises (s : State) : s.link.Raises s.grant.link := State.grantUpTo_raises _ _

theorem State.releaseIntake_raises (s : State) : s.link.Raises s.releaseIntake.link := by
  dsimp only [State.releaseIntake]
  refine Link.Raises.trans ?_ (State.scanEndTest_raises _)
  exact Link.Raises.of_eq (by simp)

theorem State.faultHead_raises (s : State) (p : PortId) (k : HeadFaultCause) (m : Option Int) :
    s.link.Raises (s.faultHead p k m).link := by
  dsimp only [State.faultHead]
  exact Link.Raises.one _ _

theorem State.intakeSteps_raises (s : State) (j : Served) (p : PortId) (i : IntakeItem) :
    s.link.Raises (s.intakeSteps j p i).link := by
  dsimp only [State.intakeSteps]
  refine Link.Raises.trans ?_ (State.closingTest_raises _)
  simp only [State.modPort_link]
  cases i with
  | tile k => simpa [State.itemSteps] using State.openingStep_raises _ _ _
  | loss r c => exact State.openingStep_raises _ _ _
  | endRecord => exact Link.Raises.refl _

theorem State.arrive_raises (s : State) (c : CtxId) (d : Descriptor) :
    s.link.Raises (s.arrive c d).link := by
  dsimp only [State.arrive]
  refine Link.Raises.trans ?_ (State.beginAlignment_raises _ _)
  split <;> exact Link.Raises.of_eq (by simp)

theorem State.removeBoard_raises (s : State) (c : CtxId) : s.link.Raises (s.removeBoard c).link := by
  dsimp only [State.removeBoard]
  repeat' split
  · exact State.abortContext_raises ((s.modCtx c _).modFlow _) _
  · exact State.freeContext_raises ((s.modCtx c _).modFlow _) _
  · exact Link.Raises.refl _

theorem State.enterHeld_raises (s : State) (a : StationState) (k : StationCause) :
    s.link.Raises (s.enterHeld a k).link := by
  dsimp only [State.enterHeld, State.abortIfMeasuring]
  have h1 : s.link.Raises (s.changeStation a k).link := Link.Raises.one _ _
  repeat' split
  · refine Link.Raises.trans ?_ (State.abortContext_raises _ _)
    exact h1.trans (State.abortContext_raises ((s.changeStation a k).modFlow _) _)
  · exact h1.trans (State.abortContext_raises ((s.changeStation a k).modFlow _) _)
  · exact h1.trans (State.abortContext_raises ((s.changeStation a k).modFlow _) _)
  · exact h1
  · refine Link.Raises.trans ?_ (State.abortContext_raises _ _)
    exact h1.trans (State.abortContext_raises ((s.changeStation a k).modFlow _) _)
  · exact h1.trans (State.abortContext_raises ((s.changeStation a k).modFlow _) _)
  · exact h1.trans (State.abortContext_raises ((s.changeStation a k).modFlow _) _)
  · exact h1

end Sys2Proof.Machine
end

