-- ==== Sys2Proof/Laws/Buffers.lean ====
section
/-! SUPPORT. Laws/Buffers.lean: every operation keeps the defect log, the process monitor and the
accumulator pool in their standing form (R83, R103, R138, R143, R149, R156 to R159). -/

namespace Sys2Proof.Machine

/-! ### The accumulator pool -/

theorem Engine.PoolOk.of_eq {e f : Engine} (h : e.PoolOk) (hp : f.pool = e.pool) (hk : f.peak = e.peak) :
    f.PoolOk := ⟨by rw [hp]; exact h.wf, by rw [hp]; exact h.numbers, by rw [hp, hk]; exact h.peak⟩

theorem mapPut_length {α : Type} (k : Nat) (a : α) (l : List (Nat × α)) :
    (mapPut k a l).length ≤ l.length + 1 := by
  induction l with
  | nil => simp [mapPut]
  | cons e rest ih =>
    obtain ⟨j, b⟩ := e
    simp only [mapPut]
    split
    · simp
    · split
      · simp
      · simp only [List.length_cons]; omega

theorem mapPut_length_of_get {α : Type} (k : Nat) (a b : α) (l : List (Nat × α)) (hw : mapWf l)
    (h : mapGet k l = some b) : (mapPut k a l).length = l.length := by
  induction l with
  | nil => simp [mapGet] at h
  | cons e rest ih =>
    obtain ⟨j, c⟩ := e
    simp only [mapGet] at h
    simp only [mapPut]
    split at h
    · rename_i hj; subst hj; simp
    · rename_i hj
      have hm := mapGet_mem h
      have hlt : j < k := (List.pairwise_cons.mp hw).1 _ hm
      rw [if_neg (by omega), if_neg (by omega)]
      simp only [List.length_cons]
      rw [ih (List.pairwise_cons.mp hw).2 h]

/-- A listed accumulator replaced keeps the pool's form. -/
theorem Engine.PoolOk.put {e f : Engine} (h : e.PoolOk) {k : Nat} {a b : Accumulator}
    (hg : mapGet k e.pool = some b) (hp : f.pool = mapPut k a e.pool) (hk : f.peak = e.peak) :
    f.PoolOk := by
  refine ⟨by rw [hp]; exact mapWf_mapPut _ _ _ h.wf, ?_, ?_⟩
  · intro x hx
    rw [hp] at hx
    rcases mem_mapPut hx with rfl | hx
    · exact h.numbers (k, b) (mapGet_mem hg)
    · exact h.numbers x hx
  · rw [hp, hk, mapPut_length_of_get _ _ _ _ h.wf hg]; exact h.peak

/-- An accumulator taken out keeps the pool's form (R83). -/
theorem Engine.PoolOk.del {e f : Engine} (h : e.PoolOk) (k : Nat) (hp : f.pool = mapDel k e.pool)
    (hk : f.peak = e.peak) : f.PoolOk := by
  refine ⟨by rw [hp]; exact mapWf_mapDel _ _ h.wf, ?_, ?_⟩
  · intro x hx; rw [hp] at hx; exact h.numbers x (mem_mapDel hx).1
  · rw [hp, hk]; exact le_trans (List.length_filter_le _ _) h.peak

/-- A drop keeps the pool's form (R101). -/
theorem Engine.PoolOk.drop {e f : Engine} (h : e.PoolOk) (c : CtxId)
    (hp : f.pool = dropAccumulators c e.pool) (hk : f.peak = e.peak) : f.PoolOk := by
  refine ⟨?_, ?_, ?_⟩
  · rw [hp]
    unfold dropAccumulators
    apply List.Pairwise.map _ _ (List.Pairwise.filter _ h.wf)
    intro a b hab
    split <;> split <;> exact hab
  · intro x hx
    rw [hp] at hx
    unfold dropAccumulators at hx
    obtain ⟨y, hy, rfl⟩ := List.mem_map.mp hx
    have := h.numbers y (List.mem_filter.mp hy).1
    split <;> exact this
  · rw [hp, hk]
    unfold dropAccumulators
    rw [List.length_map]
    exact le_trans (List.length_filter_le _ _) h.peak

/-! ### The process monitor -/

theorem Monitor.Ok.of_eq {m n : Monitor} (h : m.Ok) (h1 : n.drift = m.drift) (h2 : n.repeats = m.repeats)
    (h3 : n.requests = m.requests) (h4 : n.work = m.work) (h5 : n.changes = m.changes) : n.Ok :=
  ⟨by rw [h1]; exact h.drift, by rw [h2]; exact h.repeats, by rw [h2]; exact h.values,
    by rw [h3]; exact h.requests, by rw [h3, h4]; exact h.idle, by rw [h5]; exact h.changes⟩

theorem Monitor.Ok.beginNext {m : Monitor} (h : mapWf m.drift ∧ mapWf m.repeats
      ∧ (∀ e ∈ m.repeats, 1 ≤ e.2 ∧ e.2 ≤ 255) ∧ m.requests.length ≤ Config.repeatListSize
      ∧ m.changes.length ≤ 2) : m.beginNext.Ok := by
  obtain ⟨h1, h2, h3, h4, h5⟩ := h
  unfold Monitor.beginNext
  split
  · rename_i r rest hw hr
    refine ⟨h1, h2, h3, ?_, ?_, h5⟩
    · rw [hr] at h4; simp only [List.length_cons] at h4 ⊢; omega
    · intro hn; cases hn
  · rename_i hne
    refine ⟨h1, h2, h3, h4, ?_, h5⟩
    intro hw
    cases hr : m.requests with
    | nil => rfl
    | cons r rest => exact absurd hr (by intro hr; exact hne r rest hw hr)

theorem Monitor.Ok.setRepeat {m : Monitor} (h : m.Ok) (k : SlotId) (i n : Nat) (hn : n ≤ 255) :
    (m.setRepeat k i n).Ok := by
  unfold Monitor.setRepeat
  refine ⟨h.drift, ?_, ?_, h.requests, h.idle, h.changes⟩
  · dsimp only
    split
    · exact mapWf_mapDel _ _ h.repeats
    · exact mapWf_mapPut _ _ _ h.repeats
  · intro e he
    dsimp only at he
    split at he
    · exact h.values e (mem_mapDel he).1
    · rename_i h0
      rcases mem_mapPut he with rfl | he
      · exact ⟨Nat.one_le_iff_ne_zero.mpr h0, hn⟩
      · exact h.values e he

theorem Monitor.Ok.request {m : Monitor} (h : m.Ok) (r : RepeatRequest) : (Monitor.request r m).Ok := by
  unfold Monitor.request
  split
  · exact ⟨h.drift, h.repeats, h.values, h.requests, (by intro hn; cases hn), h.changes⟩
  · rename_i hw
    have hw' : m.work ≠ none := by simpa using hw
    split
    · rename_i hl
      exact ⟨h.drift, h.repeats, h.values, by simp; omega, fun hn => absurd hn hw', h.changes⟩
    · exact h.of_eq rfl rfl rfl rfl rfl

theorem Monitor.Ok.discardRequests {m : Monitor} (h : m.Ok) (k : SlotId) : (m.discardRequests k).Ok := by
  have hl : (m.requests.filter (fun r => r.slot != k)).length ≤ Config.repeatListSize :=
    le_trans (List.length_filter_le _ _) h.requests
  unfold Monitor.discardRequests
  dsimp only
  split
  · rename_i w hw
    split
    · exact Monitor.Ok.beginNext ⟨h.drift, h.repeats, h.values, hl, h.changes⟩
    · refine ⟨h.drift, h.repeats, h.values, hl, ?_, h.changes⟩
      intro hn
      have hn' : m.work = none := hn
      rw [hn'] at hw; cases hw
  · rename_i hw
    refine ⟨h.drift, h.repeats, h.values, hl, ?_, h.changes⟩
    intro _
    simp [h.idle hw]

theorem Monitor.Ok.zeroRepeats {m : Monitor} (h : m.Ok) (k : SlotId) : (m.zeroRepeats k).Ok := by
  refine ⟨h.drift, List.Pairwise.filter _ h.repeats, ?_, h.requests, h.idle, h.changes⟩
  intro e he
  exact h.values e (List.mem_filter.mp he).1

theorem Monitor.Ok.addChange {m : Monitor} (h : m.Ok) (c : BitVec 4) (t : Nat) : (m.addChange c t).Ok := by
  unfold Monitor.addChange
  split
  · exact ⟨h.drift, h.repeats, h.values, h.requests, h.idle, by simp⟩
  · rename_i hne
    refine ⟨h.drift, h.repeats, h.values, h.requests, h.idle, ?_⟩
    cases hc : m.changes with
    | nil => simp
    | cons a rest =>
      cases rest with
      | nil => simp
      | cons b rest => exact absurd hc (by intro hc; exact hne _ _ _ hc)

/-! ### The state -/

theorem State.BuffersOk.of_eq {s t : State} (h : s.BuffersOk) (h1 : t.log = s.log)
    (h2 : t.monitor = s.monitor) (h3 : t.engine = s.engine) : t.BuffersOk :=
  ⟨by rw [h1]; exact h.log, by rw [h2]; exact h.monitor, by rw [h3]; exact h.pool⟩

theorem State.freeContext_buffers (s : State) (c : CtxId) (h : s.BuffersOk) :
    (s.freeContext c).BuffersOk := h.of_eq (by simp) (by simp) (by simp)

/-- A record placed or dropped keeps the log's form (R157, R158, R159). -/
theorem State.logRecord_buffers (s : State) (c : CtxId) (r : LogRecord) (h : s.BuffersOk) :
    (s.logRecord c r).BuffersOk := by
  refine ⟨?_, by simpa using h.monitor, by simpa using h.pool⟩
  have hdrop : (s.dropRecord c r).log.Ok := by
    have key : ∀ g : DefectLog, g.segments = s.log.segments → g.writePos = s.log.writePos → g.Ok := by
      intro g h1 h2
      exact ⟨by rw [h1]; exact h.log.segments, by rw [h1, h2]; exact h.log.filling⟩
    dsimp only [State.dropRecord]
    repeat' split
    all_goals exact key _ rfl rfl
  dsimp only [State.logRecord]
  have hs := h.log.segments s.log.writePos
  split
  · exact hdrop
  · rename_i hne
    have hlen : (s.log.segments.get s.log.writePos).records.length < Config.segmentSize := by
      unfold Segment.Ok at hs
      cases hst : (s.log.segments.get s.log.writePos).state <;> rw [hst] at hs
      · rw [hs]; simp [Config.segmentSize]
      · exact hs.2
      · exact absurd hst hne
    split
    · refine ⟨?_, ?_⟩
      · intro k
        by_cases hk : k = s.log.writePos
        · subst hk
          simp only [State.raise_log, State.modLog_log, Quad.get_set_self, Segment.Ok, List.length_append,
            List.length_singleton]
          omega
        · simpa [Quad.get_set_ne _ _ _ _ hk] using h.log.segments k
      · intro k hk
        by_cases hk' : k = s.log.writePos
        · subst hk'; simp at hk
        · simp only [State.raise_log, State.modLog_log, Quad.get_set_ne _ _ _ _ hk'] at hk
          exact absurd (h.log.filling k hk) hk'
    · rename_i hr
      simp only [not_or] at hr
      refine ⟨?_, ?_⟩
      · intro k
        by_cases hk : k = s.log.writePos
        · subst hk
          have := hr.1
          simp only [List.length_append, List.length_singleton] at this
          simp only [State.modLog_log, Quad.get_set_self, Segment.Ok, List.length_append,
            List.length_singleton]
          omega
        · simpa [Quad.get_set_ne _ _ _ _ hk] using h.log.segments k
      · intro k hk
        by_cases hk' : k = s.log.writePos
        · simpa using hk'
        · simp only [State.modLog_log, Quad.get_set_ne _ _ _ _ hk'] at hk
          exact absurd (h.log.filling k hk) hk'

theorem State.driveLines_buffers (s : State) (h : s.BuffersOk) : s.driveLines.BuffersOk :=
  h.of_eq (by simp) (by simp) (by simp)

theorem State.contextDecided_buffers (s : State) (c : CtxId) (h : s.BuffersOk) :
    (s.contextDecided c).BuffersOk := h.of_eq (by simp) (by simp) (by simp)

theorem State.modMonitor_buffers (s : State) (f : Monitor → Monitor) (h : s.BuffersOk)
    (hf : (f s.monitor).Ok) : (s.modMonitor f).BuffersOk := ⟨h.log, hf, h.pool⟩

theorem State.modEngine_buffers (s : State) (f : Engine → Engine) (h : s.BuffersOk)
    (hf : (f s.engine).PoolOk) : (s.modEngine f).BuffersOk := ⟨h.log, h.monitor, hf⟩

theorem State.makeDecision_buffers (s : State) (c : CtxId) (k : DecisionKind) (t : Nat)
    (h : s.BuffersOk) : (s.makeDecision c k t).BuffersOk := by
  dsimp only [State.makeDecision]
  apply State.contextDecided_buffers
  have h1 : (s.setDecision c (.decided (s.decisionOf c k t))).BuffersOk := h.of_eq rfl rfl rfl
  have h2 := State.logRecord_buffers _ c (.summary ((State.ctx (s.setDecision c (.decided (s.decisionOf c k t))) c).summary (s.decisionOf c k t))) h1
  exact State.BuffersOk.of_eq (s := State.modMonitor _ (Monitor.request (s.repeatRequest c)))
    (State.modMonitor_buffers _ _ h2 (h2.monitor.request _)) rfl rfl rfl

theorem State.reportComplete_buffers (s : State) (c : CtxId) (h : s.BuffersOk) :
    (s.reportComplete c).BuffersOk := by
  dsimp only [State.reportComplete]
  repeat' split
  · exact State.makeDecision_buffers _ _ _ _ h
  · exact h.of_eq rfl rfl rfl
  · exact h

theorem State.enterJudging_buffers (s : State) (c : CtxId) (h : s.BuffersOk) :
    (s.enterJudging c).BuffersOk := by
  have h1 : ((s.modCtx c (fun x => { x with state := .judging })).driveLines).BuffersOk :=
    State.driveLines_buffers _ (h.of_eq rfl rfl rfl)
  dsimp only [State.enterJudging]
  split
  · exact State.makeDecision_buffers _ _ _ _ h1
  · exact h1

theorem State.abandonIntake_buffers (s : State) (h : s.BuffersOk) : s.abandonIntake.BuffersOk :=
  h.of_eq (by simp) (by simp) (by simp)

theorem State.dropContext_buffers (s : State) (c : CtxId) (h : s.BuffersOk) :
    (s.dropContext c).BuffersOk := by
  have key : ∀ t : State, t.BuffersOk →
      (((t.modEngine (fun e => { e with pool := dropAccumulators c e.pool })).modEvaluator
        (Evaluator.drop c))).BuffersOk := by
    intro t ht
    exact ⟨ht.log, ht.monitor, ht.pool.drop c rfl rfl⟩
  dsimp only [State.dropContext]
  apply key
  split
  · apply State.modEngine_buffers
    · split
      · exact State.abandonIntake_buffers _ h
      · exact h
    · split
      · exact (State.abandonIntake_buffers _ h).pool.of_eq rfl rfl
      · exact h.pool.of_eq rfl rfl
  · exact h

theorem State.lateDecision_buffers (s : State) (c : CtxId) (h : s.BuffersOk) :
    (s.lateDecision c).BuffersOk := by
  dsimp only [State.lateDecision]
  apply State.makeDecision_buffers
  have key : ∀ t : State, t.BuffersOk →
      ((t.dropContext c).modCtx c (fun x => x.fill .late)).BuffersOk :=
    fun t ht => (State.dropContext_buffers t c ht).of_eq rfl rfl rfl
  apply key
  have h1 : ((s.modCtx c (fun x => { x with lateFlag := true })).abandonAlignment c).BuffersOk :=
    h.of_eq (by simp) (by simp) (by simp)
  split
  · exact h1.of_eq rfl rfl rfl
  · exact h1

theorem State.abortContext_buffers (s : State) (c : CtxId) (h : s.BuffersOk) :
    (s.abortContext c).BuffersOk := by
  dsimp only [State.abortContext]
  split
  · apply State.makeDecision_buffers
    have key : ∀ t : State, t.BuffersOk →
        ((t.dropContext c).modCtx c (fun x => x.fill .aborted)).BuffersOk :=
      fun t ht => (State.dropContext_buffers t c ht).of_eq rfl rfl rfl
    apply key
    exact h.of_eq (by simp) (by simp) (by simp)
  · exact h

theorem State.alignmentTest_buffers (s : State) (h : s.BuffersOk) : s.alignmentTest.BuffersOk := by
  dsimp only [State.alignmentTest]
  split
  · exact h
  · split
    · split
      · exact ⟨h.log, h.monitor, h.pool.of_eq rfl rfl⟩
      · dsimp only [State.alignFault]
        split
        · apply State.makeDecision_buffers
          apply State.reportComplete_buffers
          exact h.of_eq rfl rfl rfl
        · apply State.reportComplete_buffers
          exact h.of_eq rfl rfl rfl
    · exact h

theorem State.beginAlignment_buffers (s : State) (c : CtxId) (h : s.BuffersOk) :
    (s.beginAlignment c).BuffersOk := by
  dsimp only [State.beginAlignment]
  apply State.alignmentTest_buffers
  refine h.of_eq ?_ ?_ ?_
  · simp only [State.startHeads_log]
    rw [foldl_keeps (fun t => State.log t) _ _ _ (fun (t : State) (a : Fin 3) => State.seekOutOfField_log t c a)]
    simp only [State.seekPlacements_log]
    rw [foldl_keeps (fun t => State.log t) _ _ _ (fun (t : State) (a : Fin 3) => State.seekPrimary_log t c a)]
    rfl
  · simp only [State.startHeads_monitor]
    rw [foldl_keeps (fun t => State.monitor t) _ _ _ (fun (t : State) (a : Fin 3) => State.seekOutOfField_monitor t c a)]
    simp only [State.seekPlacements_monitor]
    rw [foldl_keeps (fun t => State.monitor t) _ _ _ (fun (t : State) (a : Fin 3) => State.seekPrimary_monitor t c a)]
    rfl
  · simp only [State.startHeads_engine]
    rw [foldl_keeps (fun t => State.engine t) _ _ _ (fun (t : State) (a : Fin 3) => State.seekOutOfField_engine t c a)]
    simp only [State.seekPlacements_engine]
    rw [foldl_keeps (fun t => State.engine t) _ _ _ (fun (t : State) (a : Fin 3) => State.seekPrimary_engine t c a)]
    rfl

theorem State.resolveLocate_buffers (s : State) (p : PortId) (o : FidOutcome) (r : MarkReading)
    (h : s.BuffersOk) : (s.resolveLocate p o r).BuffersOk := by
  dsimp only [State.resolveLocate]
  split
  · apply State.alignmentTest_buffers
    split
    · exact h.of_eq (by simp) (by simp) (by simp)
    · exact h.of_eq (by simp) (by simp) (by simp)
  · exact h

theorem State.locateFrame_buffers (s : State) (p : PortId) (g : Bool) (b : List Byte)
    (h : s.BuffersOk) : (s.locateFrame p g b).BuffersOk := by
  dsimp only [State.locateFrame]
  repeat' split
  · exact (State.resolveLocate_buffers _ _ _ _ h).of_eq rfl rfl rfl
  · exact (State.resolveLocate_buffers _ _ _ _ h).of_eq rfl rfl rfl
  · exact h.of_eq rfl rfl rfl
  · exact h.of_eq rfl rfl rfl

theorem State.writeOff_buffers (s : State) (c : CtxId) (j p i : Nat) (k : Cause) (h : s.BuffersOk) :
    (s.writeOff c j p i k).BuffersOk := by
  dsimp only [State.writeOff]
  apply State.reportComplete_buffers
  apply State.logRecord_buffers
  exact h.of_eq rfl rfl rfl

theorem State.writeSkipped_buffers (s : State) (c : CtxId) (j : Nat) (k : Cause) (h : s.BuffersOk) :
    (s.writeSkipped c j k).BuffersOk := by
  dsimp only [State.writeSkipped]
  apply State.reportComplete_buffers
  exact h.of_eq rfl rfl rfl

theorem State.visitJoint_buffers (s : State) (h : s.BuffersOk) : s.visitJoint.BuffersOk := by
  have h1 : (s.modEngine (fun e => { e with visited := e.visited + 1 })).BuffersOk :=
    ⟨h.log, h.monitor, h.pool.of_eq rfl rfl⟩
  dsimp only [State.visitJoint]
  repeat' split
  · exact State.writeSkipped_buffers _ _ _ _ h1
  · exact State.writeOff_buffers _ _ _ _ _ _ h1
  · exact ⟨h.log, h.monitor, h.pool.of_eq rfl rfl⟩
  · exact h1
  · exact h
  · exact h

theorem State.visitJoints_buffers (s : State) (n : Nat) (h : s.BuffersOk) :
    (s.visitJoints n).BuffersOk := by
  induction n generalizing s with
  | zero => exact h
  | succ n ih => exact ih _ (State.visitJoint_buffers _ h)

theorem State.completeArming_buffers (s : State) (h : s.BuffersOk) : s.completeArming.BuffersOk := by
  dsimp only [State.completeArming]
  repeat' split
  · refine ⟨by simpa using h.log, by simpa using h.monitor, ?_⟩
    simp only [State.startScan_engine, State.modCtx_engine, State.modEngine_engine]
    exact h.pool.of_eq rfl rfl
  · exact State.enterJudging_buffers _ _ ⟨h.log, h.monitor, h.pool.of_eq rfl rfl⟩
  · exact h

/-- An opening keeps the pool's form: the lowest FREE number is below 1,024 (R96, R103). -/
theorem State.openJoint_buffers (s : State) (c : CtxId) (a : ArmedJoint) (h : s.BuffersOk) :
    (s.openJoint c a).BuffersOk := by
  dsimp only [State.openJoint]
  split
  · rename_i hn
    refine ⟨h.log, h.monitor, mapWf_mapPut _ _ _ h.pool.wf, ?_, ?_⟩
    · intro x hx
      rcases mem_mapPut hx with rfl | hx
      · exact hn
      · exact h.pool.numbers x hx
    · exact le_trans (mapPut_length _ _ _) (le_max_right _ _)
  · exact State.writeOff_buffers _ _ _ _ _ _ ⟨h.log, h.monitor, h.pool.of_eq rfl rfl⟩

theorem State.openAll_buffers (s : State) (c : CtxId) (l : List ArmedJoint) (h : s.BuffersOk) :
    (l.foldl (fun s a => s.openJoint c a) s).BuffersOk :=
  foldl_inv (fun t => State.BuffersOk t) _ _ _ h (fun _ _ ht => State.openJoint_buffers _ _ _ ht)

theorem State.openingStep_buffers (s : State) (c : CtxId) (r : Nat) (h : s.BuffersOk) :
    (s.openingStep c r).BuffersOk := by
  dsimp only [State.openingStep, State.openUpTo]
  apply State.openAll_buffers
  exact ⟨h.log, h.monitor, h.pool.of_eq rfl rfl⟩

theorem State.addTileTo_pool (s : State) (j : Served) (r c : Nat) (samples : List Int) (e : Engine)
    (o : OpenJoint) (h : e.PoolOk) :
    ({ e with pool := s.addTileTo j r c samples e.pool o } : Engine).PoolOk := by
  unfold State.addTileTo
  split
  · rename_i a cls ha hc
    exact h.put ha rfl rfl
  · exact h

theorem State.additionStep_buffers (s : State) (j : Served) (r c : Nat) (samples : List Int)
    (h : s.BuffersOk) : (s.additionStep j r c samples).BuffersOk := by
  refine ⟨h.log, h.monitor, ?_⟩
  dsimp only [State.additionStep, State.modEngine]
  have key : ∀ (l : List OpenJoint) (e : Engine), e.PoolOk →
      ({ e with pool := l.foldl (s.addTileTo j r c samples) e.pool } : Engine).PoolOk := by
    intro l
    induction l with
    | nil => intro e he; exact he
    | cons o rest ih => intro e he; exact ih _ (State.addTileTo_pool s j r c samples e o he)
  exact key _ _ h.pool

theorem State.closeJoint_buffers (s : State) (c : CtxId) (o : OpenJoint) (h : s.BuffersOk) :
    (s.closeJoint c o).BuffersOk := by
  dsimp only [State.closeJoint]
  split
  · exact h
  · rename_i x hx
    exact ⟨h.log, h.monitor, h.pool.put hx rfl rfl⟩

theorem State.closeWhere_buffers (s : State) (c : CtxId) (p : OpenJoint → Bool) (h : s.BuffersOk) :
    (s.closeWhere c p).BuffersOk := by
  dsimp only [State.closeWhere]
  apply foldl_inv (fun t => State.BuffersOk t)
  · exact ⟨h.log, h.monitor, h.pool.of_eq rfl rfl⟩
  · exact fun _ _ ht => State.closeJoint_buffers _ _ _ ht

theorem State.takeEntry_buffers (s : State) (h : s.BuffersOk) : s.takeEntry.BuffersOk := by
  dsimp only [State.takeEntry]
  repeat' split
  · exact h
  · refine ⟨h.log, h.monitor, ?_⟩
    simp only [State.modEngine_engine, State.modEvaluator_engine]
    split
    · rename_i a ha; exact h.pool.put ha rfl rfl
    · exact h.pool.of_eq rfl rfl
  · exact h

theorem State.closingTest_buffers (s : State) (h : s.BuffersOk) : s.closingTest.BuffersOk := by
  dsimp only [State.closingTest]
  split
  · split
    · apply State.takeEntry_buffers
      have key : ∀ t : State, t.BuffersOk → (t.modEngine Engine.toIdle).BuffersOk :=
        fun t ht => ⟨ht.log, ht.monitor, ht.pool.of_eq rfl rfl⟩
      apply key
      apply State.closeWhere_buffers
      apply State.openAll_buffers
      exact ⟨h.log, h.monitor, h.pool.of_eq rfl rfl⟩
    · exact State.takeEntry_buffers _ (State.closeWhere_buffers _ _ _ h)
  · exact h

theorem State.scanEndTest_buffers (s : State) (h : s.BuffersOk) : s.scanEndTest.BuffersOk := by
  dsimp only [State.scanEndTest]
  repeat' split
  · exact State.enterJudging_buffers _ _ h
  · exact h
  · exact h

theorem State.feedDrift_buffers (s : State) (k : SlotId) (i x : Nat) (h : s.BuffersOk) :
    (s.feedDrift k i x).BuffersOk := by
  have key : ∀ v : DriftValue,
      (s.modMonitor (fun m => { m with drift := mapPut (driftKey k i) v m.drift })).BuffersOk := by
    intro v
    refine ⟨h.log, ⟨mapWf_mapPut _ _ _ h.monitor.drift, ?_, ?_, ?_, ?_, ?_⟩, h.pool⟩
    · exact h.monitor.repeats
    · exact h.monitor.values
    · exact h.monitor.requests
    · exact h.monitor.idle
    · exact h.monitor.changes
  dsimp only [State.feedDrift]
  repeat' split
  · exact h
  · exact key _
  · exact (key _).of_eq rfl rfl rfl

theorem State.unprime_buffers (s : State) (k : SlotId) (i : Nat) (h : s.BuffersOk) :
    (s.unprime k i).BuffersOk := by
  have key : (s.modMonitor (fun m => { m with drift := mapDel (driftKey k i) m.drift })).BuffersOk :=
    ⟨h.log, ⟨mapWf_mapDel _ _ h.monitor.drift, h.monitor.repeats, h.monitor.values,
      h.monitor.requests, h.monitor.idle, h.monitor.changes⟩, h.pool⟩
  dsimp only [State.unprime]
  repeat' split
  · exact h
  · exact key
  · exact key.of_eq rfl rfl rfl

theorem State.unprimeRun_buffers (s : State) (k : SlotId) (i n : Nat) (h : s.BuffersOk) :
    (s.unprimeRun k i n).BuffersOk :=
  foldl_inv (fun t => State.BuffersOk t) _ _ _ h (fun _ _ ht => State.unprime_buffers _ _ _ ht)

theorem State.repeatSite_buffers (s : State) (h : s.BuffersOk) : s.repeatSite.BuffersOk := by
  dsimp only [State.repeatSite]
  split
  · exact h
  · rename_i w hw
    have key : ∀ n, n ≤ 255 → ∀ t : State, t.log = s.log → t.engine = s.engine →
        t.monitor = s.monitor.setRepeat w.request.slot w.next n →
        (t.modMonitor (fun m =>
          if w.request.sites ≤ w.next + 1 then
            Monitor.beginNext { m with work := none, updates := bump m.updates 1 }
          else { m with work := some ⟨w.request, w.next + 1⟩ })).BuffersOk := by
      intro n hn t h1 h2 h3
      have hm := h.monitor.setRepeat w.request.slot w.next n hn
      refine ⟨by simp only [State.modMonitor_log]; rw [h1]; exact h.log, ?_,
        by simp only [State.modMonitor_engine]; rw [h2]; exact h.pool⟩
      simp only [State.modMonitor_monitor]
      rw [h3]
      split
      · exact Monitor.Ok.beginNext ⟨hm.drift, hm.repeats, hm.values, hm.requests, hm.changes⟩
      · exact ⟨hm.drift, hm.repeats, hm.values, hm.requests, (by intro hn; cases hn), hm.changes⟩
    have hle : ∀ n, n ≤ 255 → repeatAfter (decide (w.next ∈ w.request.failBits))
        (decide (w.next ∈ w.request.passBits)) n ≤ 255 := by
      intro n hn
      unfold repeatAfter
      repeat' split
      all_goals omega
    have hb : s.monitor.repeatOf w.request.slot w.next ≤ 255 := by
      unfold Monitor.repeatOf
      cases hg : mapGet (repeatKey w.request.slot w.next) s.monitor.repeats with
      | none => simp
      | some v => exact (h.monitor.values _ (mapGet_mem hg)).2
    split
    · exact key _ (hle _ hb) _ rfl rfl rfl
    · exact key _ (hle _ hb) _ rfl rfl rfl

theorem State.sampleOven_buffers (s : State) (c : BitVec 4) (h : s.BuffersOk) :
    (s.sampleOven c).BuffersOk := by
  have hm : (s.monitor.sampled c).Ok := by
    unfold Monitor.sampled
    split <;> exact h.monitor.of_eq rfl rfl rfl rfl rfl
  dsimp only [State.sampleOven]
  split
  · refine ⟨h.log, ?_, h.pool⟩
    apply Monitor.Ok.addChange
    exact hm.of_eq rfl rfl rfl rfl rfl
  · exact ⟨h.log, hm, h.pool⟩

theorem State.sampleRun_buffers (s : State) (c : BitVec 4) (n : Nat) (h : s.BuffersOk) :
    (s.sampleRun c n).BuffersOk := by
  induction n generalizing s with
  | zero => exact h
  | succ n ih => exact ih _ (State.sampleOven_buffers _ _ h)

theorem State.logResult_buffers (s : State) (e : EvalEntry) (r : EvalResult) (h : s.BuffersOk) :
    (s.logResult e r).BuffersOk := by
  dsimp only [State.logResult]
  split
  · exact h
  · exact State.logRecord_buffers _ _ _ h

theorem State.feedResult_buffers (s : State) (e : EvalEntry) (r : EvalResult) (h : s.BuffersOk) :
    (s.feedResult e r).BuffersOk := by
  dsimp only [State.feedResult]
  repeat' split
  · exact h
  · exact State.feedDrift_buffers _ _ _ _ h
  · exact h

theorem State.completeEvaluation_buffers (s : State) (x : Evaluation) (h : s.BuffersOk) :
    (s.completeEvaluation x).BuffersOk := by
  dsimp only [State.completeEvaluation]
  apply State.takeEntry_buffers
  have h0 : (s.modEvaluator (fun v => { v with current := none })).BuffersOk := h.of_eq rfl rfl rfl
  have hfree : ∀ (t : State) (n : Nat), t.BuffersOk → (t.modEngine (Engine.freeAcc n)).BuffersOk :=
    fun t n ht => ⟨ht.log, ht.monitor, ht.pool.del n rfl rfl⟩
  repeat' split
  · exact (hfree _ _ h0).of_eq rfl rfl rfl
  · dsimp only [State.keepResult]
    have key : ∀ t : State, t.BuffersOk →
        (t.modEvaluator (fun v => { v with evaluations := bump v.evaluations 1 })).BuffersOk :=
      fun t ht => ht.of_eq rfl rfl rfl
    apply key
    apply State.reportComplete_buffers
    apply State.logResult_buffers
    apply State.feedResult_buffers
    have key2 : ∀ (t : State) (c : CtxId) (f : Context → Context), t.BuffersOk →
        (t.modCtx c f).BuffersOk := fun t c f ht => ht.of_eq rfl rfl rfl
    apply key2
    apply hfree
    apply key2
    exact h0
  · exact h0

theorem State.grantUpTo_buffers (n : Nat) (s : State) (h : s.BuffersOk) :
    (State.grantUpTo n s).BuffersOk := by
  induction n generalizing s with
  | zero => exact h
  | succ n ih =>
    have hg : ∀ p, (s.grantPort p).BuffersOk := fun p => h.of_eq (by simp) (by simp) (by simp)
    dsimp only [State.grantUpTo]
    repeat' split
    · exact hg _
    · apply ih
      dsimp only [State.releaseIntake]
      apply State.scanEndTest_buffers
      exact State.abandonIntake_buffers _ (hg _)
    · exact h

theorem State.grant_buffers (s : State) (h : s.BuffersOk) : s.grant.BuffersOk :=
  State.grantUpTo_buffers _ _ h

theorem State.intakeSteps_buffers (s : State) (j : Served) (p : PortId) (i : IntakeItem)
    (h : s.BuffersOk) : (s.intakeSteps j p i).BuffersOk := by
  dsimp only [State.intakeSteps]
  apply State.closingTest_buffers
  have key : ∀ (t : State) (f : Port → Port), t.BuffersOk → (t.modPort p f).BuffersOk :=
    fun t f ht => ht.of_eq rfl rfl rfl
  apply key
  cases i with
  | tile k => exact State.additionStep_buffers _ _ _ _ _ (State.openingStep_buffers _ _ _ h)
  | loss r c => exact State.openingStep_buffers _ _ _ h
  | endRecord => exact h

theorem State.countDownHold_buffers (s : State) (h : s.BuffersOk) : s.countDownHold.BuffersOk := by
  dsimp only [State.countDownHold]
  split
  · exact h
  · exact ⟨h.log, h.monitor.of_eq rfl rfl rfl rfl rfl, h.pool⟩

theorem State.arrive_buffers (s : State) (c : CtxId) (d : Descriptor) (h : s.BuffersOk) :
    (s.arrive c d).BuffersOk := by
  dsimp only [State.arrive]
  apply State.beginAlignment_buffers
  have key : ∀ t : State, t.BuffersOk →
      ((t.countDownHold.modLog (fun g => { g with overflow := g.overflow.set c false })).setDecision c
        .waiting).BuffersOk := by
    intro t ht
    have := State.countDownHold_buffers _ ht
    exact ⟨⟨this.log.segments, this.log.filling⟩, this.monitor, this.pool⟩
  apply key
  split
  · exact h.of_eq rfl rfl rfl
  · exact h.of_eq rfl rfl rfl

theorem State.removeBoard_buffers (s : State) (c : CtxId) (h : s.BuffersOk) :
    (s.removeBoard c).BuffersOk := by
  have h1 : ((s.modCtx c (fun x => { x with removed := true })).modFlow
      (Flow.count (fun k => { k with removed := bump k.removed 1 }))).BuffersOk := h.of_eq rfl rfl rfl
  dsimp only [State.removeBoard]
  repeat' split
  · exact State.abortContext_buffers _ _ h1
  · exact State.freeContext_buffers _ _ h1
  · exact h1

theorem State.enterHeld_buffers (s : State) (t : StationState) (k : StationCause) (h : s.BuffersOk) :
    (s.enterHeld t k).BuffersOk := by
  dsimp only [State.enterHeld, State.abortIfMeasuring]
  repeat' split
  all_goals first
    | exact State.abortContext_buffers _ _ (State.abortContext_buffers _ _ (h.of_eq rfl rfl rfl))
    | exact State.abortContext_buffers _ _ (h.of_eq rfl rfl rfl)
    | exact h.of_eq rfl rfl rfl

end Sys2Proof.Machine
end

