-- ==== Sys2Proof/Laws/Driven.lean ====
section
/-! SUPPORT. Laws/Driven.lean: the output lines follow their terms: what the terms are made of, which
operations leave them, and which bring the lines into agreement with them; with the phases the alignment
unit and the window engine rely on. -/

namespace Sys2Proof.Machine

/-! ### The terms -/

/-- What the terms of R29, R34 and R35 see of a context. -/
def Context.face (x : Context) : CtxState × Position × Bool × Bool :=
  (if x.measuring then .aligning else x.state, x.position, x.inTransit, x.removed)

/-- What the terms see of a slot. -/
def Slot.face (k : Slot) : SlotState × Option Header := (k.state, k.header)

/-- Two states agree in every line and every term. -/
structure State.SameTerms (s t : State) : Prop where
  outs : t.flow.outs = s.flow.outs
  queue : t.flow.queue = s.flow.queue
  config : t.flow.config = s.flow.config
  measure : t.flow.untrackedMeasure = s.flow.untrackedMeasure
  exit : t.flow.untrackedExit = s.flow.untrackedExit
  occ : t.pins.exitOcc = s.pins.exitOcc
  ctx : ∀ c, (t.ctx c).face = (s.ctx c).face
  slot : ∀ k, (t.slots.get k).face = (s.slots.get k).face

theorem State.SameTerms.refl (s : State) : s.SameTerms s := ⟨rfl, rfl, rfl, rfl, rfl, rfl, fun _ => rfl, fun _ => rfl⟩

theorem State.SameTerms.trans {a b c : State} (h : a.SameTerms b) (k : b.SameTerms c) : a.SameTerms c :=
  ⟨k.outs.trans h.outs, k.queue.trans h.queue, k.config.trans h.config, k.measure.trans h.measure,
    k.exit.trans h.exit, k.occ.trans h.occ, fun x => (k.ctx x).trans (h.ctx x),
    fun x => (k.slot x).trans (h.slot x)⟩

/-- States alike in the flow controller, the slots and the pins have the same terms. -/
theorem State.SameTerms.of_eq {s t : State} (hf : t.flow = s.flow) (hs : t.slots = s.slots)
    (hp : t.pins = s.pins) : s.SameTerms t := by
  refine ⟨by rw [hf], by rw [hf], by rw [hf], by rw [hf], by rw [hf], by rw [hp], fun c => ?_, fun k => ?_⟩
  · unfold State.ctx; rw [hf]
  · rw [hs]

/-- The flow controller's view alike but for contexts of the same faces. -/
theorem State.SameTerms.modCtx (s : State) (c : CtxId) (f : Context → Context)
    (h : (f (s.ctx c)).face = (s.ctx c).face) : s.SameTerms (s.modCtx c f) := by
  refine ⟨rfl, rfl, rfl, rfl, rfl, rfl, fun d => ?_, fun _ => rfl⟩
  show ((s.flow.ctxs.set c (f (s.flow.ctxs.get c))).get d).face = _
  rw [Pair.get_set]
  split
  · rename_i hd; subst hd; exact h
  · rfl

theorem Context.face_free {x y : Context} (h : x.face = y.face) : (x.state = .free ↔ y.state = .free) := by
  simp only [Context.face, Prod.mk.injEq] at h
  have h := h.1
  revert h
  unfold Context.measuring
  cases x.state <;> cases y.state <;> simp

theorem Context.face_releasing {x y : Context} (h : x.face = y.face) :
    (x.state == .releasing) = (y.state == .releasing) := by
  simp only [Context.face, Prod.mk.injEq] at h
  have h := h.1
  revert h
  unfold Context.measuring
  cases x.state <;> cases y.state <;> simp

theorem Context.face_position {x y : Context} (h : x.face = y.face) : x.position = y.position := by
  simp only [Context.face, Prod.mk.injEq] at h
  exact h.2.1

theorem Context.face_wantsShift {x y : Context} (h : x.face = y.face) : x.wantsShift = y.wantsShift := by
  simp only [Context.face, Prod.mk.injEq] at h
  obtain ⟨h1, h2, h3, h4⟩ := h
  unfold Context.wantsShift
  rw [h2, h3, h4]
  revert h1
  unfold Context.measuring
  cases x.state <;> cases y.state <;> intro h <;> first | rfl | exact absurd h (by decide)

/-- Each line has the level its condition gives. -/
structure State.Follows (s : State) : Prop where
  entry : s.flow.entryEnable = s.entryCondition
  shift : s.flow.shift = s.shiftCondition
  release : s.flow.release = (s.flow.moving && (s.flow.findCtx (fun x => x.state == .releasing)).isSome)
  timer : s.flow.TimerOk

theorem State.SameTerms.usable {s t : State} (h : s.SameTerms t) : t.defaultUsable = s.defaultUsable := by
  unfold State.defaultUsable
  rw [h.config]
  split
  · rfl
  · split
    · rfl
    · rename_i k _
      have hk := h.slot k
      simp only [Slot.face, Prod.mk.injEq] at hk
      rw [hk.1, hk.2]

theorem State.SameTerms.ctxs {s t : State} (h : s.SameTerms t) :
    t.flow.ctxs.p0.face = s.flow.ctxs.p0.face ∧ t.flow.ctxs.p1.face = s.flow.ctxs.p1.face :=
  ⟨h.ctx 0, h.ctx 1⟩

theorem State.SameTerms.entry {s t : State} (h : s.SameTerms t) : t.entryCondition = s.entryCondition := by
  have ho := h.outs
  simp only [Flow.outs, Prod.mk.injEq] at ho
  obtain ⟨h0, h1⟩ := h.ctxs
  unfold State.entryCondition Flow.nobodyAt Flow.freeCtx
  rw [ho.1, h.queue, h.measure, h.usable, Context.face_position h0, Context.face_position h1]
  simp only [Context.face_free h0, Context.face_free h1]

theorem State.SameTerms.shift {s t : State} (h : s.SameTerms t) : t.shiftCondition = s.shiftCondition := by
  have ho := h.outs
  simp only [Flow.outs, Prod.mk.injEq] at ho
  obtain ⟨h0, h1⟩ := h.ctxs
  unfold State.shiftCondition Flow.nobodyAt Flow.findCtx Flow.moving
  rw [ho.1, h.occ, h.exit, Context.face_position h0, Context.face_position h1,
    Context.face_wantsShift h0, Context.face_wantsShift h1]

theorem State.Follows.of_same {s t : State} (h : s.SameTerms t) (hs : s.Follows) : t.Follows := by
  have ho := h.outs
  simp only [Flow.outs, Prod.mk.injEq] at ho
  obtain ⟨o1, o2, o3, o4, o5⟩ := ho
  obtain ⟨h0, h1⟩ := h.ctxs
  refine ⟨by rw [o2, h.entry, hs.entry], by rw [o3, h.shift, hs.shift], ?_, hs.timer.of_outs h.outs⟩
  rw [o4, hs.release]
  unfold Flow.moving Flow.findCtx
  simp only [o1, Context.face_releasing h0, Context.face_releasing h1]

/-- The pass over the lines gives each the level its condition gives. -/
theorem State.driveLines_follows (s : State) (h : s.flow.TimerOk) : s.driveLines.Follows := by
  refine ⟨rfl, rfl, rfl, (State.driveLines_linesOk s h).timer⟩

/-- Driving ENTRY_ENABLE is enough where the other lines follow their conditions. -/
theorem State.driveEntry_follows (s : State) (hs : s.flow.shift = s.shiftCondition)
    (hr : s.flow.release = (s.flow.moving && (s.flow.findCtx (fun x => x.state == .releasing)).isSome))
    (ht : s.flow.TimerOk) : s.driveEntry.Follows := ⟨rfl, hs, hr, ht⟩

/-! ### The terms in the words of R29, R34 and R35 -/

theorem Flow.findCtx_some (w : Flow) (p : Context → Bool) :
    (w.findCtx p).isSome = true ↔ ∃ c, p (w.ctxs.get c) = true := by
  unfold Flow.findCtx
  constructor
  · intro h
    split at h
    · exact ⟨0, by assumption⟩
    · split at h
      · exact ⟨1, by assumption⟩
      · cases h
  · rintro ⟨c, h⟩
    split
    · rfl
    · rename_i h0
      split
      · rfl
      · rename_i h1
        match c, h with
        | 0, h => exact absurd h h0
        | 1, h => exact absurd h h1

theorem Flow.moving_iff (w : Flow) : w.moving = true ↔ w.station = .running ∨ w.station = .draining := by
  simp [Flow.moving]

theorem Flow.nobodyAt_iff (w : Flow) (p : Position) :
    w.nobodyAt p = true ↔ ∀ c, (w.ctxs.get c).position ≠ p := by
  unfold Flow.nobodyAt
  simp only [Bool.and_eq_true, bne_iff_ne]
  constructor
  · rintro ⟨h0, h1⟩ c
    match c with
    | 0 => exact h0
    | 1 => exact h1
  · intro h; exact ⟨h 0, h 1⟩

theorem Flow.freeCtx_some (w : Flow) : w.freeCtx.isSome = true ↔ ∃ c, (w.ctxs.get c).state = .free := by
  unfold Flow.freeCtx
  constructor
  · intro h
    split at h
    · exact ⟨0, by assumption⟩
    · split at h
      · exact ⟨1, by assumption⟩
      · cases h
  · rintro ⟨c, h⟩
    split
    · rfl
    · rename_i h0
      split
      · rfl
      · rename_i h1
        match c, h with
        | 0, h => exact absurd h h0
        | 1, h => exact absurd h h1

theorem State.defaultUsable_iff (s : State) : s.defaultUsable.isSome = true ↔ s.DefaultUsable := by
  unfold State.defaultUsable State.DefaultUsable
  constructor
  · intro h
    split at h
    · cases h
    · rename_i f hf
      split at h
      · cases h
      · rename_i k hk
        split at h
        · rename_i x hx
          split at h
          · rename_i hv
            exact ⟨f, k, x, hf, hk, hx, hv.1, hv.2⟩
          · cases h
        · cases h
  · rintro ⟨f, k, x, hf, hk, hx, hv, hp⟩
    rw [hf]; simp only; rw [hk]; simp only; rw [hx]; simp only; rw [if_pos ⟨hv, hp⟩]; rfl

theorem State.entryCondition_iff (s : State) : s.entryCondition = true ↔ s.EntryTerms := by
  unfold State.entryCondition
  simp only [Bool.and_eq_true, Bool.or_eq_true, Bool.not_eq_true', beq_iff_eq, Flow.freeCtx_some,
    Flow.nobodyAt_iff, State.defaultUsable_iff]
  constructor
  · rintro ⟨⟨⟨⟨h1, h2⟩, h3⟩, h4⟩, h5⟩
    exact ⟨h1, h2, h3, h4, h5.imp (fun h => by simpa [List.isEmpty_iff] using h) id⟩
  · rintro ⟨h1, h2, h3, h4, h5⟩
    exact ⟨⟨⟨⟨h1, h2⟩, h3⟩, h4⟩, h5.imp (fun h => by simpa [List.isEmpty_iff] using h) id⟩

theorem State.shiftCondition_iff (s : State) : s.shiftCondition = true ↔ s.ShiftTerms := by
  unfold State.shiftCondition
  simp only [Bool.and_eq_true, Bool.not_eq_true', Flow.findCtx_some, Flow.nobodyAt_iff, Flow.moving_iff,
    Context.wantsShift, Bool.or_eq_true, beq_iff_eq]
  constructor
  · rintro ⟨⟨⟨⟨⟨c, ⟨⟨h1, h2⟩, h3⟩, h4⟩, h5⟩, h6⟩, h7⟩, h8⟩
    exact ⟨⟨c, h1, h2, h3, h4⟩, h5, h6, h7, h8⟩
  · rintro ⟨⟨c, h1, h2, h3, h4⟩, h5, h6, h7, h8⟩
    exact ⟨⟨⟨⟨⟨c, ⟨⟨h1, h2⟩, h3⟩, h4⟩, h5⟩, h6⟩, h7⟩, h8⟩

/-- The conditions and the terms of the rules are one. -/
theorem State.follows_iff (s : State) : s.Follows ↔ s.LinesFollow := by
  have hb : ∀ a b : Bool, a = b ↔ (a = true ↔ b = true) := by decide
  have hr : (s.flow.moving && (s.flow.findCtx (fun x => x.state == .releasing)).isSome) = true ↔
      (∃ c, (s.ctx c).state = .releasing) ∧ (s.flow.station = .running ∨ s.flow.station = .draining) := by
    rw [Bool.and_eq_true, Flow.moving_iff, Flow.findCtx_some, and_comm]
    simp only [beq_iff_eq]
    rfl
  constructor
  · rintro ⟨h1, h2, h3, h4⟩
    exact ⟨by rw [h1]; exact s.entryCondition_iff, by rw [h2]; exact s.shiftCondition_iff,
      by rw [h3]; exact hr, h4⟩
  · rintro ⟨h1, h2, h3, h4⟩
    exact ⟨(hb _ _).mpr (h1.trans s.entryCondition_iff.symm),
      (hb _ _).mpr (h2.trans s.shiftCondition_iff.symm), (hb _ _).mpr (h3.trans hr.symm), h4⟩

/-- The context that an update names, afterwards. -/
theorem State.modCtx_flow_get (s : State) (c : CtxId) (f : Context → Context) :
    (s.modCtx c f).flow.ctxs.get c = f (s.flow.ctxs.get c) := by
  show (s.flow.ctxs.set c _).get c = _
  rw [Pair.get_set_self]

/-! ### Contexts in ALIGNING and ARMING that an operation keeps there -/

/-- A context in ALIGNING or ARMING stays there. -/
def State.Keeps (s t : State) (d : CtxId) : Prop :=
  ((s.ctx d).state = .aligning → (t.ctx d).state = .aligning) ∧
  ((s.ctx d).state = .arming → (t.ctx d).state = .arming)

theorem State.Keeps.of_state {s t : State} {d : CtxId} (h : (t.ctx d).state = (s.ctx d).state) :
    s.Keeps t d := by
  unfold State.Keeps; rw [h]; exact ⟨id, id⟩

theorem State.Keeps.of_flow {s t : State} {d : CtxId} (h : t.flow = s.flow) : s.Keeps t d :=
  State.Keeps.of_state (by unfold State.ctx; rw [h])

theorem State.Keeps.trans {a b c : State} {d : CtxId} (h : a.Keeps b d) (k : b.Keeps c d) : a.Keeps c d :=
  ⟨fun x => k.1 (h.1 x), fun x => k.2 (h.2 x)⟩

theorem State.PhasesOk.of {s t : State} (h : s.PhasesOk) (ha : t.align.aligning = s.align.aligning)
    (hv : t.engine.service = s.engine.service) (hj : t.engine.served = s.engine.served)
    (hk : ∀ d, s.Keeps t d) : t.PhasesOk := by
  refine ⟨fun c hc => (hk c).1 (h.aligning c (ha ▸ hc)), fun hx j hj' => ?_⟩
  exact (hk _).2 (h.arming (hv ▸ hx) j (hj ▸ hj'))

/-- The engine is not arming the context. -/
def Engine.NotArming (e : Engine) (c : CtxId) : Prop :=
  e.service = .arming → ∀ j, e.served = some j → j.ctx ≠ c

/-- A context in another state is not the one aligned or armed. -/
theorem State.PhasesOk.other {s : State} (h : s.PhasesOk) {c : CtxId} (ha : (s.ctx c).state ≠ .aligning)
    (hr : (s.ctx c).state ≠ .arming) : s.align.aligning ≠ some c ∧ s.engine.NotArming c :=
  ⟨fun e => ha (h.aligning c e), fun hx j hj e => hr (e ▸ h.arming hx j hj)⟩

/-- The phases hold where every context but one is kept, and that one is neither aligned nor armed. -/
theorem State.PhasesOk.but {s t : State} (h : s.PhasesOk) (c : CtxId)
    (ha : t.align.aligning = s.align.aligning) (hv : t.engine.service = s.engine.service)
    (hj : t.engine.served = s.engine.served) (hc : s.align.aligning ≠ some c ∧ s.engine.NotArming c)
    (hk : ∀ d, d ≠ c → s.Keeps t d) : t.PhasesOk := by
  refine ⟨fun d hd => ?_, fun hx j hj' => ?_⟩
  · have hd' := ha ▸ hd
    exact (hk d (fun e => hc.1 (e ▸ hd'))).1 (h.aligning d hd')
  · have hx' := hv ▸ hx
    have hj'' := hj ▸ hj'
    exact (hk _ (hc.2 hx' j hj'')).2 (h.arming hx' j hj'')

theorem State.modCtx_keeps (s : State) (c d : CtxId) (f : Context → Context) (h : d ≠ c) :
    s.Keeps (s.modCtx c f) d :=
  State.Keeps.of_state (by
    show ((s.flow.ctxs.set c _).get d).state = _
    rw [Pair.get_set_ne _ _ _ _ h]; rfl)

theorem State.modCtx_keeps_state (s : State) (c d : CtxId) (f : Context → Context)
    (h : ∀ x, (f x).state = x.state) : s.Keeps (s.modCtx c f) d :=
  State.Keeps.of_state (by
    show ((s.flow.ctxs.set c _).get d).state = _
    rw [Pair.get_set]
    split
    · rename_i e; rw [h, e]; rfl
    · rfl)

theorem State.logRecord_keeps (s : State) (c d : CtxId) (r : LogRecord) : s.Keeps (s.logRecord c r) d := by
  dsimp only [State.logRecord, State.dropRecord]
  repeat' split
  all_goals first
    | exact State.Keeps.of_flow rfl
    | exact State.Keeps.trans (State.modCtx_keeps_state s c d (fun x => { x with lostLog := x.lostLog + 1 })
        (fun _ => rfl)) (State.Keeps.of_flow rfl)

theorem Flow.findCtx_get {w : Flow} {p : Context → Bool} {c : CtxId} (h : w.findCtx p = some c) :
    p (w.ctxs.get c) = true := by
  unfold Flow.findCtx at h
  split at h
  · cases h; assumption
  · split at h
    · cases h; assumption
    · cases h

theorem State.driveLines_keeps (s : State) (d : CtxId) : s.Keeps s.driveLines d := by
  have h : (s.driveLines.ctx d) = s.releaseTest.ctx d := rfl
  have hk : s.Keeps s.releaseTest d := by
    unfold State.releaseTest
    split
    · split
      · rename_i c hc
        have hd := Flow.findCtx_get hc
        simp only [Context.wantsRelease, Bool.and_eq_true, beq_iff_eq] at hd
        by_cases e : d = c
        · subst e
          constructor
          · intro x; rw [State.ctx, hd.1.2] at x; cases x
          · intro x; rw [State.ctx, hd.1.2] at x; cases x
        · exact State.Keeps.trans (b := s.modFlow (fun w => { w with
            route := (s.decision.records.get c).route })) (State.Keeps.of_state rfl)
            (State.modCtx_keeps _ _ _ _ e)
      · exact State.Keeps.of_flow rfl
    · exact State.Keeps.of_flow rfl
  exact ⟨fun x => by rw [h]; exact hk.1 x, fun x => by rw [h]; exact hk.2 x⟩

theorem State.freeContext_keeps (s : State) (c d : CtxId) (h : d ≠ c) : s.Keeps (s.freeContext c) d := by
  refine State.Keeps.of_state ?_
  dsimp only [State.freeContext, State.drainTest]
  split <;>
  · show ((s.flow.ctxs.set c _).get d).state = _
    rw [Pair.get_set_ne _ _ _ _ h]; rfl

theorem State.contextDecided_keeps (s : State) (c d : CtxId) (h : d ≠ c) :
    s.Keeps (s.contextDecided c) d := by
  unfold State.contextDecided
  refine State.Keeps.trans ?_ (State.driveLines_keeps _ d)
  split
  · exact (State.modCtx_keeps _ _ _ _ h).trans (State.freeContext_keeps _ _ _ h)
  · exact State.modCtx_keeps _ _ _ _ h

theorem State.makeDecision_keeps (s : State) (c d : CtxId) (k : DecisionKind) (t : Nat) (h : d ≠ c) :
    s.Keeps (s.makeDecision c k t) d := by
  unfold State.makeDecision
  refine State.Keeps.trans ?_ (State.contextDecided_keeps _ _ _ h)
  generalize hu : s.setDecision c (.decided (s.decisionOf c k t)) = u
  have h1 : s.Keeps u d := by rw [← hu]; exact State.Keeps.of_flow rfl
  refine State.Keeps.trans (h1.trans (State.logRecord_keeps u c d (.summary ((u.ctx c).summary
    (s.decisionOf c k t))))) (State.Keeps.of_flow rfl)

theorem State.makeDecision_phases {s : State} (c : CtxId) (k : DecisionKind) (t : Nat) (h : s.PhasesOk)
    (hc : s.align.aligning ≠ some c ∧ s.engine.NotArming c) : (s.makeDecision c k t).PhasesOk :=
  h.but c (by simp) (by simp) (by simp) hc (fun d hd => State.makeDecision_keeps s c d k t hd)

theorem State.makeDecision_follows (s : State) (c : CtxId) (k : DecisionKind) (t : Nat)
    (h : s.flow.TimerOk) : (s.makeDecision c k t).Follows := by
  dsimp only [State.makeDecision, State.contextDecided]
  apply State.driveLines_follows
  split
  · apply State.freeContext_timerOk
    exact h.of_outs (by simp)
  · exact h.of_outs (by simp)

/-! ### Both together -/

/-- The lines follow their conditions and the phases hold. -/
structure State.Driven (s : State) : Prop where
  follows : s.Follows
  phases : s.PhasesOk

/-- An operation that keeps the terms, the phases' data and the contexts in them keeps both. -/
theorem State.Driven.of {s t : State} (h : s.Driven) (hs : s.SameTerms t)
    (ha : t.align.aligning = s.align.aligning) (hv : t.engine.service = s.engine.service)
    (hj : t.engine.served = s.engine.served) (hk : ∀ d, s.Keeps t d) : t.Driven :=
  ⟨h.follows.of_same hs, h.phases.of ha hv hj hk⟩

/-- An operation that leaves the flow controller, the slots and the pins, and the data of the phases. -/
theorem State.Driven.of_flow {s t : State} (h : s.Driven) (hf : t.flow = s.flow) (hs : t.slots = s.slots)
    (hp : t.pins = s.pins) (ha : t.align.aligning = s.align.aligning)
    (hv : t.engine.service = s.engine.service) (hj : t.engine.served = s.engine.served) : t.Driven :=
  h.of (State.SameTerms.of_eq hf hs hp) ha hv hj (fun _ => State.Keeps.of_flow hf)

/-- A context changed in what the terms and the phases do not see. -/
theorem State.Driven.modCtx {s : State} (h : s.Driven) (c : CtxId) (f : Context → Context)
    (hf : ∀ x, (f x).face = x.face) (hs : ∀ x, (f x).state = x.state) : (s.modCtx c f).Driven :=
  h.of (State.SameTerms.modCtx s c f (hf _)) rfl rfl rfl
    (fun d => State.modCtx_keeps_state s c d f hs)

theorem State.logRecord_same (s : State) (c : CtxId) (r : LogRecord) : s.SameTerms (s.logRecord c r) := by
  dsimp only [State.logRecord, State.dropRecord]
  repeat' split
  all_goals first
    | exact State.SameTerms.of_eq rfl rfl rfl
    | exact (State.SameTerms.modCtx s c (fun x => { x with lostLog := x.lostLog + 1 }) rfl).trans
        (State.SameTerms.of_eq rfl rfl rfl)

theorem State.logRecord_driven {s : State} (h : s.Driven) (c : CtxId) (r : LogRecord) :
    (s.logRecord c r).Driven :=
  h.of (State.logRecord_same s c r) (by simp) (by simp) (by simp) (fun d => State.logRecord_keeps s c d r)

theorem State.makeDecision_driven {s : State} (c : CtxId) (k : DecisionKind) (t : Nat) (h : s.PhasesOk)
    (ht : s.flow.TimerOk) (hc : s.align.aligning ≠ some c ∧ s.engine.NotArming c) :
    (s.makeDecision c k t).Driven :=
  ⟨State.makeDecision_follows s c k t ht, State.makeDecision_phases c k t h hc⟩

theorem State.reportComplete_driven {s : State} (h : s.Driven) (c : CtxId) : (s.reportComplete c).Driven := by
  dsimp only [State.reportComplete]
  split
  · split
    · rename_i hj
      exact State.makeDecision_driven c _ _ h.phases h.follows.timer
        (h.phases.other (by rw [hj]; decide) (by rw [hj]; decide))
    · exact h.of_flow rfl rfl rfl rfl rfl rfl
  · exact h

theorem State.enterJudging_driven {s : State} (c : CtxId) (h : s.PhasesOk) (ht : s.flow.TimerOk)
    (hc : s.align.aligning ≠ some c ∧ s.engine.NotArming c) : (s.enterJudging c).Driven := by
  have h1 : (s.modCtx c (fun x => { x with state := .judging })).driveLines.Driven := by
    refine ⟨State.driveLines_follows _ ht, h.but c (by simp) (by simp) (by simp) hc (fun d hd => ?_)⟩
    exact (State.modCtx_keeps s c d _ hd).trans (State.driveLines_keeps _ d)
  dsimp only [State.enterJudging]
  split
  · refine State.makeDecision_driven c _ _ h1.phases h1.follows.timer ?_
    simpa using hc
  · exact h1

/-! ### Late and aborted decisions -/

theorem Engine.toIdle_notArming (e : Engine) (c : CtxId) : e.toIdle.NotArming c := by
  intro h; cases h

/-- After a drop the engine does not arm the context, and what it arms it armed before. -/
theorem State.dropContext_engine (s : State) (c : CtxId) :
    (s.dropContext c).engine.NotArming c ∧
    ((s.dropContext c).engine.service = .arming →
      s.engine.service = .arming ∧ (s.dropContext c).engine.served = s.engine.served) := by
  dsimp only [State.dropContext]
  split
  · constructor
    · intro h; cases h
    · intro h; cases h
  · rename_i hn
    constructor
    · intro _ j hj e
      apply hn
      have hj' : s.engine.served = some j := hj
      rw [Engine.serves, hj']
      simp [e]
    · intro h; exact ⟨h, rfl⟩

theorem State.abandonAlignment_not (s : State) (c : CtxId) :
    (s.abandonAlignment c).align.aligning ≠ some c ∧
    ((s.abandonAlignment c).align.aligning = s.align.aligning ∨
      (s.abandonAlignment c).align.aligning = none) := by
  dsimp only [State.abandonAlignment]
  split
  · exact ⟨by simp, Or.inr rfl⟩
  · rename_i h; exact ⟨h, Or.inl rfl⟩

/-- Abandoning and dropping a context's work leaves the phases and frees the context of both. -/
theorem State.given_up {s t : State} (c : CtxId) (h : s.PhasesOk)
    (ha : t.align.aligning = s.align.aligning ∨ t.align.aligning = none) (ha' : t.align.aligning ≠ some c)
    (he : t.engine.NotArming c)
    (he' : t.engine.service = .arming → s.engine.service = .arming ∧ t.engine.served = s.engine.served)
    (hk : ∀ d, s.Keeps t d) : t.PhasesOk ∧ t.align.aligning ≠ some c ∧ t.engine.NotArming c := by
  refine ⟨⟨fun d hd => ?_, fun hx j hj => ?_⟩, ha', he⟩
  · rcases ha with ha | ha
    · exact (hk d).1 (h.aligning d (ha ▸ hd))
    · rw [ha] at hd; cases hd
  · exact (hk _).2 (h.arming (he' hx).1 j ((he' hx).2 ▸ hj))

theorem State.lateDecision_driven {s : State} (h : s.Driven) (c : CtxId) : (s.lateDecision c).Driven := by
  dsimp only [State.lateDecision]
  have key : ∀ u : State, u.flow = s.flow → u.align = s.align → u.engine = s.engine →
      let s1 := u.modCtx c (fun x => { x with lateFlag := true })
      let s2 := s1.abandonAlignment c
      ∀ s3 : State, s3.flow = s2.flow → s3.align = s2.align → s3.engine = s2.engine →
      let s4 := (s3.dropContext c).modCtx c (fun x => x.fill .late)
      s4.PhasesOk ∧ s4.align.aligning ≠ some c ∧ s4.engine.NotArming c := by
    intro u hu1 hu2 hu3 s1 s2 s3 h3f h3a h3e s4
    have hd := State.dropContext_engine s3 c
    have ha := State.abandonAlignment_not s1 c
    have e1 : s2.engine = s.engine := by rw [State.abandonAlignment_engine]; exact hu3
    have e4 : s4.align = s2.align := by
      show (s3.dropContext c).align = _; rw [State.dropContext_align, h3a]
    refine State.given_up c h.phases ?_ ?_ hd.1 ?_ (fun d => ?_)
    · rw [e4]
      have : s1.align.aligning = s.align.aligning := by show u.align.aligning = _; rw [hu2]
      rw [← this]; exact ha.2
    · rw [e4]; exact ha.1
    · intro hx
      have := hd.2 hx
      rw [h3e, e1] at this
      exact this
    · refine State.Keeps.trans (b := s3.dropContext c) (State.Keeps.of_state ?_)
        (State.modCtx_keeps_state _ _ _ _ (by intro _; rfl))
      show ((s3.dropContext c).flow.ctxs.get d).state = _
      rw [State.dropContext_flow, h3f, State.abandonAlignment_flow]
      have := State.modCtx_keeps_state u c d (fun x => { x with lateFlag := true }) (fun _ => rfl)
      show ((u.flow.ctxs.set c _).get d).state = _
      rw [hu1, Pair.get_set]
      split
      · rename_i e; subst e; rfl
      · rfl
  have ht : ∀ t : State, t.flow.outs = s.flow.outs → t.flow.TimerOk := fun t ho =>
    h.follows.timer.of_outs ho
  split
  · obtain ⟨k1, k2⟩ := key s rfl rfl rfl _ (by rw [State.scanStop_flow]) (by rw [State.scanStop_align])
      (by rw [State.scanStop_engine])
    exact State.makeDecision_driven c _ _ k1 (ht _ (by simp)) k2
  · obtain ⟨k1, k2⟩ := key s rfl rfl rfl _ rfl rfl rfl
    exact State.makeDecision_driven c _ _ k1 (ht _ (by simp)) k2

theorem State.abortContext_phases {s : State} (h : s.PhasesOk) (ht : s.flow.TimerOk) (c : CtxId) :
    (s.abortContext c).PhasesOk ∧ (s.abortContext c).flow.TimerOk ∧
      (s.Follows → (s.abortContext c).Follows) := by
  dsimp only [State.abortContext]
  split
  · generalize hu : s.scanStop = u
    have hu1 : u.flow = s.flow := by rw [← hu, State.scanStop_flow]
    have hu2 : u.align = s.align := by rw [← hu, State.scanStop_align]
    have hu3 : u.engine = s.engine := by rw [← hu, State.scanStop_engine]
    generalize hs1 : u.modCtx c (fun x => { x with abortedFlag := true }) = s1
    have f1 : s1.align = s.align := by rw [← hs1]; exact hu2
    have f2 : s1.engine = s.engine := by rw [← hs1]; exact hu3
    have f3 : ∀ d, (s1.ctx d).state = (s.ctx d).state := by
      intro d
      rw [← hs1]
      show ((u.flow.ctxs.set c _).get d).state = _
      rw [hu1, Pair.get_set]
      split
      · rename_i e; subst e; rfl
      · rfl
    have f4 : s1.flow.outs = s.flow.outs := by rw [← hs1]; simp [hu1]
    generalize hs2 : (s1.abandonAlignment c) = s2
    have hd := State.dropContext_engine s2 c
    have ha := State.abandonAlignment_not s1 c
    rw [hs2] at ha
    have e2 : s2.engine = s.engine := by rw [← hs2, State.abandonAlignment_engine, f2]
    have k : ((s2.dropContext c).modCtx c (fun x => x.fill .aborted)).PhasesOk ∧
        ((s2.dropContext c).modCtx c (fun x => x.fill .aborted)).align.aligning ≠ some c ∧
        ((s2.dropContext c).modCtx c (fun x => x.fill .aborted)).engine.NotArming c := by
      refine State.given_up c h ?_ ?_ hd.1 ?_ (fun d => ?_)
      · show (s2.dropContext c).align.aligning = _ ∨ (s2.dropContext c).align.aligning = none
        rw [State.dropContext_align, ← f1]; exact ha.2
      · show (s2.dropContext c).align.aligning ≠ _
        rw [State.dropContext_align]; exact ha.1
      · intro hx
        have := hd.2 hx
        rw [e2] at this; exact this
      · refine State.Keeps.trans (b := s2.dropContext c) (State.Keeps.of_state ?_)
          (State.modCtx_keeps_state _ _ _ _ (by intro _; rfl))
        show ((s2.dropContext c).flow.ctxs.get d).state = _
        rw [State.dropContext_flow, ← hs2, State.abandonAlignment_flow]
        exact f3 d
    have kt : ((s2.dropContext c).modCtx c (fun x => x.fill .aborted)).flow.TimerOk := by
      refine ht.of_outs ?_
      rw [State.modCtx_outs, State.dropContext_flow, ← hs2, State.abandonAlignment_flow, f4]
    have := State.makeDecision_driven c .aborted s.now k.1 kt k.2
    exact ⟨this.phases, this.follows.timer, fun _ => this.follows⟩
  · exact ⟨h, ht, id⟩

/-! ### The alignment -/

theorem State.resolveMark_same (s : State) (c : CtxId) (n : Nat) (r : MarkReading) :
    s.SameTerms (s.resolveMark c n r) ∧ (s.resolveMark c n r).align.aligning = s.align.aligning
      ∧ ∀ d, s.Keeps (s.resolveMark c n r) d := by
  cases r
  · exact ⟨State.SameTerms.of_eq rfl rfl rfl, rfl, fun _ => State.Keeps.of_flow rfl⟩
  · exact ⟨State.SameTerms.of_eq rfl rfl rfl, rfl, fun _ => State.Keeps.of_flow rfl⟩
  · exact ⟨State.SameTerms.modCtx s c (fun x => { x with unverified := x.unverified + 1 }) rfl, rfl,
      fun d => State.modCtx_keeps_state s c d _ (by intro _; rfl)⟩

/-- An operation that keeps the terms, the aligned context, the engine and the contexts of the phases. -/
structure State.Quiet (s t : State) : Prop where
  same : s.SameTerms t
  aligning : t.align.aligning = s.align.aligning
  engine : t.engine = s.engine
  keeps : ∀ d, s.Keeps t d

theorem State.Quiet.refl (s : State) : s.Quiet s :=
  ⟨State.SameTerms.refl s, rfl, rfl, fun _ => State.Keeps.of_flow rfl⟩

theorem State.Quiet.trans {a b c : State} (h : a.Quiet b) (k : b.Quiet c) : a.Quiet c :=
  ⟨h.same.trans k.same, k.aligning.trans h.aligning, k.engine.trans h.engine,
    fun d => (h.keeps d).trans (k.keeps d)⟩

theorem State.Quiet.driven {s t : State} (h : s.Quiet t) (hs : s.Driven) : t.Driven :=
  hs.of h.same h.aligning (by rw [h.engine]) (by rw [h.engine]) h.keeps

theorem State.Quiet.phases {s t : State} (h : s.Quiet t) (hs : s.PhasesOk) : t.PhasesOk :=
  hs.of h.aligning (by rw [h.engine]) (by rw [h.engine]) h.keeps

/-- A quiet operation as one that leaves whole blocks. -/
theorem State.Quiet.of_eq {s t : State} (hf : t.flow = s.flow) (hs : t.slots = s.slots)
    (hp : t.pins = s.pins) (ha : t.align.aligning = s.align.aligning) (he : t.engine = s.engine) :
    s.Quiet t :=
  ⟨State.SameTerms.of_eq hf hs hp, ha, he, fun _ => State.Keeps.of_flow hf⟩

theorem foldl_quiet {α : Type} (f : State → α → State) (l : List α) (s : State)
    (h : ∀ t a, State.Quiet t (f t a)) : s.Quiet (l.foldl f s) := by
  induction l generalizing s with
  | nil => exact State.Quiet.refl s
  | cons a l ih => exact (h s a).trans (ih _)

theorem State.resolveMark_quiet (s : State) (c : CtxId) (n : Nat) (r : MarkReading) :
    s.Quiet (s.resolveMark c n r) :=
  ⟨(s.resolveMark_same c n r).1, (s.resolveMark_same c n r).2.1, by simp, (s.resolveMark_same c n r).2.2⟩

theorem State.seekAlternate_aligning (s : State) (c : CtxId) (i : Fin 3) (f : Fiducial) (a : Nat × Nat) :
    (s.seekAlternate c i f a).align.aligning = s.align.aligning := by
  dsimp only [State.seekAlternate]
  split <;> rfl

theorem State.resolveFiducial_quiet (s : State) (c : CtxId) (i : Fin 3) (o : FidOutcome) :
    s.Quiet (s.resolveFiducial c i o) := by
  refine State.Quiet.of_eq (by simp) (by simp) (by simp) ?_ (by simp)
  dsimp only [State.resolveFiducial]
  repeat' split
  all_goals first | rfl | exact State.seekAlternate_aligning _ _ _ _ _

theorem State.seekPrimary_quiet (s : State) (c : CtxId) (i : Fin 3) : s.Quiet (s.seekPrimary c i) := by
  refine State.Quiet.of_eq (by simp) (by simp) (by simp) ?_ (by simp)
  dsimp only [State.seekPrimary]
  repeat' split
  all_goals rfl

theorem State.seekOutOfField_quiet (s : State) (c : CtxId) (i : Fin 3) :
    s.Quiet (s.seekOutOfField c i) := by
  dsimp only [State.seekOutOfField]
  split
  · exact State.resolveFiducial_quiet _ _ _ _
  · exact State.Quiet.refl s

theorem State.seekPlacement_quiet (s : State) (c : CtxId) (i : Nat) (p : Placement) :
    s.Quiet (s.seekPlacement c i p) := by
  dsimp only [State.seekPlacement]
  repeat' split
  · exact State.Quiet.of_eq rfl rfl rfl rfl rfl
  · exact State.Quiet.refl s
  · exact State.Quiet.of_eq rfl rfl rfl rfl rfl
  · exact State.resolveMark_quiet _ _ _ _

theorem State.seekPlacements_quiet (s : State) (c : CtxId) (i : Nat) (l : List Placement) :
    s.Quiet (s.seekPlacements c i l) := by
  induction l generalizing s i with
  | nil => exact State.Quiet.refl s
  | cons p l ih => exact (State.seekPlacement_quiet s c i p).trans (ih _ _)

theorem State.startHeads_quiet (s : State) : s.Quiet s.startHeads := by
  refine foldl_quiet _ _ _ (fun t p => State.Quiet.of_eq (by simp) (by simp) (by simp) ?_ (by simp))
  dsimp only [State.startHead]
  split <;> rfl

/-- What the alignment test needs of the lines: follow for the success, the timer alone for a fault. -/
theorem State.alignmentTest_driven {s : State} (h : s.Driven) : s.alignmentTest.Driven := by
  dsimp only [State.alignmentTest]
  split
  · exact h
  · rename_i c hc
    have hst := h.phases.aligning c hc
    split
    · split
      · rename_i t r p _
        have e : (s.ctx c).state = .aligning := hst
        refine ⟨h.follows.of_same ?_, ⟨?_, ?_⟩⟩
        · refine ⟨by simp [State.alignSuccess], rfl, rfl, rfl, rfl, rfl, fun d => ?_, fun _ => rfl⟩
          show ((s.flow.ctxs.set c _).get d).face = _
          rw [Pair.get_set]
          split
          · rename_i hd
            subst hd
            unfold Context.face Context.measuring
            have e' : (s.flow.ctxs.get d).state = .aligning := hst
            show (_, (s.flow.ctxs.get d).position, (s.flow.ctxs.get d).inTransit, (s.flow.ctxs.get d).removed) = (_, _, _, _)
            simp [State.ctx, e']
          · rfl
        · intro d hd; cases hd
        · intro _ j hj
          cases hj
          show ((s.flow.ctxs.set c _).get c).state = _
          rw [Pair.get_set_self]
      · rename_i cause r _
        dsimp only [State.alignFault]
        generalize hs0 : (s.modRecord c (fun x => { x with residual := r })) = s0
        have g1 : s0.flow = s.flow := by rw [← hs0]; rfl
        have g2 : s0.engine = s.engine := by rw [← hs0]; rfl
        have g3 : s0.pins = s.pins := by rw [← hs0]; rfl
        have g4 : s0.slots = s.slots := by rw [← hs0]; rfl
        generalize hs1 : (((s0.modRecord c (fun r => { r with cause := some cause })).modAlign
          (fun a => { a with aligning := none })).modCtx c (fun x =>
            { x with alignFault := some cause, skippedPlacements := s0.align.skipped.length })).modCtx c
              (fun x => x.writeAll (alignFaultEntry s0.align.skipped (s0.sitesOf c))) = s1
        have hw : ∀ (x : Context) f, (x.writeAll f).face = x.face ∧ (x.writeAll f).state = x.state := by
          intro x f
          unfold Context.writeAll
          generalize List.range x.verdicts.length = l
          induction l generalizing x with
          | nil => exact ⟨rfl, rfl⟩
          | cons a l ih =>
            have := ih (x.write a (f a))
            have hx : (x.write a (f a)).face = x.face ∧ (x.write a (f a)).state = x.state := by
              unfold Context.write
              split
              · split <;> exact ⟨rfl, rfl⟩
              · exact ⟨rfl, rfl⟩
            exact ⟨this.1.trans hx.1, this.2.trans hx.2⟩
        have k1 : s1.Driven := by
          have hq : (((s0.modRecord c (fun r => { r with cause := some cause })).modAlign
              (fun a => { a with aligning := none }))).Driven := by
            refine ⟨h.follows.of_same (State.SameTerms.of_eq g1 g4 g3), ⟨?_, ?_⟩⟩
            · intro d hd; cases hd
            · intro hx j hj
              have := h.phases.arming (by rw [← g2]; exact hx) j (by rw [← g2]; exact hj)
              show (s0.flow.ctxs.get j.ctx).state = _
              rw [g1]; exact this
          rw [← hs1]
          refine State.Driven.modCtx (State.Driven.modCtx hq c _ (by intro _; rfl) (by intro _; rfl)) c _ ?_ ?_
          · intro x; exact (hw x _).1
          · intro x; exact (hw x _).2
        have k2 := State.reportComplete_driven k1 c
        have k3 : (s1.ctx c).state = .aligning := by
          rw [← hs1]
          rw [State.ctx, State.modCtx_flow_get, (hw _ _).2, State.modCtx_flow_get]
          show (s0.flow.ctxs.get c).state = _
          rw [g1]; exact hst
        have k4 : s1.align.aligning = none := by rw [← hs1]; rfl
        have k5 : s1.engine = s.engine := by rw [← hs1]; exact g2
        have k6 : s1.engine.NotArming c := by
          intro hx j hj e
          have := k1.phases.arming hx j hj
          rw [e, k3] at this; cases this
        split
        · exact State.makeDecision_driven c _ _ k2.phases k2.follows.timer
            ⟨by simp [k4], by simpa using k6⟩
        · exact k2
    · exact h

theorem State.resolveLocate_driven {s : State} (h : s.Driven) (p : PortId) (o : FidOutcome)
    (r : MarkReading) : (s.resolveLocate p o r).Driven := by
  dsimp only [State.resolveLocate]
  split
  · rename_i f c _ _
    apply State.alignmentTest_driven
    refine (State.startHeads_quiet _).driven ?_
    have h1 : (s.modAlign (fun a => { a with inFlight := a.inFlight.set p none })).Driven :=
      h.of_flow rfl rfl rfl rfl rfl rfl
    split
    · exact (State.resolveFiducial_quiet _ _ _ _).driven h1
    · exact (State.resolveMark_quiet _ _ _ _).driven h1
  · exact h

theorem State.locateFrame_driven {s : State} (h : s.Driven) (p : PortId) (g : Bool) (b : List Byte) :
    (s.locateFrame p g b).Driven := by
  have hp : ∀ t : State, t.Driven → t.pump.Driven := fun t ht => ht.of_flow rfl rfl rfl rfl rfl rfl
  dsimp only [State.locateFrame]
  repeat' split
  · exact hp _ (State.resolveLocate_driven h _ _ _)
  · exact hp _ (State.resolveLocate_driven h _ _ _)
  · exact h.of_flow rfl rfl rfl rfl rfl rfl
  · exact h.of_flow rfl rfl rfl rfl rfl rfl

/-! ### The window engine -/

theorem Context.write_face (x : Context) (j : Nat) (e : VerdictEntry) :
    (x.write j e).face = x.face ∧ (x.write j e).state = x.state := by
  unfold Context.write
  split
  · split <;> exact ⟨rfl, rfl⟩
  · exact ⟨rfl, rfl⟩

theorem State.writeOff_driven {s : State} (h : s.Driven) (c : CtxId) (j p i : Nat) (k : Cause) :
    (s.writeOff c j p i k).Driven := by
  dsimp only [State.writeOff]
  apply State.reportComplete_driven
  apply State.logRecord_driven
  exact h.modCtx c _ (fun x => (Context.write_face x _ _).1) (fun x => (Context.write_face x _ _).2)

theorem State.writeSkipped_driven {s : State} (h : s.Driven) (c : CtxId) (j : Nat) (k : Cause) :
    (s.writeSkipped c j k).Driven := by
  dsimp only [State.writeSkipped]
  apply State.reportComplete_driven
  exact h.modCtx c _ (fun x => (Context.write_face x _ _).1) (fun x => (Context.write_face x _ _).2)

theorem State.visitJoint_driven {s : State} (h : s.Driven) : s.visitJoint.Driven := by
  have h1 : (s.modEngine (fun e => { e with visited := e.visited + 1 })).Driven :=
    h.of_flow rfl rfl rfl rfl rfl rfl
  dsimp only [State.visitJoint]
  repeat' split
  · exact State.writeSkipped_driven h1 _ _ _
  · exact State.writeOff_driven h1 _ _ _ _ _
  · exact h.of_flow rfl rfl rfl rfl rfl rfl
  · exact h1
  · exact h
  · exact h

theorem State.visitJoints_driven {s : State} (h : s.Driven) (n : Nat) : (s.visitJoints n).Driven := by
  induction n generalizing s with
  | zero => exact h
  | succ n ih => exact ih (State.visitJoint_driven h)

theorem State.completeArming_driven {s : State} (h : s.Driven) : s.completeArming.Driven := by
  dsimp only [State.completeArming]
  split
  · rename_i j hv hj
    have hst := h.phases.arming hv j hj
    have hal : s.align.aligning ≠ some j.ctx := by
      intro e
      have := h.phases.aligning _ e
      rw [hst] at this; cases this
    split
    · rename_i first last _
      refine ⟨h.follows.of_same ?_, ⟨?_, ?_⟩⟩
      · refine State.SameTerms.trans (b := (s.modEngine (fun e =>
          { e with service := .scanning, front := none, scanRange := some (first, last) })).modCtx j.ctx
            (fun x => { x with state := .scanning })) ?_
          (State.SameTerms.of_eq (by simp) (by simp) (by simp))
        refine (State.SameTerms.of_eq (s := s) (t := s.modEngine (fun e =>
          { e with service := .scanning, front := none, scanRange := some (first, last) })) rfl rfl
          rfl).trans (State.SameTerms.modCtx _ _ _ ?_)
        unfold Context.face Context.measuring
        have e : ((s.modEngine (fun e => { e with service := .scanning, front := none
                                                  scanRange := some (first, last) })).ctx j.ctx).state
            = .arming := hst
        simp [e]
      · intro d hd
        have hd' : s.align.aligning = some d := by simpa using hd
        have hne : d ≠ j.ctx := fun e => hal (e ▸ hd')
        have k := State.modCtx_keeps (s.modEngine (fun e =>
          { e with service := .scanning, front := none, scanRange := some (first, last) })) j.ctx d
            (fun x => { x with state := .scanning }) hne
        unfold State.ctx
        rw [State.startScan_flow]
        exact k.1 (h.phases.aligning d hd')
      · intro hx
        have : (Service.scanning : Service) = .arming := by simpa using hx
        cases this
    · refine State.enterJudging_driven j.ctx ⟨h.phases.aligning, ?_⟩ h.follows.timer ⟨hal, ?_⟩
      · intro hx; cases hx
      · exact Engine.toIdle_notArming _ _
  · exact h

theorem State.openJoint_driven {s : State} (h : s.Driven) (c : CtxId) (a : ArmedJoint) :
    (s.openJoint c a).Driven := by
  dsimp only [State.openJoint]
  split
  · exact h.of_flow rfl rfl rfl rfl rfl rfl
  · apply State.writeOff_driven
    exact h.of_flow rfl rfl rfl rfl rfl rfl

theorem State.openingStep_driven {s : State} (h : s.Driven) (c : CtxId) (r : Nat) :
    (s.openingStep c r).Driven :=
  foldl_inv State.Driven _ _ _ (h.of_flow rfl rfl rfl rfl rfl rfl)
    (fun _ _ ht => State.openJoint_driven ht _ _)

theorem State.closeJoint_served (s : State) (c : CtxId) (o : OpenJoint) :
    (s.closeJoint c o).engine.service = s.engine.service ∧
    (s.closeJoint c o).engine.served = s.engine.served := by
  dsimp only [State.closeJoint]
  split <;> exact ⟨rfl, rfl⟩

theorem State.closeJoint_driven {s : State} (h : s.Driven) (c : CtxId) (o : OpenJoint) :
    (s.closeJoint c o).Driven :=
  h.of_flow (by simp) (by simp) (by simp) (by simp) (State.closeJoint_served s c o).1
    (State.closeJoint_served s c o).2

theorem State.closeWhere_driven {s : State} (h : s.Driven) (c : CtxId) (p : OpenJoint → Bool) :
    (s.closeWhere c p).Driven :=
  foldl_inv State.Driven _ _ _ (h.of_flow rfl rfl rfl rfl rfl rfl)
    (fun _ _ ht => State.closeJoint_driven ht _ _)

theorem State.takeEntry_driven {s : State} (h : s.Driven) : s.takeEntry.Driven := by
  refine h.of_flow (by simp) (by simp) (by simp) (by simp) ?_ ?_
  all_goals
    dsimp only [State.takeEntry]
    repeat' split
    all_goals rfl

theorem State.toIdle_driven {s : State} (h : s.Driven) : (s.modEngine Engine.toIdle).Driven :=
  ⟨h.follows.of_same (State.SameTerms.of_eq (s := s) rfl rfl rfl), h.phases.aligning, fun hx => by cases hx⟩

theorem State.closingTest_driven {s : State} (h : s.Driven) : s.closingTest.Driven := by
  dsimp only [State.closingTest]
  split
  · split
    · apply State.takeEntry_driven
      apply State.toIdle_driven
      apply State.closeWhere_driven
      exact foldl_inv State.Driven _ _ _ (h.of_flow rfl rfl rfl rfl rfl rfl)
        (fun _ _ ht => State.openJoint_driven ht _ _)
    · exact State.takeEntry_driven (State.closeWhere_driven h _ _)
  · exact h

theorem State.scanEndTest_driven {s : State} (h : s.Driven) : s.scanEndTest.Driven := by
  dsimp only [State.scanEndTest]
  split
  · split
    · rename_i c hc
      have hs := Flow.findCtx_get hc
      simp only [beq_iff_eq] at hs
      have e : (s.ctx c).state = .scanning := hs
      exact State.enterJudging_driven c h.phases h.follows.timer
        (h.phases.other (by rw [e]; decide) (by rw [e]; decide))
    · exact h
  · exact h

theorem State.additionStep_driven {s : State} (h : s.Driven) (j : Served) (r c : Nat) (l : List Int) :
    (s.additionStep j r c l).Driven := h.of_flow rfl rfl rfl rfl rfl rfl

theorem Context.setBits_face (x : Context) (p i k : Nat) (v : Verdict) :
    (x.setBits p i k v).face = x.face ∧ (x.setBits p i k v).state = x.state := by
  unfold Context.setBits
  repeat' split
  all_goals exact ⟨rfl, rfl⟩

theorem State.completeEvaluation_driven {s : State} (h : s.Driven) (x : Evaluation) :
    (s.completeEvaluation x).Driven := by
  have h1 : (s.modEvaluator (fun v => { v with current := none })).Driven :=
    h.of_flow rfl rfl rfl rfl rfl rfl
  dsimp only [State.completeEvaluation]
  apply State.takeEntry_driven
  split
  · exact h1.of_flow rfl rfl rfl rfl rfl rfl
  · split
    · rename_i a _
      dsimp only [State.keepResult]
      refine State.Driven.of_flow (s := State.reportComplete _ _) ?_ rfl rfl rfl rfl rfl rfl
      apply State.reportComplete_driven
      have h2 : ∀ u : State, u.Driven → ∀ e r, (State.logResult (State.feedResult u e r) e r).Driven := by
        intro u hu e r
        have h3 : (u.feedResult e r).Driven :=
          hu.of_flow (by simp) (by simp) (by simp) (by simp) (by simp) (by simp)
        dsimp only [State.logResult]
        split
        · exact h3
        · exact State.logRecord_driven h3 _ _
      apply h2
      generalize hr : evaluate x.entry x.cls x.pitch a = r
      have h4 := State.Driven.modCtx h1 x.entry.ctx
        (fun y => y.write x.entry.joint ⟨r.verdict, r.cause, r.flags⟩) ?_ ?_
      have h5 : (((s.modEvaluator (fun v => { v with current := none })).modCtx x.entry.ctx
          (fun y => y.write x.entry.joint ⟨r.verdict, r.cause, r.flags⟩)).modEngine
            (Engine.freeAcc x.entry.acc)).Driven := h4.of_flow rfl rfl rfl rfl rfl rfl
      refine State.Driven.modCtx h5 _ _ ?_ ?_
      · intro x; exact (Context.setBits_face x _ _ _ _).1
      · intro x; exact (Context.setBits_face x _ _ _ _).2
      · intro x; exact (Context.write_face x _ _).1
      · intro x; exact (Context.write_face x _ _).2
    · exact h1

theorem State.grantPort_driven {s : State} (h : s.Driven) (p : PortId) : (s.grantPort p).Driven :=
  h.of_flow (by simp) (by simp) (by simp) (by simp) (by simp) (by simp)

theorem State.abandonIntake_driven {s : State} (h : s.Driven) : s.abandonIntake.Driven :=
  h.of_flow (by simp) (by simp) (by simp) (by simp) (by simp) (by simp)

theorem State.releaseIntake_driven {s : State} (h : s.Driven) : s.releaseIntake.Driven :=
  State.scanEndTest_driven (State.abandonIntake_driven h)

theorem State.grantUpTo_driven (n : Nat) {s : State} (h : s.Driven) : (State.grantUpTo n s).Driven := by
  induction n generalizing s with
  | zero => exact h
  | succ n ih =>
    dsimp only [State.grantUpTo]
    repeat' split
    · exact State.grantPort_driven h _
    · exact ih (State.releaseIntake_driven (State.grantPort_driven h _))
    · exact h

theorem State.grant_driven {s : State} (h : s.Driven) : s.grant.Driven := State.grantUpTo_driven _ h

theorem State.intakeSteps_driven {s : State} (h : s.Driven) (j : Served) (p : PortId) (i : IntakeItem) :
    (s.intakeSteps j p i).Driven := by
  dsimp only [State.intakeSteps]
  apply State.closingTest_driven
  refine State.Driven.of_flow (s := s.itemSteps j p i) ?_ rfl rfl rfl rfl rfl rfl
  cases i with
  | tile k => exact State.additionStep_driven (State.openingStep_driven h _ _) _ _ _ _
  | loss r c => exact State.openingStep_driven h _ _
  | endRecord => exact h

/-! ### The flow controller's events, before the lines are driven -/

/-- The phases hold and the exit timer agrees with RELEASE: what the pass over the lines needs. -/
structure State.Ready (s : State) : Prop where
  phases : s.PhasesOk
  timer : s.flow.TimerOk

theorem State.Driven.ready {s : State} (h : s.Driven) : s.Ready := ⟨h.phases, h.follows.timer⟩

theorem State.Ready.driveLines {s : State} (h : s.Ready) : s.driveLines.Driven :=
  ⟨State.driveLines_follows _ h.timer,
    h.phases.of (by simp) (by simp) (by simp) (fun d => State.driveLines_keeps s d)⟩

theorem State.pump_driven {s : State} (h : s.Driven) : s.pump.Driven := h.of_flow rfl rfl rfl rfl rfl rfl

/-- An operation that keeps the data of the phases and the lines. -/
theorem State.Ready.of {s t : State} (h : s.Ready) (ho : t.flow.outs = s.flow.outs)
    (ha : t.align.aligning = s.align.aligning) (hv : t.engine.service = s.engine.service)
    (hj : t.engine.served = s.engine.served) (hk : ∀ d, (t.ctx d).state = (s.ctx d).state) : t.Ready :=
  ⟨h.phases.of ha hv hj (fun d => State.Keeps.of_state (hk d)), h.timer.of_outs ho⟩

theorem State.freeContext_ready {s : State} (c : CtxId) (h : s.Ready)
    (hc : s.align.aligning ≠ some c ∧ s.engine.NotArming c) : (s.freeContext c).Ready :=
  ⟨h.phases.but c (by simp) (by simp) (by simp) hc (fun d hd => State.freeContext_keeps s c d hd),
    State.freeContext_timerOk s c h.timer⟩

theorem State.modCtx_state (s : State) (c d : CtxId) (f : Context → Context) (h : ∀ x, (f x).state = x.state) :
    ((s.modCtx c f).ctx d).state = (s.ctx d).state := by
  show ((s.flow.ctxs.set c _).get d).state = _
  rw [Pair.get_set]
  split
  · rename_i e; rw [h, e]; rfl
  · rfl

theorem State.removeBoard_ready {s : State} (c : CtxId) (h : s.Ready) : (s.removeBoard c).Ready := by
  dsimp only [State.removeBoard]
  have h1 : ((s.modCtx c (fun x => { x with removed := true })).modFlow
      (Flow.count (fun k => { k with removed := bump k.removed 1 }))).Ready :=
    h.of rfl rfl rfl rfl (fun d => State.modCtx_state s c d (fun x => { x with removed := true })
      (fun _ => rfl))
  split
  · exact ⟨(State.abortContext_phases h1.phases h1.timer c).1,
      (State.abortContext_phases h1.phases h1.timer c).2.1⟩
  · split
    · rename_i hd
      exact State.freeContext_ready c h1 (h.phases.other (by rw [hd]; decide) (by rw [hd]; decide))
    · exact h1

theorem State.enterHeld_ready {s : State} (h : s.PhasesOk) (t : StationState) (k : StationCause) :
    (s.enterHeld t k).Ready := by
  dsimp only [State.enterHeld]
  generalize hu : (s.changeStation t k).modFlow _ = u
  have hp : u.PhasesOk := by
    rw [← hu]
    exact h.of rfl rfl rfl (fun d => State.Keeps.of_state rfl)
  have ht : u.flow.TimerOk := by rw [← hu]; rfl
  have key : ∀ (v : State) (c : CtxId), v.Ready → (v.abortIfMeasuring c).Ready := by
    intro v c hv
    dsimp only [State.abortIfMeasuring]
    split
    · exact ⟨(State.abortContext_phases hv.phases hv.timer c).1,
        (State.abortContext_phases hv.phases hv.timer c).2.1⟩
    · exact hv
  exact key _ _ (key _ _ ⟨hp, ht⟩)

theorem State.completeRelease_ready {s : State} (c : CtxId) (h : s.PhasesOk)
    (hc : s.align.aligning ≠ some c ∧ s.engine.NotArming c) : (s.completeRelease c).Ready := by
  dsimp only [State.completeRelease]
  exact State.freeContext_ready c ⟨h.of rfl rfl rfl (fun d => State.Keeps.of_state rfl), rfl⟩ hc

/-- The alignment test keeps the phases and the timer. -/
theorem State.alignmentTest_ready {s : State} (h : s.Ready) : s.alignmentTest.Ready := by
  dsimp only [State.alignmentTest]
  split
  · exact h
  · rename_i c hc
    have hst := h.phases.aligning c hc
    have hna : s.engine.NotArming c := by
      intro hx j hj e
      have := h.phases.arming hx j hj
      rw [e, hst] at this; cases this
    split
    · split
      · rename_i t r p _
        refine ⟨⟨?_, ?_⟩, h.timer.of_outs (by simp [State.alignSuccess])⟩
        · intro d hd; cases hd
        · intro _ j hj
          cases hj
          show ((s.flow.ctxs.set c _).get c).state = _
          rw [Pair.get_set_self]
      · rename_i cause r _
        dsimp only [State.alignFault]
        generalize hs1 : State.modCtx (State.modCtx _ _ _) c (fun x => Context.writeAll x _) = s1
        have hw : ∀ (x : Context) f, (x.writeAll f).state = x.state := by
          intro x f
          unfold Context.writeAll
          generalize List.range x.verdicts.length = l
          induction l generalizing x with
          | nil => rfl
          | cons a l ih => exact (ih (x.write a (f a))).trans (Context.write_face x _ _).2
        have k3 : ∀ d, (s1.ctx d).state = (s.ctx d).state := by
          intro d
          rw [← hs1, State.modCtx_state _ _ _ _ (fun x => hw x _), State.modCtx_state _ _ _ _ (by intro _; rfl)]
          rfl
        have k4 : s1.align.aligning = none := by rw [← hs1]; rfl
        have k5 : s1.engine = s.engine := by rw [← hs1]; rfl
        have k7 : s1.flow.outs = s.flow.outs := by rw [← hs1]; simp
        have k1 : s1.Ready := by
          refine ⟨⟨fun d hd => ?_, fun hx j hj => ?_⟩, h.timer.of_outs k7⟩
          · rw [k4] at hd; cases hd
          · rw [k3]; exact h.phases.arming (k5 ▸ hx) j (k5 ▸ hj)
        have k2 : (s1.reportComplete c).Ready := by
          dsimp only [State.reportComplete]
          split
          · split
            · rename_i hj
              have := k3 c
              rw [hj, hst] at this; cases this
            · exact k1.of rfl rfl rfl rfl (fun _ => rfl)
          · exact k1
        split
        · exact (State.makeDecision_driven c _ _ k2.phases k2.timer
            ⟨by simp [k4], by simpa [k5] using hna⟩).ready
        · exact k2
    · exact h

theorem State.Quiet.ready {s t : State} (h : s.Quiet t) (hs : s.Ready) : t.Ready :=
  ⟨h.phases hs.phases, hs.timer.of_outs h.same.outs⟩

/-- An alignment begins for a context in ALIGNING that the engine does not arm. -/
theorem State.beginAlignment_ready {s : State} (c : CtxId) (ht : s.flow.TimerOk)
    (he : s.engine.service = .arming → ∀ j, s.engine.served = some j → (s.ctx j.ctx).state = .arming)
    (hc : (s.ctx c).state = .aligning) : (s.beginAlignment c).Ready := by
  dsimp only [State.beginAlignment]
  apply State.alignmentTest_ready
  refine (State.startHeads_quiet _).ready ?_
  refine (foldl_quiet _ _ _ (fun t i => State.seekOutOfField_quiet t c i)).ready ?_
  refine (State.seekPlacements_quiet _ _ _ _).ready ?_
  refine (foldl_quiet _ _ _ (fun t i => State.seekPrimary_quiet t c i)).ready ?_
  refine ⟨⟨?_, he⟩, ht⟩
  intro d hd
  cases hd
  exact hc

theorem State.arrive_ready {s : State} (h : s.Ready) (c : CtxId) (d : Descriptor)
    (hc : (s.ctx c).state = .free) : (s.arrive c d).Ready := by
  have ho := h.phases.other (c := c) (by rw [hc]; decide) (by rw [hc]; decide)
  dsimp only [State.arrive]
  generalize hs1 : (if s.flow.queue.isEmpty = true then s.pin d.slot else s) = s1
  have g1 : s1.flow = s.flow := by rw [← hs1]; split <;> rfl
  have g2 : s1.engine = s.engine := by rw [← hs1]; split <;> rfl
  apply State.beginAlignment_ready
  · refine h.timer.of_outs ?_
    show (State.countDownHold _).flow.outs = _
    rw [State.countDownHold_flow]
    show s1.flow.outs = _
    rw [g1]
  · intro hx j hj
    have hx' : s.engine.service = .arming := by
      have : (State.countDownHold _).engine.service = _ := hx
      rw [State.countDownHold_engine] at this
      rw [← g2]; exact this
    have hj' : s.engine.served = some j := by
      have : (State.countDownHold _).engine.served = _ := hj
      rw [State.countDownHold_engine] at this
      rw [← g2]; exact this
    have hne : j.ctx ≠ c := ho.2 hx' j hj'
    show ((State.countDownHold _).flow.ctxs.get j.ctx).state = _
    rw [State.countDownHold_flow]
    show ((s1.flow.ctxs.set c _).get j.ctx).state = _
    rw [Pair.get_set_ne _ _ _ _ hne, g1]
    exact h.phases.arming hx' j hj'
  · show ((State.countDownHold _).flow.ctxs.get c).state = _
    rw [State.countDownHold_flow]
    show ((s1.flow.ctxs.set c _).get c).state = _
    rw [Pair.get_set_self]
    rfl

theorem Flow.freeCtx_get {w : Flow} {c : CtxId} (h : w.freeCtx = some c) : (w.ctxs.get c).state = .free := by
  unfold Flow.freeCtx at h
  split at h
  · cases h; assumption
  · split at h
    · cases h; assumption
    · cases h

end Sys2Proof.Machine
end

