-- ==== Sys2Proof/Laws/Link.lean ====
section
/-! SUPPORT. Laws/Link.lean: raising, draining and sending keep the link controller's capacities, its
pending slots in canonical form and its queue drained, and sending leaves no free transmitter with
something to send. -/

namespace Sys2Proof.Machine

/-- The link controller's capacities and canonical forms, without the rule of the transmitter. -/
structure Link.Sound (l : Link) : Prop where
  notices : l.notices.length ≤ Config.noticeQueueSize
  refusals : l.refusals.length ≤ Config.refusalListSize
  framer : l.framer.count ≤ Config.frameMax
  pending : l.PendingOk
  drained : l.Drained

theorem Link.Ok.sound {l : Link} (h : l.Ok) : l.Sound := ⟨h.1, h.2, h.3, h.4, h.5⟩

theorem Link.Sound.ok {l : Link} (h : l.Sound) (hs : l.Settled) : l.Ok := ⟨h.1, h.2, h.3, h.4, h.5, hs⟩

/-- Every notice kind is below 8 (R172). -/
theorem NoticeData.kind_lt (d : NoticeData) : d.kind < 8 := by cases d <;> simp [NoticeData.kind]

theorem Link.PendingOk.key_lt {l : Link} (h : l.PendingOk) (e : Nat × Notice) (he : e ∈ l.pending) :
    e.1 < 8 := by rw [h.kind e he]; exact NoticeData.kind_lt _

theorem Link.PendingOk.put {l : Link} (h : l.PendingOk) (d : NoticeData) (n : Nat) (h1 : 1 ≤ n)
    (h2 : n ≤ 65535) (l' : Link) (hl : l'.pending = mapPut d.kind ⟨d, n⟩ l.pending) : l'.PendingOk := by
  refine ⟨by rw [hl]; exact mapWf_mapPut _ _ _ h.wf, ?_, ?_⟩
  · intro e he
    rw [hl] at he
    rcases mem_mapPut he with rfl | he
    · rfl
    · exact h.kind e he
  · intro e he
    rw [hl] at he
    rcases mem_mapPut he with rfl | he
    · exact ⟨h1, h2⟩
    · exact h.count e he

theorem Link.PendingOk.del {l : Link} (h : l.PendingOk) (k : Nat) (l' : Link)
    (hl : l'.pending = mapDel k l.pending) : l'.PendingOk := by
  refine ⟨by rw [hl]; exact mapWf_mapDel _ _ h.wf, ?_, ?_⟩
  · intro e he; rw [hl] at he; exact h.kind e (mem_mapDel he).1
  · intro e he; rw [hl] at he; exact h.count e (mem_mapDel he).1

/-- A raise keeps the link controller sound (R173). -/
theorem Link.Sound.raise {l : Link} (h : l.Sound) (d : NoticeData) : (l.raise d).Sound := by
  unfold Link.raise
  split
  · rename_i n hn
    have hc := (h.pending.count _ (mapGet_mem hn))
    refine ⟨h.notices, h.refusals, h.framer, h.pending.put d _ ?_ ?_ _ rfl, ?_⟩
    · have := hc.1; simp only at this; omega
    · omega
    · rcases h.drained with hd | hd
      · exact Or.inl hd
      · right
        intro k hk
        have hk' : l.masked k = false := hk
        have := hd k hk'
        by_cases hkd : k = d.kind
        · subst hkd; rw [hn] at this; cases this
        · simpa [mapGet_mapPut_ne _ _ hkd] using this
  · rename_i hn
    split
    · rename_i hq
      simp only [Bool.and_eq_true, Bool.not_eq_true', decide_eq_true_eq] at hq
      refine ⟨by simp; exact hq.2, h.refusals, h.framer, ⟨h.pending.1, h.pending.2, h.pending.3⟩, ?_⟩
      rcases h.drained with hd | hd
      · omega
      · exact Or.inr hd
    · rename_i hq
      refine ⟨h.notices, h.refusals, h.framer, h.pending.put d 1 (le_refl _) (by decide) _ rfl, ?_⟩
      simp only [Bool.and_eq_true, Bool.not_eq_true', decide_eq_true_eq, not_and, not_lt] at hq
      rcases h.drained with hd | hd
      · exact Or.inl hd
      · by_cases hm : l.masked d.kind = false
        · exact Or.inl (le_antisymm h.notices (hq hm))
        · right
          intro k hk
          have hk' : l.masked k = false := hk
          have hkd : k ≠ d.kind := by rintro rfl; exact hm hk'
          simpa [mapGet_mapPut_ne _ _ hkd] using hd k hk'

theorem Link.Sound.raises {l l' : Link} (h : l.Sound) (hr : l.Raises l') : l'.Sound := by
  obtain ⟨ds, rfl⟩ := hr
  induction ds generalizing l with
  | nil => exact h
  | cons d rest ih => exact ih (h.raise d)

/-- What draining one kind does to the fields it may touch. -/
theorem Link.drainKind_cases (l : Link) (k : Nat) :
    (l.drainKind k = l ∧ (mapGet k l.pending = none ∨ l.masked k = true
        ∨ Config.noticeQueueSize ≤ l.notices.length))
    ∨ (∃ n, mapGet k l.pending = some n ∧ l.masked k = false
        ∧ l.notices.length < Config.noticeQueueSize
        ∧ l.drainKind k = { l with notices := l.notices ++ [n], pending := mapDel k l.pending }) := by
  unfold Link.drainKind
  split
  · rename_i n hn
    split
    · rename_i hq
      simp only [Bool.and_eq_true, Bool.not_eq_true', decide_eq_true_eq] at hq
      exact Or.inr ⟨n, hn, hq.1, hq.2, rfl⟩
    · rename_i hq
      simp only [Bool.and_eq_true, Bool.not_eq_true', decide_eq_true_eq, not_and, not_lt] at hq
      refine Or.inl ⟨rfl, Or.inr ?_⟩
      by_cases hm : l.masked k = true
      · exact Or.inl hm
      · exact Or.inr (hq (by simpa using hm))
  · rename_i hn
    exact Or.inl ⟨rfl, Or.inl hn⟩

/-- The capacities and canonical form that draining keeps. -/
structure Link.Bounded (l : Link) : Prop where
  notices : l.notices.length ≤ Config.noticeQueueSize
  refusals : l.refusals.length ≤ Config.refusalListSize
  framer : l.framer.count ≤ Config.frameMax
  pending : l.PendingOk

theorem Link.drainKind_bounded {l : Link} (h : l.Bounded) (k : Nat) : (l.drainKind k).Bounded := by
  rcases l.drainKind_cases k with ⟨hk, -⟩ | ⟨n, hn, hm, hq, hk⟩
  · rw [hk]; exact h
  · rw [hk]
    exact ⟨by simp; exact hq, h.refusals, h.framer, h.pending.del k _ rfl⟩

theorem Link.drainKind_mask (l : Link) (k : Nat) : (l.drainKind k).mask = l.mask := by
  rcases l.drainKind_cases k with ⟨hk, -⟩ | ⟨n, -, -, -, hk⟩ <;> rw [hk]

/-- After a run of kinds has been drained, the queue is full or none of them that is not masked has a
pending notice. -/
theorem Link.drainRun (ks : List Nat) (l : Link) (h : l.Bounded) :
    (ks.foldl Link.drainKind l).Bounded ∧ (ks.foldl Link.drainKind l).mask = l.mask
      ∧ ((ks.foldl Link.drainKind l).notices.length = Config.noticeQueueSize ∨
        (∀ k, mapGet k l.pending = none → mapGet k (ks.foldl Link.drainKind l).pending = none)
          ∧ ∀ k ∈ ks, l.masked k = false → mapGet k (ks.foldl Link.drainKind l).pending = none) := by
  induction ks generalizing l with
  | nil => exact ⟨h, rfl, Or.inr ⟨fun _ hk => hk, by simp⟩⟩
  | cons k rest ih =>
    rw [List.foldl_cons]
    rcases l.drainKind_cases k with ⟨hk, hwhy⟩ | ⟨n, hn, hmk, hq, hk⟩
    · rw [hk]
      obtain ⟨hb, hm, hd⟩ := ih l h
      refine ⟨hb, hm, ?_⟩
      rcases hd with hd | ⟨hd1, hd2⟩
      · exact Or.inl hd
      · by_cases hfull : Config.noticeQueueSize ≤ l.notices.length
        · left
          have hmono : ∀ (ks : List Nat) (l : Link), l.notices.length ≤ (ks.foldl Link.drainKind l).notices.length := by
            intro ks
            induction ks with
            | nil => intro l; exact le_refl _
            | cons j js ih' =>
              intro l
              refine le_trans ?_ (ih' _)
              rcases l.drainKind_cases j with ⟨hj, -⟩ | ⟨n, -, -, -, hj⟩ <;> rw [hj]
              simp
          exact le_antisymm hb.notices (le_trans hfull (hmono rest l))
        · right
          refine ⟨hd1, ?_⟩
          intro j hj hmj
          rcases List.mem_cons.1 hj with rfl | hj
          · rcases hwhy with hw | hw | hw
            · exact hd1 j hw
            · rw [hmj] at hw; cases hw
            · exact absurd hw hfull
          · exact hd2 j hj hmj
    · obtain ⟨hb, hm, hd⟩ := ih (l.drainKind k) (Link.drainKind_bounded h k)
      refine ⟨hb, hm.trans (Link.drainKind_mask l k), ?_⟩
      rcases hd with hd | ⟨hd1, hd2⟩
      · exact Or.inl hd
      · right
        have hpend : (l.drainKind k).pending = mapDel k l.pending := by rw [hk]
        have hmsk : ∀ j, (l.drainKind k).masked j = l.masked j := by intro j; simp [Link.masked, Link.drainKind_mask]
        refine ⟨?_, ?_⟩
        · intro j hj
          apply hd1
          rw [hpend]
          by_cases hjk : j = k
          · subst hjk; exact mapGet_mapDel_self _ _
          · rw [mapGet_mapDel_ne _ hjk]; exact hj
        · intro j hj hmj
          rcases List.mem_cons.1 hj with rfl | hj
          · apply hd1; rw [hpend]; exact mapGet_mapDel_self _ _
          · exact hd2 j hj (by rw [hmsk]; exact hmj)

/-- Draining leaves the queue full or no unmasked kind pending (R174). -/
theorem Link.Bounded.drain {l : Link} (h : l.Bounded) : l.drain.Sound := by
  obtain ⟨hb, hm, hd⟩ := Link.drainRun (List.range 8) l h
  refine ⟨hb.1, hb.2, hb.3, hb.4, ?_⟩
  rcases hd with hd | ⟨-, hd⟩
  · exact Or.inl hd
  · right
    intro k hk
    by_cases h8 : k < 8
    · apply hd k (by simpa using h8)
      have : (Link.drain l).mask = l.mask := hm
      simpa [Link.masked, this] using hk
    · rw [mapGet_eq_none]
      intro e he hek
      have := hb.pending.key_lt e he
      omega

theorem Link.Sound.bounded {l : Link} (h : l.Sound) : l.Bounded := ⟨h.1, h.2, h.3, h.4⟩

/-- Draining moves notices alone. -/
theorem Link.drain_rest (l : Link) : l.drain.framer = l.framer ∧ l.drain.held = l.held
    ∧ l.drain.inService = l.inService ∧ l.drain.resetCount = l.resetCount
    ∧ l.drain.replySlot = l.replySlot ∧ l.drain.refusals = l.refusals ∧ l.drain.mask = l.mask
    ∧ l.drain.sending = l.sending ∧ l.drain.counters = l.counters := by
  have key : ∀ (ks : List Nat) (l : Link),
      (ks.foldl Link.drainKind l).framer = l.framer ∧ (ks.foldl Link.drainKind l).held = l.held
      ∧ (ks.foldl Link.drainKind l).inService = l.inService
      ∧ (ks.foldl Link.drainKind l).resetCount = l.resetCount
      ∧ (ks.foldl Link.drainKind l).replySlot = l.replySlot
      ∧ (ks.foldl Link.drainKind l).refusals = l.refusals ∧ (ks.foldl Link.drainKind l).mask = l.mask
      ∧ (ks.foldl Link.drainKind l).sending = l.sending
      ∧ (ks.foldl Link.drainKind l).counters = l.counters := by
    intro ks
    induction ks with
    | nil => intro l; simp
    | cons k rest ih =>
      intro l
      rw [List.foldl_cons]
      rcases l.drainKind_cases k with ⟨hk, -⟩ | ⟨n, -, -, -, hk⟩
      · rw [hk]; exact ih l
      · obtain ⟨a, b, c, d, e, f, g, i, j⟩ := ih (l.drainKind k)
        refine ⟨a.trans ?_, b.trans ?_, c.trans ?_, d.trans ?_, e.trans ?_, f.trans ?_, g.trans ?_,
          i.trans ?_, j.trans ?_⟩ <;> rw [hk]
  exact key (List.range 8) l

/-- What the transmitter's choice can be (R169): it is busy, it takes the reply, it takes the oldest
answer, it takes the oldest notice and the pending ones move up, or there is nothing. -/
theorem Link.pump_cases (l : Link) :
    (l.pump = l ∧ (l.sending.isSome ∨ (l.replySlot = none ∧ l.refusals = [] ∧ l.notices = [])))
    ∨ (l.sending = none ∧ ∃ f, l.replySlot = some f
        ∧ l.pump = { l with sending := some (.reply f), replySlot := none })
    ∨ (l.sending = none ∧ l.replySlot = none ∧ ∃ a rest, l.refusals = a :: rest
        ∧ l.pump = { l with sending := some (.answer a), refusals := rest })
    ∨ (l.sending = none ∧ l.replySlot = none ∧ l.refusals = [] ∧ ∃ n rest, l.notices = n :: rest
        ∧ l.pump = Link.drain { l with
          sending := some (.notice n), notices := rest
          counters := { l.counters with noticesSent := bump l.counters.noticesSent 1 } }) := by
  unfold Link.pump
  split
  · rename_i x hx; exact Or.inl ⟨rfl, Or.inl (by simp [hx])⟩
  · rename_i hx
    split
    · rename_i f hf; exact Or.inr (Or.inl ⟨hx, f, hf, rfl⟩)
    · rename_i hf
      split
      · rename_i a rest ha; exact Or.inr (Or.inr (Or.inl ⟨hx, hf, a, rest, ha, rfl⟩))
      · rename_i ha
        split
        · rename_i n rest hn; exact Or.inr (Or.inr (Or.inr ⟨hx, hf, ha, n, rest, hn, rfl⟩))
        · rename_i hn; exact Or.inl ⟨rfl, Or.inr ⟨hf, ha, hn⟩⟩

/-- After the transmitter's choice nothing waits for a free transmitter, and the link controller is as
sound as before. -/
theorem Link.Sound.pump {l : Link} (h : l.Sound) : l.pump.Ok := by
  rcases l.pump_cases with ⟨hp, hw⟩ | ⟨hs, f, hf, hp⟩ | ⟨hs, hf, a, rest, ha, hp⟩ | ⟨hs, hf, ha, n, rest, hn, hp⟩
  · rw [hp]
    refine h.ok ?_
    intro hnone
    rcases hw with hw | hw
    · rw [hnone] at hw; cases hw
    · exact hw
  · rw [hp]
    exact Link.Sound.ok ⟨h.1, h.2, h.3, ⟨h.4.1, h.4.2, h.4.3⟩, h.5⟩ (by intro hx; cases hx)
  · rw [hp]
    have hr := h.refusals
    rw [ha] at hr
    refine Link.Sound.ok ⟨h.1, ?_, h.3, ⟨h.4.1, h.4.2, h.4.3⟩, h.5⟩ (by intro hx; cases hx)
    simp at hr ⊢; omega
  · have hb : Link.Bounded { l with
          sending := some (.notice n), notices := rest
          counters := { l.counters with noticesSent := bump l.counters.noticesSent 1 } } := by
      have h1 := h.notices
      rw [hn] at h1
      refine ⟨?_, h.2, h.3, ⟨h.4.1, h.4.2, h.4.3⟩⟩
      simp at h1 ⊢; omega
    rw [hp]
    refine hb.drain.ok ?_
    intro hx
    obtain ⟨-, -, -, -, -, -, -, hsend, -⟩ := Link.drain_rest { l with
          sending := some (.notice n), notices := rest
          counters := { l.counters with noticesSent := bump l.counters.noticesSent 1 } }
    rw [hsend] at hx
    cases hx

/-- Forming a reply keeps the link controller sound. -/
theorem Link.Sound.reply {l : Link} (h : l.Sound) (st : Status) (b : List Byte) : (l.reply st b).Sound := by
  unfold Link.reply
  split
  · exact ⟨h.1, h.2, h.3, ⟨h.4.1, h.4.2, h.4.3⟩, h.5⟩
  · exact h

/-- What forming a reply does (R167, R185). -/
theorem Link.reply_some {l : Link} {k t : Byte} (h : l.inService = some (k, t)) (st : Status) (b : List Byte) :
    l.reply st b = { l with replySlot := some ⟨k + 0x80, t, st.code :: b⟩ } := by
  unfold Link.reply
  rw [h]

end Sys2Proof.Machine
end

