-- ==== Sys2Proof/Laws/Operations.lean ====
section
/-! SUPPORT. Operations.lean: what the shared operations of the machine do, said once, for proofs to
cite in place of unfolding them. -/

namespace Sys2Proof.Machine

open Sys2Proof

/-! ### The transmitter and the bytes of a frame -/

/-- A transmitter that is busy, or free with nothing waiting, chooses nothing (R169). -/
theorem Link.Settled.pump {l : Link} (h : l.Settled) : l.pump = l := by
  unfold Link.pump
  split
  · rfl
  · rename_i hs
    obtain ⟨h1, h2, h3⟩ := h hs
    rw [h1, h2, h3]

/-- A settled link is the same at the end of an event (R169). -/
theorem State.pump_settled {s : State} (h : s.link.Settled) : s.pump = s := by
  unfold State.pump State.modLink
  rw [h.pump]

/-- The length field of a frame reads back the length written (R185). -/
theorem u16_be16 (n : Nat) (h : n < 65536) (a b : Byte) (rest : List Byte) :
    u16 (a :: b :: (be16 n ++ rest)) 2 = n := by
  simp only [u16, u8, be16, byteOf]
  simp [List.getD]
  omega

/-- A frame holds six decoded bytes beside its body (R185). -/
theorem Frame.decoded_length (f : Frame) : f.decoded.length = f.body.length + 6 := by
  simp [Frame.decoded, Frame.content, be16]

/-- A frame is never an empty buffer (R165). -/
theorem Frame.decoded_ne (f : Frame) : f.decoded ≠ [] := by
  intro h; have := Frame.decoded_length f; rw [h] at this; simp at this

/-- The first byte of a body. -/
theorem u8_cons (x : Byte) (l : List Byte) : u8 (x :: l) 0 = x.toNat := rfl

/-- A byte of a body after its first byte. -/
theorem u8_succ (x : Byte) (l : List Byte) (n : Nat) : u8 (x :: l) (n+1) = u8 l n := by
  simp [u8, List.getD]

/-- A two-byte field of a body after its first byte. -/
theorem u16_succ (x : Byte) (l : List Byte) (n : Nat) : u16 (x :: l) (n+1) = u16 l n := by
  simp [u16, u8_succ]

/-- A two-byte field at the front of a body reads the value written (R183). -/
theorem u16_of_be16 (n : U16) (l : List Byte) : u16 (be16 n.toNat ++ l) 0 = n.toNat := by
  have := u16_be16 n.toNat n.isLt 0 0 l
  simpa [u16_succ] using this

/-- A byte behind a two-byte field. -/
theorem u8_after_field (n m : Nat) (l : List Byte) : u8 (be16 n ++ l) (m + 2) = u8 l m := by
  simp [be16, u8_succ]

/-- A two-byte field behind a two-byte field. -/
theorem u16_after_field (n m : Nat) (l : List Byte) : u16 (be16 n ++ l) (m + 2) = u16 l m := by
  simp [be16, u16_succ]

/-- A number above 3 names none of four. -/
theorem quadIndex_lt {n : Nat} (h : 3 < n) : quadIndex n = none := by
  unfold quadIndex; rw [dif_neg (by omega)]

/-- A number up to 3 names the one it numbers. -/
theorem quadIndex_val (k : Fin 4) : quadIndex k.val = some k := by
  unfold quadIndex; rw [dif_pos k.isLt]

/-- A number above 1 names none of two. -/
theorem pairIndex_lt {n : Nat} (h : 1 < n) : pairIndex n = none := by
  unfold pairIndex; rw [dif_neg (by omega)]

/-- A number up to 1 names the one it numbers. -/
theorem pairIndex_val (k : Fin 2) : pairIndex k.val = some k := by
  unfold pairIndex; rw [dif_pos k.isLt]

/-! ### Requests in service -/

/-- The state in which a request has been taken: in service, its frame counted valid (R167). -/
def State.served (s : State) (k t : Byte) : State := { s with link := { s.link with
        inService := some (k, t)
        counters := { s.link.counters with
          framesValid := bump s.link.counters.framesValid 1 } } }

/-- A reply formed for the request in service, sent at once by a free transmitter (R167, R169). -/
theorem State.reply_pump (s : State) (k t : Byte) (st : Status) (b : List Byte)
    (h : s.link.inService = some (k, t)) :
    (s.reply st b).pump = { s with link := { s.link with
      replySlot := if s.link.sending.isNone then none else some (replyFrame k t st b)
      sending := if s.link.sending.isNone then some (.reply (replyFrame k t st b)) else s.link.sending }
          } := by
  unfold State.pump State.reply State.modLink
  rw [Link.reply_some h]
  unfold Link.pump
  cases hs : s.link.sending <;> simp [replyFrame]

/-- A request taken and answered in one event (R167). -/
theorem State.served_reply (s : State) (k t : Byte) (st : Status) (b : List Byte) :
    ((State.served s k t).reply st b).pump = { s with link := s.link.answered k t st b } := by
  rw [State.reply_pump _ k t _ _ rfl]
  rfl

/-- A valid frame that is taken is in service before it is served (R167). -/
theorem State.deliver_takes (s : State) (f : Frame) (h : s.Takes) : s.deliver f =
    (State.served s f.kind f.tag).serveFrame f := by
  unfold State.deliver
  rw [h.2]
  simp only [Option.isSome_none, Bool.false_eq_true, if_false]
  unfold State.takeFrame
  have : (s.modLink (Link.count (fun k =>
      { k with framesValid := bump k.framesValid 1 }))).link.inService = none := h.1
  rw [this]
  rfl

/-- A request kind is the kind of its byte (R186). -/
theorem ReqKind.ofByte_byte (k : ReqKind) : ReqKind.ofByte k.byte = some k := by cases k <;> decide

/-- A byte that is a request kind is that kind's byte (R186). -/
theorem ReqKind.ofByte_some {b : Byte} {k : ReqKind} (h : ReqKind.ofByte b = some k) : b = k.byte := by
  revert b; cases k <;> decide

/-- A frame of a known kind with a body that fits goes to its owner (R167). -/
theorem State.deliver_known (s : State) (f : Frame) (k : ReqKind) (h : s.Takes)
    (hk : ReqKind.ofByte f.kind = some k) (hf : k.bodyFits f.body.length = true) :
    s.deliver f = (State.served s f.kind f.tag).serve k f.body := by
  rw [State.deliver_takes s f h]
  unfold State.serveFrame
  rw [hk]
  simp only [hf, if_true]

/-- A request command with a body that fits goes to its owner (R167). -/
theorem State.request_known (s : State) (k : ReqKind) (tag : Byte) (b : List Byte) (h : s.Takes)
    (hf : k.bodyFits b.length = true) :
    s.request k tag b = .next ((State.served s k.byte tag).serve k b).pump := by
  unfold State.request
  rw [State.deliver_known s ⟨k.byte, tag, b⟩ k h (ReqKind.ofByte_byte k) hf]

/-- The same with the kind's own byte. -/
theorem State.served_reply_kind (s : State) (k : ReqKind) (tag : Byte) (st : Status) (b : List Byte) :
    ((State.served s k.byte tag).reply st b).pump = s.answered k tag st b :=
        State.served_reply s k.byte tag st b

/-- A request whose owner changes the state to another and replies answers with that state. -/
theorem State.request_answered (s t : State) (k : ReqKind) (tag : Byte) (b : List Byte) (h : s.Takes)
    (hf : k.bodyFits b.length = true) (st : Status) (r : List Byte)
    (hs : (State.served s k.byte tag).serve k b = (State.served t k.byte tag).reply st r) :
    s.request k tag b = .next (t.answered k tag st r) := by
  rw [State.request_known s k tag b h hf, hs]
  exact congrArg _ (State.served_reply_kind t k tag st r)

/-- Taking a request and raising a notice may be done in either order. -/
theorem State.served_raise (s : State) (k t : Byte) (d : NoticeData) :
    (State.served s k t).raise d = State.served (s.raise d) k t := by
  unfold State.raise State.modLink State.served Link.raise Link.masked
  simp only
  split
  · rfl
  · split <;> rfl

/-- Taking a request and clearing a drift value may be done in either order. -/
theorem State.served_unprime (s : State) (k t : Byte) (j : SlotId) (c : Nat) :
    (State.served s k t).unprime j c = State.served (s.unprime j c) k t := by
  unfold State.unprime
  show (match s.monitor.driftOf j c with | none => _ | some d => _) = _
  cases s.monitor.driftOf j c with
  | none => rfl
  | some d =>
    simp only
    split
    · rfl
    · exact State.served_raise (s.modMonitor
          (fun m => { m with drift := mapDel (driftKey j c) m.drift })) k t _

/-- Taking a request may be done before or after a run of changes that allow it one at a time. -/
theorem State.foldl_served {α : Type} (k t : Byte) (f : State → α → State)
    (h : ∀ s a, f (State.served s k t) a = State.served (f s a) k t) (l : List α) (s : State) :
    l.foldl f (State.served s k t) = State.served (l.foldl f s) k t := by
  induction l generalizing s with
  | nil => rfl
  | cons a l ih => simp only [List.foldl_cons, h, ih]

/-- Taking a request and driving ENTRY_ENABLE may be done in either order. -/
theorem State.served_driveEntry (s : State) (k t : Byte) :
    (State.served s k t).driveEntry = State.served s.driveEntry k t := rfl

/-- Taking a request and clearing a run of drift values may be done in either order. -/
theorem State.served_unprimeRun (s : State) (k t : Byte) (j : SlotId) (a n : Nat) :
    (State.served s k t).unprimeRun j a n = State.served (s.unprimeRun j a n) k t := by
  unfold State.unprimeRun
  exact State.foldl_served _ _ _ (fun s a => State.served_unprime s _ _ j _) _ _

/-- Taking a request and driving the lines may be done in either order. -/
theorem State.served_driveLines (s : State) (k t : Byte) :
    (State.served s k t).driveLines = State.served s.driveLines k t := by
  have : (State.served s k t).releaseTest = State.served s.releaseTest k t := by
    unfold State.releaseTest
    show (if (s.flow.moving && s.pins.downstreamReady) then _ else _) = _
    split
    · show (match s.flow.findCtx Context.wantsRelease with | some c => _ | none => _) = _
      cases s.flow.findCtx Context.wantsRelease <;> rfl
    · rfl
  unfold State.driveLines
  rw [this]; rfl

/-- Taking a request and changing the station state may be done in either order. -/
theorem State.served_changeStation (s : State) (k t : Byte) (a : StationState) (c : StationCause) :
    (State.served s k t).changeStation a c = State.served (s.changeStation a c) k t := by
  unfold State.changeStation
  exact State.served_raise (s.modFlow (fun w => { w with station := a })) k t _

/-- Taking a request and freeing a context may be done in either order. -/
theorem State.served_freeContext (s : State) (k t : Byte) (c : CtxId) :
    (State.served s k t).freeContext c = State.served (s.freeContext c) k t := by
  unfold State.freeContext State.drainTest
  simp only
  split
  · rename_i h
    rw [if_pos (by exact h)]
    exact State.served_changeStation (((s.modCtx c
        (fun x => { x with state := .free, position := .nowhere, taktRunning := false })).unpin
        (s.ctx c).slot).setDecision c .absent) k t _ _
  · rename_i h
    rw [if_neg (by exact h)]; rfl

/-! ### The process monitor -/

/-- Clearing one drift value leaves every other (R141). -/
theorem State.unprime_driftOf (s : State) (k j : SlotId) (c d : Nat) (hc : c < 64) (hd : d < 64) :
    (s.unprime k d).monitor.driftOf j c = if j = k ∧ c = d then none else s.monitor.driftOf j c := by
  have hkey : driftKey j c = driftKey k d ↔ (j = k ∧ c = d) := by
    unfold driftKey; constructor
    · intro h
      have : j.val = k.val := by omega
      exact ⟨Fin.ext this, by omega⟩
    · rintro ⟨rfl, rfl⟩; rfl
  have hm : ∀ q, s.monitor.driftOf k d = some q →
      (s.unprime k d).monitor = { s.monitor with drift := mapDel (driftKey k d) s.monitor.drift } := by
    intro q hq
    unfold State.unprime
    rw [hq]
    simp only
    split
    · rfl
    · rfl
  cases hq : s.monitor.driftOf k d with
  | none =>
    have : s.unprime k d = s := by unfold State.unprime; rw [hq]
    rw [this]
    split
    · rename_i h; rw [h.1, h.2, hq]
    · rfl
  | some q =>
    rw [hm q hq]
    show mapGet (driftKey j c) (mapDel (driftKey k d) s.monitor.drift) = _
    split
    · rename_i h; rw [hkey.mpr h, mapGet_mapDel_self]
    · rename_i h; rw [mapGet_mapDel_ne _ (fun e => h (hkey.mp e))]; rfl

/-- Clearing a run of drift values: those values, and nothing else but the notices (R141). -/
theorem State.unprimeRun_changes (s : State) (k : SlotId) (first n : Nat) (hn : first + n ≤ 64) :
    (∀ (j : SlotId) c, c < 64 → (s.unprimeRun k first n).monitor.driftOf j c = if j = k ∧ first ≤ c ∧
        c < first + n then none else s.monitor.driftOf j c) ∧
    { (s.unprimeRun k first n).monitor with drift := s.monitor.drift } = s.monitor ∧
    (s.unprimeRun k first n) = { s with monitor := (s.unprimeRun k first n).monitor, link := (s.unprimeRun k first n).link } ∧
    s.link.Raises (s.unprimeRun k first n).link := by
  refine ⟨?_, ?_, ?_, State.unprimeRun_raises s k first n⟩
  · induction n with
    | zero =>
      intro j c hc
      rw [if_neg (by omega)]; rfl
    | succ n ih =>
      intro j c hc
      have e : s.unprimeRun k first (n+1) = (s.unprimeRun k first n).unprime k (first + n) := by
        unfold State.unprimeRun; rw [List.range_succ, List.foldl_append]; rfl
      rw [e, State.unprime_driftOf _ _ _ _ _ hc (by omega), ih (by omega) j c hc]
      by_cases h1 : j = k ∧ c = first + n
      · rw [if_pos h1, if_pos ⟨h1.1, by omega, by omega⟩]
      · rw [if_neg h1]
        congr 1
        apply propext
        constructor
        · rintro ⟨a, b, c⟩; exact ⟨a, b, by omega⟩
        · rintro ⟨a, b, d⟩; exact ⟨a, b, by
            have : ¬ c = first + n := fun e => h1 ⟨a, e⟩
            omega⟩
  · induction n with
    | zero => rfl
    | succ n ih =>
      have e : s.unprimeRun k first (n+1) = (s.unprimeRun k first n).unprime k (first + n) := by
        unfold State.unprimeRun; rw [List.range_succ, List.foldl_append]; rfl
      rw [e]
      have ih := ih (by omega)
      generalize s.unprimeRun k first n = q at ih
      unfold State.unprime
      cases q.monitor.driftOf k (first + n) with
      | none => exact ih
      | some d =>
        simp only
        split <;> exact ih
  · generalize hq : s.unprimeRun k first n = q
    have := State.unprimeRun_now s k first n
    have := State.unprimeRun_pins s k first n
    have := State.unprimeRun_flow s k first n
    have := State.unprimeRun_slots s k first n
    have := State.unprimeRun_align s k first n
    have := State.unprimeRun_ports s k first n
    have := State.unprimeRun_arbiter s k first n
    have := State.unprimeRun_engine s k first n
    have := State.unprimeRun_evaluator s k first n
    have := State.unprimeRun_decision s k first n
    have := State.unprimeRun_log s k first n
    have := State.unprimeRun_pending s k first n
    rw [hq] at *
    obtain ⟨⟩ := q
    simp_all

/-- Clearing a drift value raises a notice when it was outside its band (R141). -/
theorem State.unprime_link (s : State) (k : SlotId) (c : Nat) :
    (s.unprime k c).link = match s.monitor.driftOf k c with
      | some d => if d.band = .inside then s.link else
          s.link.raise (NoticeData.drift k c d.band .inside none)
      | none => s.link := by
  unfold State.unprime
  cases s.monitor.driftOf k c with
  | none => rfl
  | some d => simp only; split <;> rfl

/-- The notices of a run of cleared drift values, in ascending class (R141; assumption log 26). -/
theorem State.unprimeRun_link (s : State) (k : SlotId) (first n : Nat) (hn : first + n ≤ 64) :
    (s.unprimeRun k first n).link = (((List.range n).map (fun n => first + n)).filterMap
        (fun c => match s.monitor.driftOf k c with
              | some d => if d.band = .inside then none
                  else some (NoticeData.drift k c d.band .inside none)
              | none => none)).foldl (fun l d => l.raise d) s.link := by
  induction n with
  | zero => rfl
  | succ n ih =>
    have e : s.unprimeRun k first (n+1) = (s.unprimeRun k first n).unprime k (first + n) := by
      unfold State.unprimeRun; rw [List.range_succ, List.foldl_append]; rfl
    rw [e, State.unprime_link, (State.unprimeRun_changes s k first n (by omega)).1 k _ (by omega),
        if_neg (by omega), ih (by omega), List.range_succ, List.map_append, List.filterMap_append,
        List.foldl_append]
    cases hq : s.monitor.driftOf k (first + n) with
    | none => simp [hq]
    | some d => simp only; split <;> simp [*]

/-- Reading a filtered store. -/
theorem mapGet_filter {α : Type} (p : Nat → Bool) (k : Nat) (l : List (Nat × α)) :
    mapGet k (l.filter (fun e => p e.1)) = if p k then mapGet k l else none := by
  induction l with
  | nil => simp [mapGet]
  | cons a l ih =>
    obtain ⟨j, a⟩ := a
    simp only [List.filter_cons]
    by_cases hj : p j
    · simp only [hj, if_true, mapGet]
      by_cases h : j = k
      · subst h; simp [hj]
      · simp only [h, if_false, ih]
    · simp only [hj, Bool.false_eq_true, if_false, ih, mapGet]
      by_cases h : j = k
      · subst h; simp [hj]
      · simp only [h, if_false]

/-- Clearing the repeat counters of a slot leaves those of the others (R146). -/
theorem Monitor.zeroRepeats_repeatOf (m : Monitor) (k j : SlotId) (i : Nat) (hi : i < 8192) :
    (m.zeroRepeats k).repeatOf j i = if j = k then 0 else m.repeatOf j i := by
  unfold Monitor.repeatOf Monitor.zeroRepeats
  simp only
  rw [mapGet_filter (fun n => n / 8192 != k.val)]
  have : repeatKey j i / 8192 = j.val := by unfold repeatKey; omega
  rw [this]
  by_cases h : j = k
  · subst h; simp
  · have : j.val ≠ k.val := fun e => h (Fin.ext e)
    simp [h, this]

/-- A repeat counter depends on the store of counters alone. -/
theorem Monitor.repeatOf_congr (m m' : Monitor) (h : m'.repeats = m.repeats) (j : SlotId) (i : Nat) :
    m'.repeatOf j i = m.repeatOf j i := by
  unfold Monitor.repeatOf; rw [h]

/-- Discarding a slot's repeat requests (R146): none of it is left and nothing else changes. -/
theorem Monitor.discardRequests_changes (m : Monitor) (k : SlotId) :
  (∀ r ∈ (m.discardRequests k).requests, r.slot ≠ k) ∧
      (∀ w, (m.discardRequests k).work = some w → w.request.slot ≠ k) ∧
  (m.discardRequests k).repeats = m.repeats ∧ (m.discardRequests k).drift = m.drift ∧
  { (m.discardRequests k) with requests := [], work := none } =
      { m with requests := [], work := none } := by
  have hf : ∀ r ∈ m.requests.filter (fun r => r.slot != k), r.slot ≠ k := by
    intro r hr; simp only [List.mem_filter, bne_iff_ne] at hr; exact hr.2
  unfold Monitor.discardRequests
  cases hw : m.work with
  | none => exact ⟨hf, by simp [hw], rfl, rfl, by simp [hw]⟩
  | some w =>
    simp only
    split
    · unfold Monitor.beginNext
      simp only
      generalize hq : m.requests.filter (fun r => r.slot != k) = q at hf
      cases q with
      | nil => exact ⟨by simp, by simp, rfl, rfl, rfl⟩
      | cons a q =>
        refine ⟨fun r hr => hf r (by simp [hr]), ?_, rfl, rfl, rfl⟩
        intro w hw; cases hw; exact hf a (by simp)
    · rename_i hn
      refine ⟨hf, ?_, rfl, rfl, by simp [hw]⟩
      intro v hv; cases hv; exact hn

/-! ### Contexts, slots and ports -/

/-- The context found is the lowest-numbered that fits. -/
theorem Flow.findCtx_eq_some (w : Flow) (p : Context → Bool) (c : CtxId) (h : p (w.ctxs.get c) = true)
    (hl : ∀ b, b < c → ¬ p (w.ctxs.get b) = true) : w.findCtx p = some c := by
  unfold Flow.findCtx
  match c with
  | 0 => rw [if_pos (by exact h)]
  | 1 => rw [if_neg (by exact hl 0 (by decide)), if_pos (by exact h)]

/-- No context is found when none fits. -/
theorem Flow.findCtx_eq_none (w : Flow) (p : Context → Bool) (h : ∀ c, ¬ p (w.ctxs.get c) = true) :
    w.findCtx p = none := by
  unfold Flow.findCtx
  rw [if_neg (by exact h 0), if_neg (by exact h 1)]

/-- The context taken is the lowest-numbered FREE one (R30). -/
theorem Flow.freeCtx_eq_some (w : Flow) (c : CtxId) (h : (w.ctxs.get c).state = .free)
    (hl : ∀ b, b < c → (w.ctxs.get b).state ≠ .free) : w.freeCtx = some c := by
  unfold Flow.freeCtx
  match c with
  | 0 => rw [if_pos (by exact h)]
  | 1 => rw [if_neg (by exact hl 0 (by decide)), if_pos (by exact h)]

/-- Both contexts are FREE. -/
theorem Flow.bothFree_iff (w : Flow) : w.bothFree = true ↔ ∀ c, (w.ctxs.get c).state = .free := by
  unfold Flow.bothFree
  simp only [Bool.and_eq_true, beq_iff_eq]
  constructor
  · rintro ⟨a, b⟩ c; match c with
    | 0 => exact a
    | 1 => exact b
  · intro h; exact ⟨h 0, h 1⟩

/-- Not both contexts are FREE. -/
theorem Flow.bothFree_false_iff (w : Flow) : w.bothFree = false ↔ ∃ c, (w.ctxs.get c).state ≠ .free := by
  rw [← Bool.not_eq_true, Flow.bothFree_iff, not_forall]

/-- The states in which a context is being measured (R37). -/
theorem Context.measuring_iff (x : Context) : x.measuring = true ↔
    (x.state = .aligning ∨ x.state = .arming ∨ x.state = .scanning) := by
  simp [Context.measuring, or_assoc]

/-- A context that wants its release (R35). -/
theorem State.wantsRelease_iff (s : State) (c : CtxId) : (s.ctx c).wantsRelease = true ↔
    ((s.ctx c).position = .exit ∧ (s.ctx c).state = .decided ∧ (s.ctx c).removed = false) := by
  simp [Context.wantsRelease, and_assoc]

/-- ENTRY_ENABLE driven is as its terms say (R29). -/
theorem State.driveEntry_terms (s : State) :
    (s.driveEntry.flow.entryEnable = true ↔ s.driveEntry.EntryTerms) := by
  have : s.driveEntry.flow.entryEnable = s.entryCondition := rfl
  rw [this, State.entryCondition_iff]
  constructor <;> (rintro ⟨a, b, c, d, e⟩; exact ⟨a, b, c, d, e⟩)

/-- The later of two writes of one of two stands. -/
theorem Pair.set_set {α : Type} (q : Pair α) (i : Fin 2) (a b : α) : (q.set i a).set i b = q.set i b := by
  match i with
  | 0 => rfl
  | 1 => rfl

/-- The later of two writes of one of four stands. -/
theorem Quad.set_set {α : Type} (q : Quad α) (i : Fin 4) (a b : α) : (q.set i a).set i b = q.set i b := by
  match i with
  | 0 => rfl
  | 1 => rfl
  | 2 => rfl
  | 3 => rfl

/-- A test that holds of all four. -/
theorem Quad.all_toList_iff {α : Type} (q : Quad α) (p : α → Bool) : q.toList.all p = true ↔ ∀ i, p
    (q.get i) = true := by
  cases q with | mk a b c d =>
  simp only [Quad.toList, List.all_cons, List.all_nil, Bool.and_true, Bool.and_eq_true]
  constructor
  · rintro ⟨h0, h1, h2, h3⟩ i
    match i with
    | 0 => exact h0
    | 1 => exact h1
    | 2 => exact h2
    | 3 => exact h3
  · intro h; exact ⟨h 0, h 1, h 2, h 3⟩

/-- A test that holds of all three fiducials. -/
theorem fiducialIds_all_iff (p : Fin 3 → Bool) : fiducialIds.all p = true ↔ ∀ i, p i = true := by
  simp only [fiducialIds, List.all_cons, List.all_nil, Bool.and_true, Bool.and_eq_true]
  constructor
  · rintro ⟨h0, h1, h2⟩ i
    match i with
    | 0 => exact h0
    | 1 => exact h1
    | 2 => exact h2
  · intro h; exact ⟨h 0, h 1, h 2⟩

/-- A test that holds of every port. -/
theorem portIds_all_iff (p : PortId → Bool) : portIds.all p = true ↔ ∀ i, p i = true := by
  have : portIds = [0,1,2,3] := rfl
  rw [this]
  simp only [List.all_cons, List.all_nil, Bool.and_true, Bool.and_eq_true]
  constructor
  · rintro ⟨h0, h1, h2, h3⟩ i
    match i with
    | 0 => exact h0
    | 1 => exact h1
    | 2 => exact h2
    | 3 => exact h3
  · intro h; exact ⟨h 0, h 1, h 2, h 3⟩

/-- A port below the head count is configured (R64). -/
theorem State.configured_of_lt (s : State) (p : PortId) (f : StationConfig) (hc : s.flow.config = some f)
    (hp : p.val < f.heads) : s.configured p = true := by
  simp [State.configured, Flow.heads, hc, hp]

/-- A port at or above the head count is not (R64). -/
theorem State.configured_of_ge (s : State) (p : PortId) (hp : s.flow.heads ≤ p.val) :
    s.configured p = false := by
  simp [State.configured, hp]

/-- A frame taken on a port restarts its tile timer in RECEIVING (R77). -/
theorem State.heard_eq (s : State) (p : PortId) (f : StationConfig) (hf : s.flow.config = some f) :
   s.heard p = { s with ports := s.ports.set p (if (s.ports.get p).scan = .receiving then { (s.ports.get p) with tileTimer := some (s.now + f.tileTimeout) } else s.ports.get p) } := by
  unfold State.heard State.after
  rw [hf]; rfl

/-- The head whose owned range takes a column (R44). -/
theorem Flow.headForColumn_eq (w : Flow) (f : StationConfig) (hf : w.config = some f) (col : Nat)
    (p : PortId) :
   w.headForColumn col = [0,1,2,3].find? (fun p => (f.ranges[p.val]?).any (fun r => r.start ≤ col ∧
       col < r.stop)) := by
  unfold Flow.headForColumn
  rw [hf]
  simp only
  show portIds.find? _ = _
  have : portIds = [0,1,2,3] := rfl
  rw [this]
  congr 1
  funext p
  cases f.ranges[p.val]? <;> simp

/-! ### The scan of a port -/

/-- A loss report joins the intake list, taking the place of a loss report at its tail (R71). -/
theorem joinIntake_loss (row col : Nat) (l : List IntakeItem) : joinIntake
    (.loss row col) l = match l.getLast? with
          | some (.loss _ _) => l.dropLast ++ [.loss row col]
          | _ => l ++ [.loss row col] := by
  unfold joinIntake
  rcases l.getLast? with _ | ⟨_ | _ | _⟩ <;> rfl

/-- A tile joins the tail of the intake list (R70). -/
theorem joinIntake_tile (k : Fin 2) (l : List IntakeItem) : joinIntake (.tile k) l = l ++ [.tile k] := by
  unfold joinIntake
  rcases l.getLast? with _ | ⟨_ | _ | _⟩ <;> rfl

/-- An end record joins the tail of the intake list (R76). -/
theorem joinIntake_endRecord (l : List IntakeItem) : joinIntake .endRecord l = l ++ [.endRecord] := by
  unfold joinIntake
  rcases l.getLast? with _ | ⟨_ | _ | _⟩ <;> rfl

/-- What a stray position is (R70). -/
theorem ScanRecord.isStray_iff (r : ScanRecord) (row col : Nat) : r.isStray row col = true ↔
    (row < r.first ∨ r.last < row ∨ col % 64 ≠ 0 ∨
          col < r.rangeStart ∨ r.rangeStop < col + 64) := by
  simp [ScanRecord.isStray, or_assoc]

/-- What a position out of order is (R70). -/
theorem ScanRecord.isOutOfOrder_iff (r : ScanRecord) (row col : Nat) :
    r.isOutOfOrder row col = true ↔ ∃ l, r.lastPos = some l ∧
          ¬ (l.1 < row ∨ l.1 = row ∧ l.2 < col) := by
  unfold ScanRecord.isOutOfOrder
  cases h : r.lastPos with
  | none => simp
  | some l =>
    simp only [positionAfter, Option.some.injEq, exists_eq_left', Bool.not_eq_true',
        Bool.or_eq_false_iff, decide_eq_false_iff_not, Bool.and_eq_false_iff, beq_eq_false_iff_ne]
    omega

/-- No pool is taken when neither is FREE (R69). -/
theorem Port.freePool_eq_none (x : Port) (h : ∀ k, (x.pools.get k).state ≠ .free) :
    x.freePool = none := by
  have h0 : ¬ x.pools.p0.state = .free := h 0
  have h1 : ¬ x.pools.p1.state = .free := h 1
  unfold Port.freePool
  rw [if_neg h0, if_neg h1]

/-- The pool taken is the first FREE one (R69; assumption log 27). -/
theorem Port.freePool_eq_some (x : Port) (k : Fin 2) (h : (x.pools.get k).state = .free)
    (h' : ∀ j, j < k → (x.pools.get j).state ≠ .free) : x.freePool = some k := by
  unfold Port.freePool
  fin_cases k
  · have h : x.pools.p0.state = .free := h
    rw [if_pos h]; rfl
  · have h : x.pools.p1.state = .free := h
    have h0 : ¬ x.pools.p0.state = .free := h' 0 (by decide)
    rw [if_neg h0, if_pos h]; rfl

/-- When the scan is over (R78). -/
theorem State.scanOver_iff (s : State) : s.scanOver = true ↔ ∀ p : PortId, p.val < s.flow.heads →
      (s.ports.get p).scan = .done ∨ (s.ports.get p).scan = .absent := by
  unfold State.scanOver
  rw [List.all_eq_true]
  constructor
  · intro h p hp
    have := h p (by fin_cases p <;> decide)
    simp [State.configured, hp] at this
    exact this
  · intro h p _
    have := h p
    by_cases hp : p.val < s.flow.heads
    · simp [State.configured, hp, this hp]
    · simp [State.configured, hp]

/-- No port is granted when no item waits (R73). -/
theorem State.nextPort_eq_none (s : State) (h : ∀ p, (s.ports.get p).intake = []) :
    s.nextPort = none := by
  unfold State.nextPort
  rw [List.find?_eq_none]
  intro p _; simp [h p]

/-- The port granted is the next in turn that has an item (R73). -/
theorem State.nextPort_eq_some (s : State) (p : PortId) (item : IntakeItem) (rest : List IntakeItem)
    (h : (s.ports.get p).intake = item :: rest)
    (h2 : ∀ (n : Nat) (q : PortId), 1 ≤ n → n ≤ 3 →
        q.val = (s.arbiter.lastGranted.val + n) % 4 →
        n < (p.val + 3 - s.arbiter.lastGranted.val) % 4 + 1 → (s.ports.get q).intake = []) :
            s.nextPort = some p := by
  unfold State.nextPort searchOrder
  revert h2
  generalize s.arbiter.lastGranted = l
  intro h2
  have a1 := h2 1 (l+1) (by omega) (by omega) (by fin_cases l <;> rfl)
  have a2 := h2 2 (l+2) (by omega) (by omega) (by fin_cases l <;> rfl)
  have a3 := h2 3 (l+3) (by omega) (by omega) (by fin_cases l <;> rfl)
  clear h2
  fin_cases l <;> fin_cases p <;> simp at a1 a2 a3 h ⊢ <;> simp_all

/-- A grant to a port whose list holds an item: the item leaves the list for intake, its pool
IN_INTAKE (R73). -/
theorem State.grantPort_eq (s : State) (p : PortId) (item : IntakeItem) (rest : List IntakeItem) :
    (s.ports.get p).intake = item :: rest → s.grantPort p = { s with
      arbiter := ⟨p, some (p, item)⟩
      ports := s.ports.set p { s.ports.get p with
        intake := rest
        pools := match item with
          | .tile k => (s.ports.get p).pools.set k
              { (s.ports.get p).pools.get k with state := .inIntake }
          | _ => (s.ports.get p).pools } } := by
  intro h
  unfold State.grantPort
  rw [h]
  cases item <;> rfl

/-- A grant that completes at once: the item is gone, its pool FREE and the path free, and the end of the
scan is tested (R78, R94). -/
theorem State.grantPort_releaseIntake (s : State) (p : PortId) (item : IntakeItem)
    (rest : List IntakeItem) :
    (s.ports.get p).intake = item :: rest → (s.grantPort p).releaseIntake = ({ s with
      arbiter := ⟨p, none⟩
      ports := s.ports.set p { s.ports.get p with
        intake := rest
        pools := match item with
          | .tile k => (s.ports.get p).pools.set k ⟨.free, 0, 0, []⟩
          | _ => (s.ports.get p).pools } } : State).scanEndTest := by
  intro h
  unfold State.releaseIntake
  refine congrArg State.scanEndTest ?_
  rw [State.grantPort_eq s p item rest h]
  cases item with
  | tile k =>
    simp [State.abandonIntake, State.freeIntakePool, State.modArbiter, State.modPort, Quad.set_set,
      Pair.set_set, TilePool.empty]
  | loss r c => rfl
  | endRecord => rfl

/-- A list with an item at its head counts one item more than without it. -/
theorem State.itemsWaiting_cons (s u : State) (p : PortId) (item : IntakeItem) (rest : List IntakeItem)
    (pools : Pair TilePool) (h : (s.ports.get p).intake = item :: rest)
    (hu : u.ports = s.ports.set p { s.ports.get p with intake := rest, pools := pools }) :
    s.itemsWaiting = u.itemsWaiting + 1 := by
  unfold State.itemsWaiting
  rw [hu]
  fin_cases p <;> simp [Quad.toList, Quad.set, Quad.get] at h ⊢ <;> rw [h] <;> simp <;> omega

/-- A search of the arbiter that finds a port: its grant stands while the engine is SCANNING, else it
completes at once and the search goes on (R73, R94). -/
theorem State.grant_of_nextPort (s : State) (p : PortId) (n : Nat) (h : s.arbiter.inIntake = none)
    (hp : s.nextPort = some p) (hn : s.itemsWaiting = n + 1) :
    s.grant = if (s.grantPort p).engine.service = .scanning then s.grantPort p
      else State.grantUpTo n (s.grantPort p).releaseIntake := by
  unfold State.grant
  rw [hn, State.grantUpTo, h, hp]

/-! ### The receive framer -/

/-- A byte that only moves the framer of a settled link (R165). -/
theorem execHostByteReceived_moves (s : State) (x : Byte) (g : Bool) (f : Framer)
    (hs : s.link.Settled) (h : s.link.framer.take s.link.held.isSome x g = (f, .none)) :
    exec (.hostByteReceived x g) s = .next { s with link := { s.link with framer := f } } := by
  simp only [exec, execHostByteReceived, h]
  exact congrArg _ (State.pump_settled (s := { s with link := { s.link with framer := f } }) hs)

/-- A byte that discards the frame in progress of a settled link (R165). -/
theorem execHostByteReceived_error (s : State) (x : Byte) (g : Bool) (f : Framer)
    (hs : s.link.Settled) (h : s.link.framer.take s.link.held.isSome x g = (f, .formatError)) :
    exec (.hostByteReceived x g) s = .next { s with link := { s.link with
      framer := f
      counters := { s.link.counters with formatErrors := bump s.link.counters.formatErrors 1 } } } := by
  simp only [exec, execHostByteReceived, h]
  exact congrArg _ (State.pump_settled (s := { s with link := { s.link with
    framer := f
    counters := { s.link.counters with formatErrors := bump s.link.counters.formatErrors 1 } } }) hs)

/-! ### Alignment, arming and closing -/

/-- When an alignment is over (R51). -/
theorem State.alignmentOver_iff (s : State) (c : CtxId) : s.alignmentOver c = true ↔
    ((∀ p, s.align.lists.get p = [] ∧ s.align.inFlight.get p = none) ∧ ∀ i,
    ((s.align.records.get c).fids.get i).outcome ≠ .pending) := by
  unfold State.alignmentOver
  rw [Bool.and_eq_true, Bool.and_eq_true, Quad.all_toList_iff, Quad.all_toList_iff, fiducialIds_all_iff]
  simp only [List.isEmpty_iff, Option.isNone_iff_eq_none, bne_iff_ne]
  constructor
  · rintro ⟨⟨h1, h2⟩, h3⟩; exact ⟨fun p => ⟨h1 p, h2 p⟩, h3⟩
  · rintro ⟨h1, h3⟩; exact ⟨⟨fun p => (h1 p).1, fun p => (h1 p).2⟩, h3⟩

/-- Where an armed joint joins the open-order list (R90). -/
theorem insertArmed_split (e : ArmedJoint) (l : List ArmedJoint) :
    ∃ before after, insertArmed e l = before ++ e :: after ∧ l = before ++ after ∧
        (∀ b ∈ before, ¬ (e.firstBlock < b.firstBlock ∨ e.firstBlock = b.firstBlock ∧ e.joint < b.joint))
            ∧
        (∀ a, after.head? = some a →
          e.firstBlock < a.firstBlock ∨ e.firstBlock = a.firstBlock ∧ e.joint < a.joint) := by
  induction l with
  | nil => exact ⟨[], [], rfl, rfl, by simp, by simp⟩
  | cons h l ih =>
    unfold insertArmed
    split
    · rename_i hc
      exact ⟨[], h :: l, rfl, rfl, by simp, by simpa using hc⟩
    · rename_i hc
      obtain ⟨b, a, h1, h2, h3, h4⟩ := ih
      refine ⟨h :: b, a, by rw [h1]; rfl, by rw [h2]; rfl, ?_, h4⟩
      intro x hx
      rcases List.mem_cons.mp hx with rfl | hx
      · exact hc
      · exact h3 x hx

/-- Writing an UNSET entry of a verdict table (R111). -/
theorem Context.write_unset (x : Context) (n : Nat) (e : VerdictEntry)
    (h : x.verdicts[n]? = some VerdictEntry.unset) :
   x.write n e = { x with verdicts := x.verdicts.set n e, unset := x.unset - 1, counts := x.counts.add 1 e.verdict } := by
  unfold Context.write
  rw [h]; rfl

/-- A rectangle in the field: every column in an owned range and every row in 0 to 65,535 (R87). -/
theorem Rect.inField_iff (P : Nat) (ranges : List OwnedRange) (r : Rect) : r.inField ranges = true ↔
    ((∀ i, r.i0 ≤ i → i ≤ r.i1 → ∃ o ∈ ranges, (o.start : Int) ≤ i ∧ i < o.stop) ∧ 0 ≤ r.j0 ∧
    r.j1 ≤ 65535) := by
  unfold Rect.inField
  simp only [Bool.and_eq_true, List.all_eq_true, List.mem_range, List.any_eq_true, decide_eq_true_eq,
      OwnedRange.holds, and_assoc]
  constructor
  · rintro ⟨h1, h2, h3⟩
    refine ⟨?_, h2, h3⟩
    intro i h4 h5
    obtain ⟨o, ho, h6, h7⟩ := h1 (i - r.i0).toNat (by omega)
    exact ⟨o, ho, by omega, by omega⟩
  · rintro ⟨h1, h2, h3⟩
    refine ⟨?_, h2, h3⟩
    intro k hk
    obtain ⟨o, ho, h6, h7⟩ := h1 (r.i0 + k) (by omega) (by omega)
    exact ⟨o, ho, h6, h7⟩

/-- The heads a joint depends on, in ascending number (R88). -/
theorem mem_dependencies (ranges : List OwnedRange) (lo hi : Int) : (dependencies ranges lo hi).Pairwise
    (· < ·) ∧ ∀ q : PortId, q ∈ dependencies ranges lo hi ↔ ∃ o, ranges[q.val]? = some o ∧
    (o.start : Int) ≤ hi ∧ lo < (o.stop : Int) := by
  unfold dependencies
  constructor
  · exact List.Pairwise.filter _ (by decide)
  · intro q
    rw [List.mem_filter]
    have : q ∈ portIds := by
      match q with
      | 0 => decide
      | 1 => decide
      | 2 => decide
      | 3 => decide
    simp only [this, true_and]
    cases ranges[q.val]? <;> simp

/-- A list cut where a test first fails. -/
theorem takeWhile_append_of {α : Type} (p : α → Bool) : ∀ (run rest : List α), (∀ a ∈ run, p a = true) →
    (∀ a, rest.head? = some a → p a = false) → (run ++ rest).takeWhile p = run ∧
    (run ++ rest).dropWhile p = rest := by
  intro run
  induction run with
  | nil =>
    intro rest _ h
    cases rest with
    | nil => exact ⟨rfl, rfl⟩
    | cons a rest =>
      have := h a rfl
      simp [List.takeWhile_cons, List.dropWhile_cons, this]
  | cons a run ih =>
    intro rest h1 h2
    obtain ⟨g1, g2⟩ := ih rest (fun a ha => h1 a (by simp [ha])) h2
    have := h1 a (by simp)
    simp only [List.cons_append, List.takeWhile_cons, List.dropWhile_cons, this, if_true, g1, g2]
    exact ⟨trivial, trivial⟩

/-- When every configured head has passed its last row block (R99). -/
theorem State.allComplete_iff (s : State) : s.allComplete = true ↔ ∀ p :
    PortId, p.val < s.flow.heads → ∃ r, (s.ports.get p).record = some r ∧ r.mark = r.last := by
  unfold State.allComplete
  rw [portIds_all_iff]
  constructor
  · intro h p hp
    have := h p
    unfold State.configured Port.complete at this
    cases hr : (s.ports.get p).record with
    | none => rw [hr] at this; simp [hp] at this
    | some r => rw [hr] at this; simp at this; exact ⟨r, rfl, by rcases this with h | h; omega; exact h⟩
  · intro h p
    by_cases hp : p.val < s.flow.heads
    · obtain ⟨r, h1, h2⟩ := h p hp
      unfold Port.complete; rw [h1]; simp [h2]
    · unfold State.configured; simp [hp]

/-- A context enters JUDGING: the lines driven, and a COMPLETE record decided (R78, R128). -/
theorem State.enterJudging_eq (s : State) (c : CtxId) : s.enterJudging c = 
    (let t := ({ s with flow := { s.flow with ctxs := s.flow.ctxs.set c { s.ctx c with state := .judging } } } : State).driveLines
     if t.decision.records.get c = .complete then t.makeDecision c .normal t.now else t) := rfl

/-! ### The arithmetic of the concurrency estimate -/

/-- An upper bound of a greatest value. -/
theorem foldl_max_le (l : List Nat) (a b : Nat) : l.foldl max a ≤ b ↔ a ≤ b ∧ ∀ x ∈ l, x ≤ b := by
  induction l generalizing a with
  | nil => simp
  | cons x l ih => simp [ih, and_assoc]

/-- A greatest value is one of the values, or the one it started from. -/
theorem foldl_max_mem (l : List Nat) (a : Nat) : l.foldl max a = a ∨ l.foldl max a ∈ l := by
  induction l generalizing a with
  | nil => simp
  | cons x l ih =>
    simp only [List.foldl_cons]
    rcases ih (max a x) with h | h
    · rw [h]
      rcases max_choice a x with e | e <;> simp [e]
    · right; simp [h]

end Sys2Proof.Machine
end

