-- ==== Sys2Proof/Laws/PerInstr.lean ====
section
/-! SUPPORT. Laws/PerInstr.lean: facts stated for every command, one lemma per constructor. -/

namespace Sys2Proof.Laws.KindOk

open Sys2Proof.Machine

/-- A command that stands for a request frame, and is well formed, has the kind byte of a request and a
body of a length that kind allows (R185, R186). -/
def Statement (c : Instr) : Prop :=
  c.wf = true → ∀ f, requestFrame c = some f →
    ∃ k, ReqKind.ofByte f.kind = some k ∧ k.bodyFits f.body.length = true

theorem coldReset : Statement (.coldReset) := by
  intro _ f hf
  cases hf

theorem hostFrameReceived (decoded : List Byte) : Statement (.hostFrameReceived decoded) := by
  intro _ f hf
  cases hf

theorem heldFrameTaken : Statement (.heldFrameTaken) := by
  intro _ f hf
  cases hf

theorem transmitComplete : Statement (.transmitComplete) := by
  intro _ f hf
  cases hf

theorem identify (tag : Byte) : Statement (.identify tag) := by
  intro _ f hf
  cases hf
  exact ⟨.identify, rfl, by simp [ReqKind.bodyFits, ReqKind.bodyRange, be16]⟩

theorem configureStation (tag : Byte) (record : List Byte) : Statement (.configureStation tag record) := by
  intro hw f hf
  cases hf
  simp only [Instr.wf, decide_eq_true_eq] at hw
  exact ⟨.configureStation, rfl, by simp [ReqKind.bodyFits, ReqKind.bodyRange, hw]⟩

theorem setMode (tag mode : Byte) : Statement (.setMode tag mode) := by
  intro _ f hf
  cases hf
  exact ⟨.setMode, rfl, by simp [ReqKind.bodyFits, ReqKind.bodyRange, be16]⟩

theorem programBegin (tag slot : Byte) (header : List Byte) : Statement (.programBegin tag slot header) := by
  intro hw f hf
  cases hf
  simp only [Instr.wf, decide_eq_true_eq] at hw
  exact ⟨.programBegin, rfl, by simp [ReqKind.bodyFits, ReqKind.bodyRange, hw]⟩

theorem programData (tag slot sect : Byte) (first : U16) (count : Byte) (records : List Byte) : Statement (.programData tag slot sect first count records) := by
  intro hw f hf
  cases hf
  simp only [Instr.wf, Bool.and_eq_true, decide_eq_true_eq] at hw
  refine ⟨.programData, rfl, ?_⟩
  simp [ReqKind.bodyFits, ReqKind.bodyRange, be16]
  omega

theorem programEnd (tag slot : Byte) : Statement (.programEnd tag slot) := by
  intro _ f hf
  cases hf
  exact ⟨.programEnd, rfl, by simp [ReqKind.bodyFits, ReqKind.bodyRange, be16]⟩

theorem validationComplete : Statement (.validationComplete) := by
  intro _ f hf
  cases hf

theorem programErase (tag slot : Byte) : Statement (.programErase tag slot) := by
  intro _ f hf
  cases hf
  exact ⟨.programErase, rfl, by simp [ReqKind.bodyFits, ReqKind.bodyRange, be16]⟩

theorem programStatus (tag slot : Byte) : Statement (.programStatus tag slot) := by
  intro _ f hf
  cases hf
  exact ⟨.programStatus, rfl, by simp [ReqKind.bodyFits, ReqKind.bodyRange, be16]⟩

theorem queuePanel (tag : Byte) (descriptor : List Byte) : Statement (.queuePanel tag descriptor) := by
  intro hw f hf
  cases hf
  simp only [Instr.wf, decide_eq_true_eq] at hw
  exact ⟨.queuePanel, rfl, by simp [ReqKind.bodyFits, ReqKind.bodyRange, hw]⟩

theorem cancelQueue (tag : Byte) : Statement (.cancelQueue tag) := by
  intro _ f hf
  cases hf
  exact ⟨.cancelQueue, rfl, by simp [ReqKind.bodyFits, ReqKind.bodyRange, be16]⟩

theorem panelStatus (tag context : Byte) : Statement (.panelStatus tag context) := by
  intro _ f hf
  cases hf
  exact ⟨.panelStatus, rfl, by simp [ReqKind.bodyFits, ReqKind.bodyRange, be16]⟩

theorem readVerdicts (tag context : Byte) (first count : U16) : Statement (.readVerdicts tag context first count) := by
  intro _ f hf
  cases hf
  exact ⟨.readVerdicts, rfl, by simp [ReqKind.bodyFits, ReqKind.bodyRange, be16]⟩

theorem readLog (tag segment : Byte) (first : U16) (count : Byte) : Statement (.readLog tag segment first count) := by
  intro _ f hf
  cases hf
  exact ⟨.readLog, rfl, by simp [ReqKind.bodyFits, ReqKind.bodyRange, be16]⟩

theorem releaseSegment (tag segments : Byte) : Statement (.releaseSegment tag segments) := by
  intro _ f hf
  cases hf
  exact ⟨.releaseSegment, rfl, by simp [ReqKind.bodyFits, ReqKind.bodyRange, be16]⟩

theorem readDrift (tag slot first count : Byte) : Statement (.readDrift tag slot first count) := by
  intro _ f hf
  cases hf
  exact ⟨.readDrift, rfl, by simp [ReqKind.bodyFits, ReqKind.bodyRange, be16]⟩

theorem resetDrift (tag slot first last : Byte) : Statement (.resetDrift tag slot first last) := by
  intro _ f hf
  cases hf
  exact ⟨.resetDrift, rfl, by simp [ReqKind.bodyFits, ReqKind.bodyRange, be16]⟩

theorem readRepeat (tag slot : Byte) (first count : U16) : Statement (.readRepeat tag slot first count) := by
  intro _ f hf
  cases hf
  exact ⟨.readRepeat, rfl, by simp [ReqKind.bodyFits, ReqKind.bodyRange, be16]⟩

theorem clearRepeat (tag slot : Byte) : Statement (.clearRepeat tag slot) := by
  intro _ f hf
  cases hf
  exact ⟨.clearRepeat, rfl, by simp [ReqKind.bodyFits, ReqKind.bodyRange, be16]⟩

theorem readOvenCodes (tag : Byte) : Statement (.readOvenCodes tag) := by
  intro _ f hf
  cases hf
  exact ⟨.readOvenCodes, rfl, by simp [ReqKind.bodyFits, ReqKind.bodyRange, be16]⟩

theorem setNoticeMask (tag kinds : Byte) : Statement (.setNoticeMask tag kinds) := by
  intro _ f hf
  cases hf
  exact ⟨.setNoticeMask, rfl, by simp [ReqKind.bodyFits, ReqKind.bodyRange, be16]⟩

theorem clearStop (tag : Byte) : Statement (.clearStop tag) := by
  intro _ f hf
  cases hf
  exact ⟨.clearStop, rfl, by simp [ReqKind.bodyFits, ReqKind.bodyRange, be16]⟩

theorem clearFault (tag : Byte) : Statement (.clearFault tag) := by
  intro _ f hf
  cases hf
  exact ⟨.clearFault, rfl, by simp [ReqKind.bodyFits, ReqKind.bodyRange, be16]⟩

theorem resetStation (tag : Byte) : Statement (.resetStation tag) := by
  intro _ f hf
  cases hf
  exact ⟨.resetStation, rfl, by simp [ReqKind.bodyFits, ReqKind.bodyRange, be16]⟩

theorem stationResetComplete : Statement (.stationResetComplete) := by
  intro _ f hf
  cases hf

theorem readCounters (tag : Byte) : Statement (.readCounters tag) := by
  intro _ f hf
  cases hf
  exact ⟨.readCounters, rfl, by simp [ReqKind.bodyFits, ReqKind.bodyRange, be16]⟩

theorem clearCounters (tag : Byte) : Statement (.clearCounters tag) := by
  intro _ f hf
  cases hf
  exact ⟨.clearCounters, rfl, by simp [ReqKind.bodyFits, ReqKind.bodyRange, be16]⟩

theorem measureOccRise : Statement (.measureOccRise) := by
  intro _ f hf
  cases hf

theorem measureOccFall : Statement (.measureOccFall) := by
  intro _ f hf
  cases hf

theorem exitOccRise : Statement (.exitOccRise) := by
  intro _ f hf
  cases hf

theorem exitOccFall : Statement (.exitOccFall) := by
  intro _ f hf
  cases hf

theorem downstreamReadyRise : Statement (.downstreamReadyRise) := by
  intro _ f hf
  cases hf

theorem stopFall : Statement (.stopFall) := by
  intro _ f hf
  cases hf

theorem stopRise : Statement (.stopRise) := by
  intro _ f hf
  cases hf

theorem exitTimerExpiry : Statement (.exitTimerExpiry) := by
  intro _ f hf
  cases hf

theorem taktDeadlineExpiry (ctx : CtxId) : Statement (.taktDeadlineExpiry ctx) := by
  intro _ f hf
  cases hf

theorem locateResult (port : PortId) (good : Bool) (body : List Byte) : Statement (.locateResult port good body) := by
  intro _ f hf
  cases hf

theorem locateTimerExpiry (port : PortId) : Statement (.locateTimerExpiry port) := by
  intro _ f hf
  cases hf

theorem armingComplete : Statement (.armingComplete) := by
  intro _ f hf
  cases hf

theorem headReady (port : PortId) (good : Bool) (body : List Byte) : Statement (.headReady port good body) := by
  intro _ f hf
  cases hf

theorem queryTimerExpiry (port : PortId) : Statement (.queryTimerExpiry port) := by
  intro _ f hf
  cases hf

theorem startTimerExpiry (port : PortId) : Statement (.startTimerExpiry port) := by
  intro _ f hf
  cases hf

theorem tileHeader (port : PortId) (seq : Byte) (rowBlock column : U16) : Statement (.tileHeader port seq rowBlock column) := by
  intro _ f hf
  cases hf

theorem tile (port : PortId) (good : Bool) (data : List Byte) : Statement (.tile port good data) := by
  intro _ f hf
  cases hf

theorem tileLost (port : PortId) (good : Bool) (body : List Byte) : Statement (.tileLost port good body) := by
  intro _ f hf
  cases hf

theorem scanEnd (port : PortId) (good : Bool) (body : List Byte) : Statement (.scanEnd port good body) := by
  intro _ f hf
  cases hf

theorem headUnknownFrame (port : PortId) : Statement (.headUnknownFrame port) := by
  intro _ f hf
  cases hf

theorem tileTimerExpiry (port : PortId) : Statement (.tileTimerExpiry port) := by
  intro _ f hf
  cases hf

theorem intakeComplete : Statement (.intakeComplete) := by
  intro _ f hf
  cases hf

theorem evaluationComplete : Statement (.evaluationComplete) := by
  intro _ f hf
  cases hf

theorem repeatSiteUpdate : Statement (.repeatSiteUpdate) := by
  intro _ f hf
  cases hf

theorem ovenRecognition (code : BitVec 4) : Statement (.ovenRecognition code) := by
  intro _ f hf
  cases hf

theorem ovenSample (code : BitVec 4) (ready : Bool) : Statement (.ovenSample code ready) := by
  intro _ f hf
  cases hf

theorem hostByteReceived (byte : Byte) (stopBit : Bool) : Statement (.hostByteReceived byte stopBit) := by
  intro _ f hf
  cases hf

theorem armingJointVisit : Statement (.armingJointVisit) := by
  intro _ f hf
  cases hf

end Sys2Proof.Laws.KindOk
end

