-- ==== Sys2Proof/Laws/Records.lean ====
section
/-! SUPPORT. Records.lean: what the range checks of the records accept (R4 to R8, R20), and what a SCAN_END
does to its port (R76, R77), said once for proofs to cite. -/

namespace Sys2Proof.Machine

open Sys2Proof

/-- The header that R4 accepts. -/
theorem Header.ok_iff (h : Header) : h.ok = true ↔
    h.name.length = 16 ∧ (∀ c ∈ h.name, 0x20 ≤ c.toNat ∧ c.toNat ≤ 0x7E) ∧
    (h.pitch = 10 ∨ h.pitch = 12 ∨ h.pitch = 15 ∨ h.pitch = 20) ∧ (1 ≤ h.sites ∧ h.sites ≤ 8192) ∧
    (1 ≤ h.classes ∧ h.classes ≤ 64) ∧ (1 ≤ h.components ∧ h.components ≤ 4096) ∧
    (1 ≤ h.placements ∧ h.placements ≤ 32) ∧ (1000 ≤ h.taktLimit ∧ h.taktLimit ≤ 600000) ∧
    h.unmeasuredLimit ≤ 65535 ∧ (h.repeatLimit = 0 ∨ 2 ≤ h.repeatLimit ∧ h.repeatLimit ≤ 255) ∧
    (5 ≤ h.residualLimit ∧ h.residualLimit ≤ 500) ∧ (1 ≤ h.scaleLimit ∧ h.scaleLimit ≤ 655) ∧
    (1 ≤ h.rotationLimit ∧ h.rotationLimit ≤ 1144) ∧ (1 ≤ h.slopeLimit ∧ h.slopeLimit ≤ 20971) ∧
    h.sites * h.placements ≤ 65536 := by
  have hj : ∀ n : Nat, n ≤ Config.jointsMax ↔ n ≤ 65536 := fun _ => Iff.rfl
  unfold Header.ok within pitchOk
  simp only [Bool.and_eq_true, Bool.or_eq_true, beq_iff_eq, List.all_eq_true, decide_eq_true_eq, hj,
    Nat.zero_le, true_and, and_assoc, or_assoc]

/-- The class record that R5 accepts. -/
theorem ClassRecord.ok_iff (c : ClassRecord) : c.ok = true ↔
    (1 ≤ c.vNom ∧ c.vNom ≤ 2147483647) ∧ c.volLow ≤ 998 ∧ (1 ≤ c.volHigh ∧ c.volHigh ≤ 999) ∧
    c.peakMin ≤ 2000 ∧ (1 ≤ c.tHi ∧ c.tHi ≤ 2000) ∧ (10 ≤ c.collarMargin ∧ c.collarMargin ≤ 1000) ∧
    c.collarCeiling ≤ 500 ∧ (1 ≤ c.collarMin ∧ c.collarMin ≤ 4096) ∧
    (10 ≤ c.coverageMin ∧ c.coverageMin ≤ 100) ∧
    (1 ≤ c.bridgeThreshold ∧ c.bridgeThreshold ≤ 2000) ∧ (1 ≤ c.bridgeMin ∧ c.bridgeMin ≤ 4096) ∧
    c.shiftMax ≤ 2000 ∧ c.driftLow ≤ 999 ∧ c.driftHigh ≤ 999 ∧ c.volLow < c.volHigh ∧
    c.driftLow + 4 ≤ c.driftHigh := by
  unfold ClassRecord.ok within
  simp only [Bool.and_eq_true, decide_eq_true_eq, Nat.zero_le, true_and, and_assoc]

/-- The site record that R6 accepts under a program pitch. -/
theorem Site.ok_iff (P : Nat) (t : Site) : t.ok P = true ↔
    t.component ≤ 4095 ∧ t.cls ≤ 63 ∧ (-400000 ≤ t.bu ∧ t.bu ≤ 400000) ∧
    (-400000 ≤ t.bv ∧ t.bv ≤ 400000) ∧ (P ≤ t.hx ∧ t.hx ≤ 2047) ∧ (P ≤ t.hy ∧ t.hy ≤ 2047) ∧
    ∀ g, t.gap = some g → (-400000 ≤ g.u ∧ g.u ≤ 400000) ∧ (-400000 ≤ g.v ∧ g.v ≤ 400000) ∧
      (P ≤ g.hx ∧ g.hx ≤ 2047) ∧ (P ≤ g.hy ∧ g.hy ≤ 2047) := by
  unfold Site.ok within withinI
  cases t.gap <;> simp [and_assoc]

/-- The placement record that R7 accepts. -/
theorem Placement.ok_iff (p : Placement) : p.ok = true ↔
    p.pu ≤ 600000 ∧ p.pv ≤ 600000 ∧
    ∀ m, p.mark = some m → m.u ≤ 1000000 ∧ m.v ≤ 1000000 ∧ 50 ≤ m.radius ∧ m.radius ≤ 2000 := by
  unfold Placement.ok within
  cases p.mark <;> simp [and_assoc]

/-- The fiducial record that R8 accepts. -/
theorem Fiducial.ok_iff (f : Fiducial) : f.ok = true ↔
    f.u ≤ 1000000 ∧ f.v ≤ 1000000 ∧ (50 ≤ f.radius ∧ f.radius ≤ 2000) ∧
    ∀ a, f.alternate = some a → a.1 ≤ 1000000 ∧ a.2 ≤ 1000000 := by
  unfold Fiducial.ok within
  cases f.alternate <;> simp [and_assoc]

/-- The ownership conditions of R20 over a run of ranges. -/
theorem rangesOk_iff (start stop : Nat → Nat) (n : Nat) : ∀ k : Nat,
    rangesOk ((List.range' k n).map (fun p => (⟨start p, stop p⟩ : OwnedRange))) = true ↔
      (∀ p, k ≤ p → p < k + n →
        start p % 64 = 0 ∧ stop p % 64 = 0 ∧ start p < stop p ∧ stop p ≤ 16384) ∧
      ∀ p, k ≤ p → p + 1 < k + n → stop p ≤ start (p + 1) := by
  induction n with
  | zero => intro k; simp [rangesOk]; exact ⟨fun p h1 h2 => by omega, fun p h1 h2 => by omega⟩
  | succ n ih =>
    intro k
    rw [List.range'_succ, List.map_cons]
    have step : rangesOk ((⟨start k, stop k⟩ : OwnedRange)
          :: (List.range' (k + 1) n).map (fun p => (⟨start p, stop p⟩ : OwnedRange))) = true ↔
        (start k % 64 = 0 ∧ stop k % 64 = 0 ∧ start k < stop k ∧ stop k ≤ 16384) ∧
        (0 < n → stop k ≤ start (k + 1)) ∧
        rangesOk ((List.range' (k + 1) n).map (fun p => (⟨start p, stop p⟩ : OwnedRange))) = true := by
      conv_lhs => unfold rangesOk
      cases n with
      | zero => simp; tauto
      | succ m =>
        rw [List.range'_succ, List.map_cons]
        simp only [Bool.and_eq_true, beq_iff_eq, decide_eq_true_eq, Nat.succ_pos, forall_const]
        tauto
    rw [step, ih]
    constructor
    · rintro ⟨a, b, c, d⟩
      refine ⟨fun p h1 h2 => ?_, fun p h1 h2 => ?_⟩ <;> rcases Nat.eq_or_lt_of_le h1 with rfl | e
      · exact a
      · exact c p e (by omega)
      · exact b (by omega)
      · exact d p e (by omega)
    · rintro ⟨c, d⟩
      exact ⟨c k (by omega) (by omega), fun h => d k (by omega) (by omega),
        fun p h1 h2 => c p (by omega) (by omega), fun p h1 h2 => d p (by omega) (by omega)⟩

/-- A SCAN_END taken in DONE is compared only when none has been taken and the head was not declared
silent; else it is stale (R76, R77). -/
theorem Port.takeScanEnd_done {p : Port} {r : ScanRecord} (sent : Nat) (hs : p.scan = .done)
    (hr : p.record = some r) : p.takeScanEnd sent =
      if r.endTaken = false ∧ r.silent = false then p.compareCounts sent
      else p.count (PortCounters.discarded .stale) := by
  unfold Port.takeScanEnd
  rw [if_neg (by rw [hs]; decide), hr]
  cases h1 : r.endTaken <;> cases h2 : r.silent <;> simp [hs, h1, h2]

end Sys2Proof.Machine
end

