-- ==== Sys2Proof/Laws/Verdicts.lean ====
section
/-! SUPPORT. Laws/Verdicts.lean: a write and a fill of the verdict table move joints from UNSET to one
verdict count, and every operation keeps the counts in step with the table (R109 to R111). -/

namespace Sys2Proof.Machine

/-! ### One entry -/

/-- The number of entries that satisfy a test, after one entry has been replaced. -/
theorem countP_set_of {α : Type} (p : α → Bool) (l : List α) (j : Nat) (old new : α)
    (h : l[j]? = some old) :
    (l.set j new).countP p + (if p old then 1 else 0) = l.countP p + (if p new then 1 else 0) := by
  induction l generalizing j with
  | nil => simp at h
  | cons a rest ih =>
    cases j with
    | zero =>
      simp only [List.getElem?_cons_zero, Option.some.injEq] at h
      subst h
      simp only [List.set_cons_zero, List.countP_cons]
      omega
    | succ j =>
      simp only [List.getElem?_cons_succ] at h
      have := ih j h
      simp only [List.set_cons_succ, List.countP_cons]
      omega

theorem tally_set (l : List VerdictEntry) (j : Nat) (old e : VerdictEntry) (v : Verdict)
    (h : l[j]? = some old) :
    tally v (l.set j e) + (if old.verdict = v then 1 else 0) = tally v l + (if e.verdict = v then 1 else 0) := by
  have := countP_set_of (fun e => e.verdict == v) l j old e h
  simpa [tally] using this

/-- A write keeps the counts in step with the table (R109, R110, R111). -/
theorem Context.Tallied.write {x : Context} (h : x.Tallied) (j : Nat) (e : VerdictEntry)
    (he : e.verdict ≠ .unset) : (x.write j e).Tallied := by
  unfold Context.write
  split
  · rename_i old hold
    split
    · rename_i hu
      have key := fun v => tally_set x.verdicts j old e v hold
      have hpos : 1 ≤ tally .unset x.verdicts := by
        have := key .unset
        simp only [hu, he, if_true, if_false] at this
        omega
      have k0 := key .unset
      have k1 := key .pass
      have k2 := key .bridge
      have k3 := key .openJoint
      have k4 := key .low
      have k5 := key .high
      have k6 := key .shift
      have k7 := key .unmeasured
      have k8 := key .skipped
      have a0 := h.unset
      have a1 := h.pass
      have a2 := h.bridge
      have a3 := h.openJoint
      have a4 := h.low
      have a5 := h.high
      have a6 := h.shift
      have a7 := h.unmeasured
      have a8 := h.skipped
      clear key
      constructor <;> cases hv : e.verdict <;>
        simp only [hu, hv, VerdictCounts.add, reduceCtorEq, if_true, if_false, Nat.add_zero] at k0 k1 k2 k3 k4 k5 k6 k7 k8 ⊢ <;>
        first | exact absurd hv he | omega
    · exact h
  · exact h

theorem tally_fill (cause : Cause) (l : List VerdictEntry) (v : Verdict) :
    tally v (l.map (fun e => if e.verdict = .unset then ⟨.unmeasured, some cause, FlagSet.none⟩ else e))
      = (if v = .unset then 0 else if v = .unmeasured then tally .unmeasured l + tally .unset l else tally v l) := by
  induction l with
  | nil => simp [tally]
  | cons e rest ih =>
    simp only [tally] at ih ⊢
    simp only [List.map_cons, List.countP_cons, ih]
    cases hv : e.verdict <;> cases v <;>
      simp only [hv, reduceCtorEq, if_true, if_false, beq_iff_eq, Nat.add_zero, Nat.add_assoc] <;> omega

/-- A fill keeps the counts in step with the table (R130). -/
theorem Context.Tallied.fill {x : Context} (h : x.Tallied) (cause : Cause) : (x.fill cause).Tallied := by
  have key := tally_fill cause x.verdicts
  have hn : x.verdicts.countP (fun e => e.verdict == .unset) = tally .unset x.verdicts := rfl
  unfold Context.fill
  constructor <;> simp only [key, hn, VerdictCounts.add, reduceCtorEq, if_true, if_false] <;>
    first
      | exact h.pass
      | exact h.bridge
      | exact h.openJoint
      | exact h.low
      | exact h.high
      | exact h.shift
      | exact h.skipped
      | rw [h.unmeasured]

/-- A write of every joint keeps the counts in step with the table (R59). -/
theorem Context.Tallied.writeAll {x : Context} (h : x.Tallied) (f : Nat → VerdictEntry)
    (hf : ∀ j, (f j).verdict ≠ .unset) : (x.writeAll f).Tallied := by
  unfold Context.writeAll
  exact foldl_inv Context.Tallied _ _ _ h (fun t j ht => ht.write j (f j) (hf j))

/-- The verdict an evaluation gives is never UNSET (R119). -/
theorem evaluate_verdict (e : EvalEntry) (c : ClassRecord) (P : Nat) (a : Accumulator) :
    (evaluate e c P a).verdict ≠ .unset := by
  unfold evaluate verdictOf
  dsimp only
  repeat' split
  all_goals simp

/-! ### Both contexts -/

/-- Both contexts' counts are in step with their tables. -/
def Flow.Tallied (w : Flow) : Prop := ∀ c, (w.ctxs.get c).Tallied

theorem Flow.Tallied.of_ctxs {w v : Flow} (h : v.ctxs = w.ctxs) (hw : w.Tallied) : v.Tallied := by
  intro c; rw [h]; exact hw c

/-- The context as a verdict table with its counts. -/
def Context.table (x : Context) : List VerdictEntry × Nat × VerdictCounts := (x.verdicts, x.unset, x.counts)

theorem Context.Tallied.of_table {x y : Context} (h : y.table = x.table) (hx : x.Tallied) : y.Tallied := by
  simp only [Context.table, Prod.mk.injEq] at h
  obtain ⟨h1, h2, h3⟩ := h
  exact ⟨by rw [h1, h2]; exact hx.1, by rw [h1, h3]; exact hx.2, by rw [h1, h3]; exact hx.3,
    by rw [h1, h3]; exact hx.4, by rw [h1, h3]; exact hx.5, by rw [h1, h3]; exact hx.6,
    by rw [h1, h3]; exact hx.7, by rw [h1, h3]; exact hx.8, by rw [h1, h3]; exact hx.9⟩

theorem State.modCtx_tallied (s : State) (c : CtxId) (f : Context → Context)
    (hf : ∀ x : Context, x.Tallied → (f x).Tallied) (h : s.flow.Tallied) : (s.modCtx c f).flow.Tallied := by
  intro d
  by_cases hd : d = c
  · subst hd; simpa [State.ctx] using hf _ (h d)
  · simpa [Pair.get_set_ne _ _ _ _ hd] using h d

/-- An update of a context that keeps its table keeps the counts in step. -/
theorem State.modCtx_tallied_of (s : State) (c : CtxId) (f : Context → Context)
    (hf : ∀ x : Context, (f x).table = x.table) (h : s.flow.Tallied) : (s.modCtx c f).flow.Tallied :=
  s.modCtx_tallied c f (fun x hx => hx.of_table (hf x)) h

theorem State.modFlow_tallied (s : State) (f : Flow → Flow) (hf : (f s.flow).ctxs = s.flow.ctxs)
    (h : s.flow.Tallied) : (s.modFlow f).flow.Tallied := Flow.Tallied.of_ctxs hf h

theorem State.drainTest_tallied (s : State) (h : s.flow.Tallied) : s.drainTest.flow.Tallied := by
  dsimp only [State.drainTest]
  split
  · exact h
  · exact h

theorem State.freeContext_tallied (s : State) (c : CtxId) (h : s.flow.Tallied) :
    (s.freeContext c).flow.Tallied := by
  dsimp only [State.freeContext]
  apply State.drainTest_tallied
  simp only [State.setDecision_flow, State.unpin_flow]
  exact s.modCtx_tallied_of c _ (fun _ => rfl) h

theorem State.logRecord_tallied (s : State) (c : CtxId) (r : LogRecord) (h : s.flow.Tallied) :
    (s.logRecord c r).flow.Tallied := by
  have h1 : (s.modCtx c (fun x => { x with lostLog := x.lostLog + 1 })).flow.Tallied :=
    s.modCtx_tallied_of c _ (fun _ => rfl) h
  dsimp only [State.logRecord, State.dropRecord]
  repeat' split
  all_goals first | exact h | exact h1

theorem State.driveLines_tallied (s : State) (h : s.flow.Tallied) : s.driveLines.flow.Tallied := by
  have h1 : s.releaseTest.flow.Tallied := by
    dsimp only [State.releaseTest]
    split
    · split
      · exact State.modCtx_tallied_of _ _ _ (fun _ => rfl) h
      · exact h
    · exact h
  exact h1

theorem State.driveEntry_tallied (s : State) (h : s.flow.Tallied) : s.driveEntry.flow.Tallied := h

theorem State.contextDecided_tallied (s : State) (c : CtxId) (h : s.flow.Tallied) :
    (s.contextDecided c).flow.Tallied := by
  have h1 : (s.modCtx c (fun x => { x with state := .decided, taktRunning := false })).flow.Tallied :=
    s.modCtx_tallied_of c _ (fun _ => rfl) h
  dsimp only [State.contextDecided]
  apply State.driveLines_tallied
  split
  · exact State.freeContext_tallied _ _ h1
  · exact h1

theorem State.makeDecision_tallied (s : State) (c : CtxId) (k : DecisionKind) (t : Nat)
    (h : s.flow.Tallied) : (s.makeDecision c k t).flow.Tallied := by
  dsimp only [State.makeDecision]
  apply State.contextDecided_tallied
  exact State.logRecord_tallied (s.setDecision c _) _ _ h

theorem State.reportComplete_tallied (s : State) (c : CtxId) (h : s.flow.Tallied) :
    (s.reportComplete c).flow.Tallied := by
  dsimp only [State.reportComplete]
  repeat' split
  · exact State.makeDecision_tallied _ _ _ _ h
  · exact h
  · exact h

theorem State.enterJudging_tallied (s : State) (c : CtxId) (h : s.flow.Tallied) :
    (s.enterJudging c).flow.Tallied := by
  have h1 := State.driveLines_tallied _
    (s.modCtx_tallied_of c (fun x => { x with state := .judging }) (fun _ => rfl) h)
  dsimp only [State.enterJudging]
  split
  · exact State.makeDecision_tallied _ _ _ _ h1
  · exact h1

theorem State.lateDecision_tallied (s : State) (c : CtxId) (h : s.flow.Tallied) :
    (s.lateDecision c).flow.Tallied := by
  dsimp only [State.lateDecision]
  apply State.makeDecision_tallied
  apply State.modCtx_tallied _ _ _ (fun x hx => hx.fill .late)
  have h1 := s.modCtx_tallied_of c (fun x => { x with lateFlag := true }) (fun _ => rfl) h
  split
  · simpa using h1
  · simpa using h1

theorem State.abortContext_tallied (s : State) (c : CtxId) (h : s.flow.Tallied) :
    (s.abortContext c).flow.Tallied := by
  dsimp only [State.abortContext]
  split
  · apply State.makeDecision_tallied
    apply State.modCtx_tallied _ _ _ (fun x hx => hx.fill .aborted)
    have h1 := s.scanStop.modCtx_tallied_of c (fun x => { x with abortedFlag := true }) (fun _ => rfl) h
    simpa using h1
  · exact h

theorem State.resolveMark_tallied (s : State) (c : CtxId) (n : Nat) (r : MarkReading)
    (h : s.flow.Tallied) : (s.resolveMark c n r).flow.Tallied := by
  cases r
  · exact h
  · exact h
  · exact s.modCtx_tallied_of c _ (fun _ => rfl) h

theorem State.seekPlacements_tallied (s : State) (c : CtxId) (n : Nat) (l : List Placement)
    (h : s.flow.Tallied) : (s.seekPlacements c n l).flow.Tallied := by
  induction l generalizing s n with
  | nil => exact h
  | cons p rest ih =>
    apply ih
    dsimp only [State.seekPlacement]
    repeat' split
    · exact h
    · exact h
    · exact h
    · exact State.resolveMark_tallied _ _ _ _ h

theorem alignFaultEntry_verdict (l : List (Nat × SkipCause)) (n j : Nat) :
    (alignFaultEntry l n j).verdict ≠ .unset := by
  unfold alignFaultEntry
  split <;> simp

theorem State.alignmentTest_tallied (s : State) (h : s.flow.Tallied) : s.alignmentTest.flow.Tallied := by
  dsimp only [State.alignmentTest]
  split
  · exact h
  · split
    · split
      · dsimp only [State.alignSuccess]
        simp only [State.modEngine_flow]
        exact State.modCtx_tallied_of _ _ _ (fun _ => rfl) (by simpa using h)
      · dsimp only [State.alignFault]
        have key : ∀ (t : State) (c : CtxId) (l : List (Nat × SkipCause)) (n : Nat) (k : AlignCause) (m : Nat), t.flow.Tallied →
            ((t.modCtx c (fun x => { x with alignFault := some k, skippedPlacements := m })).modCtx c
              (fun x => x.writeAll (alignFaultEntry l n))).flow.Tallied := by
          intro t c l n k m ht
          apply State.modCtx_tallied _ _ _ (fun x hx => hx.writeAll _ (alignFaultEntry_verdict l n))
          exact t.modCtx_tallied_of c _ (fun _ => rfl) ht
        split
        · apply State.makeDecision_tallied
          apply State.reportComplete_tallied
          apply key
          simpa using h
        · apply State.reportComplete_tallied
          apply key
          simpa using h
    · exact h

theorem State.beginAlignment_tallied (s : State) (c : CtxId) (h : s.flow.Tallied) :
    (s.beginAlignment c).flow.Tallied := by
  dsimp only [State.beginAlignment]
  apply State.alignmentTest_tallied
  simp only [State.startHeads_flow]
  rw [foldl_keeps (fun t => State.flow t) _ _ _
    (fun (t : State) (a : Fin 3) => State.seekOutOfField_flow t c a)]
  apply State.seekPlacements_tallied
  rw [foldl_keeps (fun t => State.flow t) _ _ _
    (fun (t : State) (a : Fin 3) => State.seekPrimary_flow t c a)]
  exact h

theorem State.resolveLocate_tallied (s : State) (p : PortId) (o : FidOutcome) (r : MarkReading)
    (h : s.flow.Tallied) : (s.resolveLocate p o r).flow.Tallied := by
  dsimp only [State.resolveLocate]
  split
  · apply State.alignmentTest_tallied
    simp only [State.startHeads_flow]
    split
    · simpa using h
    · exact State.resolveMark_tallied _ _ _ _ h
  · exact h

theorem State.locateFrame_tallied (s : State) (p : PortId) (g : Bool) (b : List Byte)
    (h : s.flow.Tallied) : (s.locateFrame p g b).flow.Tallied := by
  dsimp only [State.locateFrame]
  repeat' split
  · exact State.resolveLocate_tallied _ _ _ _ h
  · exact State.resolveLocate_tallied _ _ _ _ h
  · exact h
  · exact h

theorem State.writeOff_tallied (s : State) (c : CtxId) (j p i : Nat) (k : Cause) (h : s.flow.Tallied) :
    (s.writeOff c j p i k).flow.Tallied := by
  dsimp only [State.writeOff]
  apply State.reportComplete_tallied
  apply State.logRecord_tallied
  exact s.modCtx_tallied c _ (fun x hx => hx.write _ _ (by simp [plainEntry])) h

theorem State.writeSkipped_tallied (s : State) (c : CtxId) (j : Nat) (k : Cause) (h : s.flow.Tallied) :
    (s.writeSkipped c j k).flow.Tallied := by
  dsimp only [State.writeSkipped]
  apply State.reportComplete_tallied
  exact s.modCtx_tallied c _ (fun x hx => hx.write _ _ (by simp [plainEntry])) h

theorem State.visitJoint_tallied (s : State) (h : s.flow.Tallied) : s.visitJoint.flow.Tallied := by
  dsimp only [State.visitJoint]
  repeat' split
  · exact State.writeSkipped_tallied (s.modEngine _) _ _ _ h
  · exact State.writeOff_tallied (s.modEngine _) _ _ _ _ _ h
  · exact h
  · exact h
  · exact h
  · exact h

theorem State.visitJoints_tallied (s : State) (n : Nat) (h : s.flow.Tallied) :
    (s.visitJoints n).flow.Tallied := by
  induction n generalizing s with
  | zero => exact h
  | succ n ih => exact ih _ (State.visitJoint_tallied _ h)

theorem State.completeArming_tallied (s : State) (h : s.flow.Tallied) :
    s.completeArming.flow.Tallied := by
  dsimp only [State.completeArming]
  repeat' split
  · simp only [State.startScan_flow]
    exact State.modCtx_tallied_of _ _ _ (fun _ => rfl) (by simpa using h)
  · exact State.enterJudging_tallied (s.modEngine _) _ h
  · exact h

theorem State.openJoint_tallied (s : State) (c : CtxId) (a : ArmedJoint) (h : s.flow.Tallied) :
    (s.openJoint c a).flow.Tallied := by
  dsimp only [State.openJoint]
  split
  · exact h
  · exact State.writeOff_tallied (s.modEngine _) _ _ _ _ _ h

theorem State.openingStep_tallied (s : State) (c : CtxId) (r : Nat) (h : s.flow.Tallied) :
    (s.openingStep c r).flow.Tallied :=
  foldl_inv (fun t => (State.flow t).Tallied) _ _ _ h (fun _ _ ht => State.openJoint_tallied _ _ _ ht)

theorem State.closingTest_tallied (s : State) (h : s.flow.Tallied) : s.closingTest.flow.Tallied := by
  dsimp only [State.closingTest]
  split
  · split
    · simp only [State.takeEntry_flow, State.modEngine_flow, State.closeWhere_flow]
      exact foldl_inv (fun t => (State.flow t).Tallied) _ _ _ h
        (fun _ _ ht => State.openJoint_tallied _ _ _ ht)
    · simpa using h
  · exact h

theorem State.scanEndTest_tallied (s : State) (h : s.flow.Tallied) : s.scanEndTest.flow.Tallied := by
  dsimp only [State.scanEndTest]
  repeat' split
  · exact State.enterJudging_tallied _ _ h
  · exact h
  · exact h

theorem Context.setBits_table (x : Context) (p i k : Nat) (v : Verdict) :
    (x.setBits p i k v).table = x.table := by
  unfold Context.setBits
  repeat' split
  all_goals rfl

theorem State.completeEvaluation_tallied (s : State) (x : Evaluation) (h : s.flow.Tallied) :
    (s.completeEvaluation x).flow.Tallied := by
  dsimp only [State.completeEvaluation]
  simp only [State.takeEntry_flow]
  repeat' split
  · exact h
  · dsimp only [State.keepResult]
    simp only [State.modEvaluator_flow]
    apply State.reportComplete_tallied
    have key : ∀ (t : State) (e : EvalEntry) (r : EvalResult), t.flow.Tallied → (t.logResult e r).flow.Tallied := by
      intro t e r ht
      dsimp only [State.logResult]
      split
      · exact ht
      · exact State.logRecord_tallied _ _ _ ht
    apply key
    simp only [State.feedResult_flow]
    apply State.modCtx_tallied_of _ _ _ (fun y => Context.setBits_table y _ _ _ _)
    simp only [State.modEngine_flow]
    apply State.modCtx_tallied _ _ _ (fun y hy => hy.write _ _ (evaluate_verdict _ _ _ _))
    exact h
  · exact h

theorem State.grantUpTo_tallied (n : Nat) (s : State) (h : s.flow.Tallied) :
    (State.grantUpTo n s).flow.Tallied := by
  induction n generalizing s with
  | zero => exact h
  | succ n ih =>
    dsimp only [State.grantUpTo]
    repeat' split
    · simpa using h
    · apply ih
      dsimp only [State.releaseIntake]
      apply State.scanEndTest_tallied
      simpa using h
    · exact h

theorem State.grant_tallied (s : State) (h : s.flow.Tallied) : s.grant.flow.Tallied :=
  State.grantUpTo_tallied _ _ h

theorem State.intakeSteps_tallied (s : State) (j : Served) (p : PortId) (i : IntakeItem)
    (h : s.flow.Tallied) : (s.intakeSteps j p i).flow.Tallied := by
  dsimp only [State.intakeSteps]
  apply State.closingTest_tallied
  simp only [State.modPort_flow]
  cases i with
  | tile k => simpa [State.itemSteps] using State.openingStep_tallied _ _ _ h
  | loss r c => exact State.openingStep_tallied _ _ _ h
  | endRecord => exact h

theorem tally_replicate (n : Nat) (v : Verdict) :
    tally v (List.replicate n VerdictEntry.unset) = if v = .unset then n else 0 := by
  simp only [tally, List.countP_replicate, VerdictEntry.unset]
  cases v <;> simp

/-- A context as a panel takes it has every joint UNSET (R28, R109). -/
theorem Context.arrived_tallied (d : Descriptor) (seq joints limit now : Nat) (p : Bool) :
    (Context.arrived d seq joints limit now p).Tallied := by
  constructor <;> simp [Context.arrived, Context.freed, VerdictCounts.zero, tally_replicate]

theorem Flow.allFreed_tallied {w : Flow} (h : w.ctxs = Pair.all Context.freed) : w.Tallied := by
  intro c
  rw [h]
  have : (Pair.all Context.freed).get c = Context.freed := by fin_cases c <;> rfl
  rw [this]
  constructor <;> simp [Context.freed, VerdictCounts.zero, tally]

theorem Context.freed_tallied : Context.freed.Tallied := by
  constructor <;> simp [Context.freed, VerdictCounts.zero, tally]

theorem State.arrive_tallied (s : State) (c : CtxId) (d : Descriptor) (h : s.flow.Tallied) :
    (s.arrive c d).flow.Tallied := by
  dsimp only [State.arrive]
  apply State.beginAlignment_tallied
  simp only [State.setDecision_flow, State.modLog_flow, State.countDownHold_flow, State.modFlow_flow]
  intro e
  by_cases he : e = c
  · subst he
    simp only [Pair.get_set_self]
    exact Context.arrived_tallied _ _ _ _ _ _
  · rw [Pair.get_set_ne _ _ _ _ he]
    split
    · exact h e
    · exact h e

theorem State.removeBoard_tallied (s : State) (c : CtxId) (h : s.flow.Tallied) :
    (s.removeBoard c).flow.Tallied := by
  have h1 : ((s.modCtx c (fun x => { x with removed := true })).modFlow
      (Flow.count (fun k => { k with removed := bump k.removed 1 }))).flow.Tallied := by
    apply State.modFlow_tallied _ _ rfl
    exact s.modCtx_tallied_of c _ (fun _ => rfl) h
  dsimp only [State.removeBoard]
  repeat' split
  · exact State.abortContext_tallied _ _ h1
  · exact State.freeContext_tallied _ _ h1
  · exact h1

theorem State.enterHeld_tallied (s : State) (t : StationState) (k : StationCause) (h : s.flow.Tallied) :
    (s.enterHeld t k).flow.Tallied := by
  have h1 : (s.changeStation t k).flow.Tallied := Flow.Tallied.of_ctxs rfl h
  dsimp only [State.enterHeld, State.abortIfMeasuring]
  have key : ∀ f : Flow → Flow, (∀ w, (f w).ctxs = w.ctxs) → ((s.changeStation t k).modFlow f).flow.Tallied :=
    fun f hf => State.modFlow_tallied _ _ (hf _) h1
  repeat' split
  · exact State.abortContext_tallied _ _ (State.abortContext_tallied _ _ (key _ (fun _ => rfl)))
  · exact State.abortContext_tallied _ _ (key _ (fun _ => rfl))
  · exact State.abortContext_tallied _ _ (key _ (fun _ => rfl))
  · exact key _ (fun _ => rfl)
  · exact State.abortContext_tallied _ _ (State.abortContext_tallied _ _ (key _ (fun _ => rfl)))
  · exact State.abortContext_tallied _ _ (key _ (fun _ => rfl))
  · exact State.abortContext_tallied _ _ (key _ (fun _ => rfl))
  · exact key _ (fun _ => rfl)

end Sys2Proof.Machine
end

