-- ==== Sys2Proof/Tests/Slice0.lean ====
section
/-! SUPPORT. Tests/Slice0.lean: the checks of WellFormed refused one by one, the worked examples of the
manual, one step of each kind of command, and for every statement a state that meets its hypotheses. -/

namespace Sys2Proof.Tests

open Sys2Proof Sys2Proof.Machine

set_option maxRecDepth 20000

/-! ### Well-formedness: an ill-formed command for each check (R164, R186, R187, R189) -/

theorem test_wf_empty_frame : (Instr.hostFrameReceived []).wf = false := by decide
theorem test_wf_long_frame : (Instr.hostFrameReceived (List.replicate 1031 0)).wf = false := by
  simp only [Instr.wf, List.length_replicate, Config.frameMax]; decide
theorem test_wf_configuration : (Instr.configureStation 0 (List.replicate 37 0)).wf = false := by decide
theorem test_wf_header : (Instr.programBegin 0 0 (List.replicate 38 0)).wf = false := by decide
theorem test_wf_short_records : (Instr.programData 0 0 0 0 1 (List.replicate 18 0)).wf = false := by decide
theorem test_wf_long_records : (Instr.programData 0 0 0 0 1 (List.replicate 1020 0)).wf = false := by
  simp only [Instr.wf, List.length_replicate]; decide
theorem test_wf_descriptor : (Instr.queuePanel 0 (List.replicate 39 0)).wf = false := by decide
theorem test_wf_locateResult : (Instr.locateResult 0 true (List.replicate 14 0)).wf = false := by decide
theorem test_wf_headReady : (Instr.headReady 0 true [0]).wf = false := by decide
theorem test_wf_tile : (Instr.tile 0 true (List.replicate 511 0)).wf = false := by decide
theorem test_wf_tileLost : (Instr.tileLost 0 true [0, 0, 0]).wf = false := by decide
theorem test_wf_scanEnd : (Instr.scanEnd 0 true []).wf = false := by decide
theorem test_wf_accepts : (Instr.tileLost 3 false [0, 1, 0, 64]).wf = true := by decide

/-- No row of the table gives bits, so no word spells a command. -/
theorem test_no_word : decodeTableWord 8 0 = none := by decide

/-! ### The states the tests use -/

/-- The class of the worked evaluation (section 6.7), with a drift band of 70 to 130 (section 8.1). -/
def cls : ClassRecord := ⟨4500, 60, 140, 40, 60, 40, 30, 90, 20, 50, 4, 60, 70, 130⟩

/-- A header with the limits of the worked alignment (section 3.6). -/
def hdr : Header := ⟨List.replicate 16 0x41, 20, 1, 1, 1, 1, 10000, 0, 3, 25, 100, 300, 1000⟩

/-- The fiducials of the worked alignment. -/
def fids : List Fiducial :=
  [⟨5000, 5000, 500, none⟩, ⟨205000, 9000, 500, some (205000, 5000)⟩, ⟨5000, 205000, 500, none⟩]

/-- A program of one joint: the site of joint 37 of the worked example, in one placement. -/
def program : Slot :=
  ⟨.valid, 0, some hdr, [cls], [⟨0, 0, 85000, 25000, 100, 60, none⟩], [⟨20000, 20000, false, none⟩], fids⟩

/-- Two heads at 20 µm with the origin of the worked example; the oven codes 5 and 6 deviate. -/
def cfg : StationConfig :=
  ⟨20, 2, [⟨0, 8192⟩, ⟨8192, 16384⟩], 7340, 25210, 100, 50, 5000, 0x60, 3, some 0⟩

/-- A station in a given state with the configuration and the program in slot 0, both heads in a scan
state, and everything else as after reset. -/
def station (st : StationState) : State :=
  ((State.reset.modFlow (fun w => { w with station := st, config := some cfg })).modSlot 0
    (fun _ => program)).modPorts (fun _ => Quad.all Port.initial)

/-- A panel in a context: its state and position, one joint UNSET. -/
def panel (st : CtxState) (p : Position) : Context :=
  { Context.freed with
    state := st, position := p, seq := 7, tag := List.replicate 16 0, verdicts := [VerdictEntry.unset]
    unset := 1, taktRunning := true, deadline := 10000 }

/-- A running station with one panel, whose decision record waits. -/
def busy (st : CtxState) (p : Position) : State :=
  ((station .running).modCtx 0 (fun _ => panel st p)).setDecision 0 .waiting

/-! ### The worked examples of the manual -/

/-- The check value of the CRC (R164). -/
theorem test_crc_check_value :
    crc16 [0x31, 0x32, 0x33, 0x34, 0x35, 0x36, 0x37, 0x38, 0x39] = 0x29B1 := by decide

/-- Escaping (R164). -/
theorem test_escape : onLane [0xC5, 0x01, 0xCA] = [0xC5, 0xCA, 0x85, 0x01, 0xCA, 0x8A, 0xC5] := by decide

/-- The transform of section 3.6: A = 65,543 and B = 197. -/
theorem test_transform :
    solveTransform (5000, 5000) (205000, 5000) (12340, 30210) (212360, 30810)
      = ⟨65543, 197, 5000, 5000, 12340, 30210⟩ := by decide

/-- The mapped pad centre of section 3.6. -/
theorem test_mapping :
    (⟨65543, 197, 5000, 5000, 12340, 30210⟩ : Transform).map (105000, 45000) = (112230, 70515) := by
  decide

/-- The plane of section 3.6 and the height of it at column 5,612 and row 3,526. -/
theorem test_plane_height : (⟨315, -261, 12340, 30210, 1200⟩ : Plane).height 20 5612 3526 = 1220 := by
  decide

/-- The spans of the worked estimate (R14): three of them meet at row block 19. -/
theorem test_estimate :
    concurrencyEstimate [(10, 15), (14, 18), (18, 27), (22, 27), (19, 23), (10, 19)] = 3 := by decide

/-- The drift table of section 8.1, feed by feed. -/
theorem test_drift :
    driftFed none 70 130 125 = ⟨32000, .inside⟩ ∧
    driftFed (some ⟨32000, .inside⟩) 70 130 180 = ⟨32880, .inside⟩ ∧
    driftFed (some ⟨32880, .inside⟩) 70 130 180 = ⟨33705, .above⟩ ∧
    driftFed (some ⟨33705, .above⟩) 70 130 120 = ⟨33518, .above⟩ ∧
    driftFed (some ⟨33518, .above⟩) 70 130 100 = ⟨33023, .above⟩ ∧
    driftFed (some ⟨33023, .above⟩) 70 130 100 = ⟨32559, .inside⟩ := by decide

/-- The entry and the sums of the worked evaluation (section 6.7). -/
def entry37 : EvalEntry := ⟨0, 0, 0, 0, 0, 0, 60, 9, 5, false⟩
def sums37 : Accumulator :=
  ⟨.evaluating, some (0, 0), 60, 54, 3780, some 118, 48, 230, 120, 80, 40, 196, 0, 0⟩

/-- Section 6.7: PASS with vol_pct 87, peak 113, offset 10 and coverage 90. -/
theorem test_evaluation : evaluate entry37 cls 20 sums37
    = ⟨.pass, none, FlagSet.none, some 87, some 113, some 10, 90⟩ := by decide
/-- Case A: one sample fewer. -/
theorem test_evaluation_coverage : evaluate entry37 cls 20 { sums37 with padVal := 53 }
    = ⟨.unmeasured, some .lowCoverage, FlagSet.none, none, none, none, 88⟩ := by decide
/-- Case B: a thin reference. -/
theorem test_evaluation_reference : evaluate entry37 cls 20 { sums37 with collarVal := 19 }
    = ⟨.unmeasured, some .noReference, FlagSet.none, none, none, none, 90⟩ := by decide
/-- Case C: overfilled and bridged. -/
theorem test_evaluation_bridge :
    evaluate { entry37 with hasGap := true } { cls with vNom := 2000 } 20 { sums37 with gapHi := 6 }
      = ⟨.bridge, none, ⟨false, true, false, false, true⟩, some 195, some 113, some 10, 90⟩ := by decide
/-- Case D: the volume clamp. -/
theorem test_evaluation_clamp :
    ((evaluate entry37 { cls with vNom := 100 } 20 sums37).volPct,
      (evaluate entry37 { cls with vNom := 100 } 20 sums37).verdict) = (some 999, .high) := by decide
/-- Case E: solder off to one side. -/
theorem test_evaluation_shift :
    ((evaluate entry37 cls 20 { sums37 with padHi := 4, padSx := 3, padSy := 10 }).offset,
      (evaluate entry37 cls 20 { sums37 with padHi := 4, padSx := 3, padSy := 10 }).verdict)
      = (some 70, .shift) := by decide
/-- Cases G and H: the peak within its range and beyond it. -/
theorem test_evaluation_peak :
    ((evaluate entry37 cls 20 { sums37 with padMax := some 30000, collarSum := -50000 }).peak,
      (evaluate entry37 cls 20 { sums37 with padMax := some 30000, collarSum := -200000 }).peak)
      = (some 31250, some 32767) := by decide
/-- A pad with no solder: OPEN before LOW. -/
theorem test_evaluation_open :
    evaluate ⟨0, 0, 0, 0, 0, 0, 30, 5, 4, false⟩ cls 20
      ⟨.evaluating, none, 30, 30, -150, some 3, 0, 0, 0, 60, 50, 100, 0, 0⟩
      = ⟨.openJoint, none, ⟨true, false, true, false, false⟩, some 0, some 1, none, 100⟩ := by decide

/-! ### A state that meets the hypotheses of each statement, clause by clause -/

theorem witness_takes : State.reset.Takes ∧ (station .idle).Takes ∧ (station .running).Takes := by
  simp only [State.Takes]; decide

theorem witness_settled : State.reset.link.Settled ∧ (station .running).link.Settled :=
  ⟨fun _ => ⟨rfl, rfl, rfl⟩, fun _ => ⟨rfl, rfl, rfl⟩⟩

theorem witness_StepRunsTheFrontCommand :
    ({ State.reset with pending := [.stopRise, .stopFall] } : State).pending = .stopRise :: [.stopFall] ∧
    State.reset.pending = [] := by decide

/-- The frame with the longest body. -/
theorem witness_HostFrameRoundTrip : (⟨1, 0, List.replicate 1024 0⟩ : Frame).body.length ≤ 1024 := by
  simp

/-- A frame with the longest body, and a framer at the start of one. -/
theorem witness_FramerReassemblesTheFrame :
    (⟨1, 0, List.replicate 1024 0⟩ : Frame).body.length ≤ 1024 ∧ State.reset.link.held = none ∧
    State.reset.link.Settled ∧ State.reset.link.framer.state = .hunt :=
  ⟨by simp, rfl, fun _ => ⟨rfl, rfl, rfl⟩, rfl⟩

theorem witness_RequestIsItsFrame :
    ∃ f, requestFrame (.programData 0 0 0 0 1 (List.replicate 1019 0)) = some f ∧ f.body.length ≤ 1024 :=
  ⟨_, rfl, by simp [be16]⟩

/-- Decoded bytes that fail each check in turn, the shortest that a check can take, and a valid frame. -/
theorem witness_CompletedFrameIsChecked :
    State.reset.link.held = none ∧ ([1, 0, 0, 0, 0] : List Byte).length < 6 ∧
    be16 (crc16 (([1, 0, 0, 0, 0, 0] : List Byte).take 4)).toNat ≠ [0, 0] ∧
    (let d : List Byte := [1, 0, 0, 1] ++ be16 (crc16 [1, 0, 0, 1]).toNat
     d.length = 6 ∧ be16 (crc16 (d.take (d.length - 2))).toNat = d.drop (d.length - 2) ∧
       u16 d 2 ≠ d.length - 6) ∧
    (let d := (⟨1, 0, []⟩ : Frame).decoded
     d.length = 6 ∧ be16 (crc16 (d.take (d.length - 2))).toNat = d.drop (d.length - 2) ∧
       u16 d 2 = d.length - 6) := by decide

/-- A framer in any state with any number of bytes up to 1,030; the bytes of the clauses differ. -/
theorem witness_FramerTakesAByte (st : FramerState) (b : List Byte) :
    let s := State.reset.modLink (fun l => { l with framer := ⟨st, b, 0⟩ })
    s.link.held = none ∧ s.link.Settled ∧ s.link.framer = ⟨st, b, 0⟩ ∧
    (List.replicate 1030 (0 : Byte)).length = 1030 ∧ (0xC5 : Byte) ≠ 0xCA ∧ (0xC5 : Byte) ≠ 0x85 ∧
    (0xC5 : Byte) ≠ 0x8A :=
  ⟨rfl, fun _ => ⟨rfl, rfl, rfl⟩, rfl, by simp, by decide, by decide, by decide⟩

/-- The kind bytes of the requests (R186). -/
def requestBytes : List Byte := [0x01, 0x02, 0x03, 0x10, 0x11, 0x12, 0x13, 0x14, 0x20, 0x21, 0x22, 0x23,
  0x28, 0x29, 0x30, 0x31, 0x32, 0x33, 0x34, 0x38, 0x39, 0x3A, 0x3B, 0x3C, 0x3D]

/-- The kind bytes beside those of R186 are no request's, and no row of the table holds 0x04. -/
theorem test_requestKinds :
    [0x00, 0x04, 0x0F, 0x15, 0x1F, 0x24, 0x27, 0x2A, 0x2F, 0x35, 0x37, 0x3E, 0x40, 0x81].map
      ReqKind.ofByte = List.replicate 14 none := by decide

/-- A kind byte that is no request's; bodies one byte too long and one too short; and bodies of the least
and the greatest length. -/
theorem witness_RequestIsTaken :
    State.reset.Takes ∧
    (∀ b ∈ requestBytes, b ≠ 0x04) ∧
    ReqKind.ofByte 0x01 = some .identify ∧ ReqKind.ofByte 0x11 = some .programData ∧
    (0 : Nat) < (⟨0x01, 0, [0]⟩ : Frame).body.length ∧
    (⟨0x11, 0, List.replicate 23 0⟩ : Frame).body.length < 24 ∧
    24 ≤ (⟨0x11, 0, List.replicate 24 0⟩ : Frame).body.length ∧
    (⟨0x11, 0, List.replicate 1024 0⟩ : Frame).body.length ≤ 1024 := by
  simp only [State.Takes, List.length_replicate]; decide

/-- A link with a request in service and n answers waiting. -/
def serving (n : Nat) (h : Option Frame) : Link :=
  { Link.initial with
    inService := some (0x12, 9), refusals := List.replicate n ⟨0x81, 0, .busy⟩, held := h
    sending := some (.notice ⟨.stationState .idle .offline .configured, 1⟩), framer := ⟨.frame, [1], 1028⟩ }

theorem witness_RefusedWhileInService :
    (serving 3 none).inService = some (0x12, 9) ∧ (serving 3 none).held = none ∧
    (serving 3 none).refusals.length < 4 ∧ (0x04 : Byte) ∉ requestBytes ∧ 0x01 ∈ requestBytes ∧
    4 ≤ (serving 4 none).refusals.length ∧
    (let l := serving 3 (some ⟨1, 0, []⟩)
     l.held ≠ none ∧ l.framer.state = .frame ∧ l.framer.count < 1030 ∧ l.refusals.length < 4) ∧
    (serving 4 (some ⟨1, 0, []⟩)).inService ≠ none ∧
    4 ≤ (serving 4 (some ⟨1, 0, []⟩)).refusals.length := by decide

theorem witness_RefusedWhileInService_settled (n : Nat) (h : Option Frame) : (serving n h).Settled := by
  intro h'; cases h'

/-- A framer in any state with any number of bytes stored and counted, while a frame is held, and without
one when some were counted. -/
theorem witness_RefusedWhileInService_bytes (st : FramerState) (b : List Byte) (u : Nat) (f : Frame) :
    let s := State.reset.modLink (fun _ => { serving 4 (some f) with framer := ⟨st, b, u⟩ })
    let v := State.reset.modLink (fun _ => { serving 3 none with framer := ⟨st, b, u + 1⟩ })
    s.link.Settled ∧ s.link.framer = ⟨st, b, u⟩ ∧ (s.link.held ≠ none ∨ 0 < u) ∧
    v.link.Settled ∧ v.link.framer = ⟨st, b, u + 1⟩ ∧ (v.link.held ≠ none ∨ 0 < u + 1) ∧
    ([1] : List Byte).length + 1028 < 1030 ∧ ([1] : List Byte).length + 1029 = 1030 ∧
    ([] : List Byte).length + 0 = 0 := by
  intro s v
  refine ⟨?_, rfl, ?_, ?_, rfl, ?_, ?_⟩
  · intro h; cases h
  · exact Or.inl (fun h => by cases h)
  · intro h; cases h
  · exact Or.inr (Nat.succ_pos u)
  · decide

/-- R168: while a frame is held, the closing delimiter of a frame of which two bytes were counted discards
it and counts an overrun; a byte past 1,030 is a format error. -/
theorem test_heldFramer :
    let l := serving 4 (some ⟨1, 0, []⟩)
    Framer.take l.held.isSome 0xC5 true ⟨.frame, [], 2⟩ = (⟨.frame, [], 0⟩, .complete [] 2) ∧
    Framer.take l.held.isSome 0x07 true ⟨.frame, [], 1030⟩ = (⟨.hunt, [], 0⟩, .formatError) ∧
    Framer.take l.held.isSome 0x85 true ⟨.escape, [], 2⟩ = (⟨.frame, [], 3⟩, .none) := by decide

/-- A transmitter at work with each kind of thing waiting, with nothing waiting, and one that is idle. -/
theorem witness_TransmitterChooses :
    (serving 1 none).sending ≠ none ∧
    ({ serving 1 none with replySlot := some ⟨0x81, 0, []⟩ } : Link).replySlot = some ⟨0x81, 0, []⟩ ∧
    (serving 1 none).replySlot = none ∧ (serving 1 none).refusals = [⟨0x81, 0, .busy⟩] ∧
    (serving 0 none).refusals = [] ∧ (serving 0 none).notices = [] ∧
    ({ serving 0 none with
      notices := [⟨.stationState .idle .offline .configured, 1⟩] } : Link).notices ≠ [] ∧
    State.reset.link.sending = none := by decide

/-- A request of each kind that a state refuses. -/
theorem witness_UnavailableRequestIsRefused :
    (station .running).Unavailable (.configureStation 0 (List.replicate 38 0)) ∧
    State.reset.Unavailable (.setMode 0 0) ∧
    State.reset.Unavailable (.programBegin 0 3 (List.replicate 37 0)) ∧
    State.reset.Unavailable (.programData 0 3 0 0 1 (List.replicate 19 0)) ∧
    State.reset.Unavailable (.programEnd 0 3) ∧ State.reset.Unavailable (.queuePanel 0 (List.replicate 38 0)) ∧
    State.reset.Unavailable (.cancelQueue 0) ∧ State.reset.Unavailable (.readVerdicts 0 1 0 256) ∧
    State.reset.Unavailable (.readLog 0 3 0 32) ∧ State.reset.Unavailable (.clearStop 0) ∧
    State.reset.Unavailable (.clearFault 0) := by
  refine ⟨⟨rfl, .inl rfl⟩, .inl rfl, ⟨by decide, rfl, rfl⟩, ⟨by decide, by decide, by decide, rfl⟩,
    ⟨by decide, rfl⟩, ⟨rfl, rfl⟩, rfl, ⟨1, by decide, by decide, by decide, rfl⟩,
    ⟨3, by decide, by decide, by decide, by decide⟩, .inl (by decide),
    show State.reset.flow.station ≠ .fault by decide⟩

/-- A notice of kind 7 as a raise carries it. -/
def told : NoticeData := .stationState .idle .offline .configured

/-- A queue with its last place free, a full queue, a masked kind, and a pending notice. -/
theorem witness_NoticeIsRaised :
    let full (n : Nat) : Link := { Link.initial with notices := List.replicate n ⟨told, 1⟩ }
    (full 15).masked told.kind = false ∧ (full 15).notices.length < 16 ∧
    mapGet told.kind (full 15).pending = none ∧ 16 ≤ (full 16).notices.length ∧
    ({ Link.initial with mask := 0x80 } : Link).masked told.kind = true ∧
    mapGet told.kind [(7, (⟨told, 65535⟩ : Notice))] = some ⟨told, 65535⟩ := by decide

/-- R172, R188: a HEAD_FAULT notice of head 1 with cause SILENT, panel 7, progress mark 879 and link state
ANSWERING, standing for 300 occurrences. -/
theorem test_noticeFrame : (Sending.notice ⟨.headFault 1 .silent 7 (some 879) .answering, 300⟩).frame
    = ⟨0x40, 0, [6, 1, 44, 1, 1, 7, 3, 111, 2]⟩ := by decide

theorem witness_NoticeMaskIsSet :
    State.reset.Takes ∧ (List.replicate 16 (⟨told, 1⟩ : Notice)).length ≤ 16 := by
  simp only [State.Takes]; decide

theorem witness_LinkOk : State.reset.link.Ok where
  notices := by decide
  refusals := by decide
  framer := by decide
  pending := ⟨by decide, by decide, by decide⟩
  drained := .inr (fun _ _ => rfl)
  settled := fun _ => ⟨rfl, rfl, rfl⟩

theorem witness_LinkStaysSound : State.reset.link.Ok ∧ ∃ t, step State.reset = .next t :=
  ⟨witness_LinkOk, _, rfl⟩

theorem witness_LinesFollow : State.reset.LinesFollow ∧ State.reset.PhasesOk := by
  have still : ¬ (State.reset.flow.station = .running ∨ State.reset.flow.station = .draining) := by decide
  exact ⟨⟨⟨fun h => absurd h (by decide), fun h => absurd h.running (by decide)⟩,
    ⟨fun h => absurd h (by decide), fun h => absurd h.moving still⟩,
    ⟨fun h => absurd h (by decide), fun h => absurd h.2 still⟩, rfl⟩,
    ⟨fun _ h => (nomatch h), fun h => (nomatch h)⟩⟩

theorem witness_LinesFollowTheirTerms :
    State.reset.LinesFollow ∧ State.reset.PhasesOk ∧ ∃ t, step State.reset = .next t :=
  ⟨witness_LinesFollow.1, witness_LinesFollow.2, _, rfl⟩

theorem witness_IdentifyReportsItsValues : State.reset.Takes := witness_takes.1

theorem witness_CountersAreReadAndCleared : State.reset.Takes := witness_takes.1

theorem witness_SlotStatusIsReported :
    State.reset.Takes ∧ 3 < (4 : Byte).toNat ∧ (3 : Byte).toNat = (3 : SlotId).val ∧
    ((station .idle).slots.get 3).state = .empty ∧ ((station .idle).slots.get 0).state ≠ .empty ∧
    ((station .idle).slots.get 0).header = some hdr := by simp only [State.Takes]; decide

theorem witness_PanelStatusIsReported :
    (busy .aligning .measure).link.inService = none ∧ 1 < (2 : Byte).toNat ∧
    (1 : Byte).toNat = (1 : CtxId).val ∧ ((busy .aligning .measure).ctx 1).state = .free ∧
    ((busy .aligning .measure).ctx 0).state ≠ .free := by decide

/-- Both ends of the count, a FREE context, and a run that ends at the table's end or one past it. -/
theorem witness_VerdictsAreRead :
    let s := busy .aligning .measure
    s.Takes ∧ 1 < (2 : Byte).toNat ∧ (0 : U16).toNat < 1 ∧ 256 < (257 : U16).toNat ∧
    1 ≤ (1 : U16).toNat ∧ (256 : U16).toNat ≤ 256 ∧ (s.ctx 1).state = .free ∧ (s.ctx 0).state ≠ .free ∧
    (s.ctx 0).verdicts.length < (1 : U16).toNat + (1 : U16).toNat ∧
    (0 : U16).toNat + (1 : U16).toNat ≤ (s.ctx 0).verdicts.length := by simp only [State.Takes]; decide

/-- A defect record, and a log whose segment 0 holds it in a given state. -/
def defect : DefectRecord := ⟨7, 0, 0, .unmeasured, some .late, FlagSet.none, none, none, none, none⟩
def logWith (st : SegState) : State :=
  State.reset.modLog (fun g => { g with segments := g.segments.set 0 ⟨st, [.defect defect]⟩ })

theorem witness_LogIsRead :
    (logWith .ready).Takes ∧ 3 < (4 : Byte).toNat ∧ (0 : Byte).toNat < 1 ∧ 32 < (33 : Byte).toNat ∧
    (3 : Byte).toNat = (3 : SegId).val ∧ (32 : Byte).toNat ≤ 32 ∧
    ((logWith .ready).log.segments.get 3).state ≠ .ready ∧
    ((logWith .ready).log.segments.get 0).state = .ready ∧
    ((logWith .ready).log.segments.get 0).records.length < (1 : U16).toNat + (1 : Byte).toNat ∧
    (0 : U16).toNat + (1 : Byte).toNat ≤ ((logWith .ready).log.segments.get 0).records.length ∧
    (List.replicate 16 (0 : Byte)).length = 16 := by
  simp only [State.Takes]; decide

/-- R188: the 16 bytes of the defect record of panel 7, placement 1, site 258, verdict LOW, with vol_pct 52,
peak −2, no offset and coverage 90. -/
theorem test_defectBytes :
    (LogRecord.defect ⟨7, 1, 258, .low, none, { FlagSet.none with low := true }, some 52, some (-2), none,
      some 90⟩).bytes = [1, 0x16, 7, 1, 1, 2, 4, 0, 1, 0, 52, 255, 254, 0, 0, 90] := by decide

theorem witness_SegmentsAreReleased :
    (logWith .ready).Takes ∧ 15 < (16 : Byte).toNat ∧ (15 : Byte).toNat ≤ 15 ∧
    (15 : Byte).getLsbD (0 : SegId).val = true ∧ ((logWith .ready).log.segments.get 0).state = .ready ∧
    ((logWith .filling).log.segments.get 0).state ≠ .ready := by simp only [State.Takes]; decide

theorem witness_DriftIsReadAndReset :
    (station .idle).Takes ∧ (station .idle).flow.station ≠ .offline ∧ 3 < (4 : Byte).toNat ∧
    64 < (65 : Byte).toNat ∧ 64 < (64 : Byte).toNat + (1 : Byte).toNat ∧
    (63 : Byte).toNat + (1 : Byte).toNat ≤ 64 ∧ (0 : Byte).toNat + (64 : Byte).toNat ≤ 64 ∧
    63 < (64 : Byte).toNat ∧ (62 : Byte).toNat < (63 : Byte).toNat ∧ (63 : Byte).toNat ≤ 63 ∧
    (63 : Byte).toNat ≤ (63 : Byte).toNat := by simp only [State.Takes]; decide

/-- A repeat request of slot 1, being worked at its last site. -/
def request1 : RepeatRequest := ⟨1, 4, 3, 33, [0, 3], [1]⟩
def working (n : Nat) : State :=
  (station .idle).modMonitor (fun m => { m with work := some ⟨request1, n⟩, requests := [request1] })

theorem witness_RepeatCountersAreReadAndCleared :
    (working 3).Takes ∧ (working 3).flow.station ≠ .offline ∧ 3 < (4 : Byte).toNat ∧
    256 < (257 : U16).toNat ∧ 8192 < (8192 : U16).toNat + (1 : U16).toNat ∧
    (8191 : U16).toNat + (1 : U16).toNat ≤ 8192 ∧ (7936 : U16).toNat + (256 : U16).toNat ≤ 8192 ∧
    (working 3).monitor.work = some ⟨request1, 3⟩ ∧ request1.slot = 1 ∧ request1.slot ≠ 0 ∧
    (station .idle).monitor.work = none := by simp only [State.Takes]; decide

theorem witness_OvenCodesAreRead : State.reset.Takes := witness_takes.1

/-- Limits of R4: 65,536 joints are accepted and more are not; a repeat limit of 0, 2 or 255 and not 1; and
the ranges of the other fields at and past an end. -/
theorem test_headerRanges :
    ({ hdr with sites := 8192, placements := 8 } : Header).ok = true ∧
    ({ hdr with sites := 8192, placements := 9 } : Header).ok = false ∧
    [0, 1, 2, 255, 256].map (fun n => ({ hdr with repeatLimit := n } : Header).ok)
      = [true, false, true, true, false] ∧
    [999, 1000, 600000, 600001].map (fun n => ({ hdr with taktLimit := n } : Header).ok)
      = [false, true, true, false] ∧
    [1143, 1144, 1145].map (fun n => ({ hdr with rotationLimit := n } : Header).ok)
      = [true, true, false] := by decide

/-- The header of the worked program, each field in the range of R4, and one whose name is not. -/
theorem witness_ProgramIsBegun_header :
    let b := hdr.bytes
    b.length = 37 ∧ (∀ i, i < 16 → 0x20 ≤ u8 b i ∧ u8 b i ≤ 0x7E) ∧ u8 b 16 = 20 ∧
    (1 ≤ u16 b 17 ∧ u16 b 17 ≤ 8192) ∧ (1 ≤ u8 b 19 ∧ u8 b 19 ≤ 64) ∧
    (1 ≤ u16 b 20 ∧ u16 b 20 ≤ 4096) ∧ (1 ≤ u8 b 22 ∧ u8 b 22 ≤ 32) ∧
    (1000 ≤ u24 b 23 ∧ u24 b 23 ≤ 600000) ∧ 2 ≤ u8 b 28 ∧ (5 ≤ u16 b 29 ∧ u16 b 29 ≤ 500) ∧
    (1 ≤ u16 b 31 ∧ u16 b 31 ≤ 655) ∧ (1 ≤ u16 b 33 ∧ u16 b 33 ≤ 1144) ∧
    (1 ≤ u16 b 35 ∧ u16 b 35 ≤ 20971) ∧ u16 b 17 * u8 b 22 ≤ 65536 ∧
    ¬ 0x20 ≤ u8 (List.replicate 37 0) 0 := by decide

/-- A header that passes and one that fails, a pinned slot, and another slot loading. -/
theorem witness_ProgramIsBegun :
    (station .idle).Takes ∧ 3 < (4 : Byte).toNat ∧
    State.reset.flow.station = .offline ∧ (station .idle).flow.station ≠ .offline ∧
    (((station .idle).pin 0).slots.get 0).pins ≠ 0 ∧ ((station .idle).slots.get 0).pins = 0 ∧
    (((station .idle).modSlot 3 (fun x => { x with state := .loading })).slots.get 3).state = .loading ∧
    ∀ j : SlotId, j ≠ 0 → ((station .idle).slots.get j).state ≠ .loading ∧
      ((station .idle).slots.get j).state ≠ .validating := by simp only [State.Takes]; decide

/-- A station whose slot 0 loads, with no record yet. -/
def loading : State :=
  (station .idle).modSlot 0 (fun x => { x with state := .loading, classes := [] })

/-- Class records, one more than the header asks for, exactly as many, and a wrong first index. -/
theorem witness_RecordsAreAppended :
    loading.Takes ∧ loading.flow.station ≠ .offline ∧ 3 < (4 : Byte).toNat ∧
    (loading.slots.get 3).state ≠ .loading ∧ (loading.slots.get 0).state = .loading ∧
    (loading.slots.get 0).header = some hdr ∧ 3 < (4 : Byte).toNat ∧
    ((0 : Byte).toNat, 29) ∈ [(0, 29), (1, 28), (2, 20), (3, 19)] ∧ (0 : Byte).toNat < 1 ∧ 32 < (33 : Byte).toNat ∧
    (List.replicate 29 (0 : Byte)).length = (1 : Byte).toNat * 29 ∧ 19 ≤ 29 ∧
    (1 : U16).toNat ≠ (loading.slots.get 0).fill 0 ∧ (0 : U16).toNat = (loading.slots.get 0).fill 0 ∧
    (List.replicate 58 (0 : Byte)).length = (2 : Byte).toNat * 29 ∧
    hdr.required 0 < (0 : U16).toNat + (2 : Byte).toNat ∧
    (0 : U16).toNat + (1 : Byte).toNat ≤ hdr.required 0 := by simp only [State.Takes]; decide

/-- The four records of the worked program as R187 lays them out, each appended by its section. -/
theorem test_recordLayouts :
    let x : Slot := ⟨.loading, 0, some hdr, [], [], [], []⟩
    let c : List Byte := be32 4500 ++ be16 60 ++ be16 140 ++ be16 40 ++ be16 60 ++ be16 40 ++ be16 30 ++ [90]
      ++ be16 20 ++ be16 50 ++ be16 4 ++ be16 60 ++ be16 70 ++ be16 130
    let t : List Byte := [1, 0, 3, 2, 255, 255, 255, 251, 0, 6, 26, 128, 0, 20, 7, 255, 0, 0, 0, 1,
      255, 255, 255, 254, 0, 30, 0, 40]
    let p : List Byte := [1] ++ be32 20000 ++ be32 600000 ++ [1] ++ be32 1000000 ++ be32 9 ++ be16 50
    let f : List Byte := [1] ++ be32 205000 ++ be32 9000 ++ be16 500 ++ be32 205000 ++ be32 5000
    x.append hdr 0 c = some { x with classes := [cls] } ∧
    x.append hdr 1 t = some { x with sites := [⟨3, 2, -5, 400000, 20, 2047, some ⟨1, -2, 30, 40⟩⟩] } ∧
    x.append hdr 2 p = some { x with placements := [⟨20000, 600000, true, some ⟨1000000, 9, 50⟩⟩] } ∧
    x.append hdr 3 f = some { x with fiducials := [⟨205000, 9000, 500, some (205000, 5000)⟩] } := by
  refine ⟨by decide, ?_, by decide, by decide⟩
  simp [Slot.append, Site.ofBytes, Site.ok, within, withinI, u8, u16, u32, i32, signed, hdr]

/-- A record of each section that fails: a volume low of 0 with a volume high of 0, a half-size below the
pitch, an orientation of 2, and a presence byte of 2. -/
theorem test_recordRanges :
    let x : Slot := ⟨.loading, 0, some hdr, [], [], [], []⟩
    x.append hdr 0 (List.replicate 29 0) = none ∧ x.append hdr 1 (List.replicate 28 0) = none ∧
    x.append hdr 2 (List.replicate 9 0 ++ [2] ++ List.replicate 10 0) = none ∧
    x.append hdr 2 (List.replicate 20 0) = some { x with placements := [⟨0, 0, false, none⟩] } ∧
    x.append hdr 3 (2 :: List.replicate 8 0 ++ be16 50 ++ List.replicate 8 0) = none ∧
    x.append hdr 3 (0 :: List.replicate 8 0 ++ be16 50 ++ List.replicate 8 0)
      = some { x with fiducials := [⟨0, 0, 50, none⟩] } := by decide

/-- A PROGRAM_END in service for slot 0, whose program is as given. -/
def validating (x : Slot) : State :=
  ((station .idle).modSlot 0 (fun _ => { x with state := .validating })).modLink
    (fun l => { l with inService := some (0x12, 5) })

theorem witness_ProgramIsEndedAndValidated :
    loading.Takes ∧ 3 < (4 : Byte).toNat ∧ State.reset.flow.station = .offline ∧
    (loading.slots.get 0).state = .loading ∧ ((validating program).slots.get 0).state = .validating ∧
    (∀ j, j < (0 : SlotId) → ((validating program).slots.get j).state ≠ .validating) ∧
    ((validating program).slots.get 0).header = some hdr ∧
    (validating program).link.inService = some (0x12, 5) ∧
    validateSlot hdr ((validating program).slots.get 0) = .passed 1 ∧
    validateSlot hdr ((validating { program with sites := [] }).slots.get 0) = .failed 1 1 ∧
    ∀ k, (State.reset.slots.get k).state ≠ .validating := by simp only [State.Takes]; decide

theorem witness_ProgramIsEndedAndValidated_settled : loading.link.Settled := fun _ => ⟨rfl, rfl, rfl⟩

/-- A program with its first section short, one whose site names the class or the component after the
last, one with its first three fiducials on a line and one with a short baseline. -/
theorem witness_ValidationFindsTheFirstFailure :
    ({ program with classes := [] } : Slot).fill 0 ≠ hdr.required 0 ∧
    (∀ k, k < 4 → program.fill k = hdr.required k) ∧
    hdr.classes ≤ (1 : Nat) ∧ (0 : Nat) < hdr.classes ∧ hdr.components ≤ (1 : Nat) ∧
    program.sites = [⟨0, 0, 85000, 25000, 100, 60, none⟩] ∧
    (((5000 : Int) - 0) * (10000 - 0) - (10000 - 0) * (5000 - 0)).natAbs < 10000000000 ∧
    10000000000 ≤ (((19999 : Int) - 0) * (600000 - 0) - (0 - 0) * (0 - 0)).natAbs ∧
    ((19999 : Int) - 0) ^ 2 + (0 - 0) ^ 2 < 400000000 := by decide

/-- The worked fiducials pass every combination, so a program of them gets as far as the estimate. -/
theorem witness_ValidationFindsTheFirstFailure_far :
    validateSlot hdr program = .passed 1 ∧ concurrencyEstimate (nominalSpans hdr program) ≤ 896 := by decide

theorem foldl_max_replicate (n a : Nat) : (List.replicate (n + 1) a).foldl max 0 = a := by
  induction n with
  | zero => simp
  | succ n ih =>
    rw [List.replicate_succ', List.foldl_append, ih]; simp

/-- A program of 897 joints in one row block has the estimate 897. -/
theorem witness_ValidationFindsTheFirstFailure_crowded :
    896 < concurrencyEstimate (nominalSpans hdr
      { program with sites := List.replicate 897 ⟨0, 0, 0, 0, 20, 20, none⟩ }) := by
  have h : nominalSpans hdr { program with sites := List.replicate 897 ⟨0, 0, 0, 0, 20, 20, none⟩ }
      = List.replicate 897 (nominalSpan hdr [cls] ⟨20000, 20000, false, none⟩
          ⟨0, 0, 0, 0, 20, 20, none⟩) := by simp [nominalSpans, program]
  have hs : nominalSpan hdr [cls] ⟨20000, 20000, false, none⟩ ⟨0, 0, 0, 0, 20, 20, none⟩ = (249, 250) := by
    decide
  rw [h, hs, concurrencyEstimate, List.map_replicate, foldl_max_replicate]
  simp [spansAt, List.countP_replicate]

theorem witness_EstimateIsTheGreatestCount : ([(10, 15)] : List (Int × Int)) ≠ [] ∧ (0 : Int) < 4 ∧
    ∀ t ∈ program.sites, program.classes[t.cls]? = some cls := by decide

/-- R14, steps 1 to 5: the pad centre at v = 45,000 with half-size 60 and margin 40 at 20 µm covers rows 2,245
to 2,255, which is row blocks 561 to 563; turned, it lies at v = −5,000. -/
theorem test_nominalSpans :
    nominalSpans hdr program = [(561, 563)] ∧
    nominalSpans hdr { program with placements := [⟨20000, 20000, true, none⟩] } = [(-64, -62)] := by
  decide

theorem witness_ProgramIsErased :
    (station .idle).Takes ∧ 3 < (4 : Byte).toNat ∧ State.reset.flow.station = .offline ∧
    (station .idle).flow.station ≠ .offline ∧ (((station .idle).pin 3).slots.get 3).pins ≠ 0 ∧
    ((station .idle).slots.get 3).pins = 0 := by simp only [State.Takes]; decide

/-- The configuration of the worked example as R187 lays it out. -/
def record : List Byte :=
  [20, 2] ++ be16 0 ++ be16 8192 ++ be16 8192 ++ be16 16384 ++ List.replicate 8 0 ++ be32 7340 ++ be32 25210
    ++ be16 100 ++ be16 50 ++ be32 5000 ++ [0, 0x60, 3, 0]

/-- The record read field by field (R187), and the default slot at the ends of what R20 takes. -/
theorem test_configurationLayout :
    StationConfig.ofBytes record = some cfg ∧
    (StationConfig.ofBytes (record.take 37 ++ [255])).map StationConfig.defaultSlot = some none ∧
    StationConfig.ofBytes (record.take 37 ++ [4]) = none ∧
    StationConfig.ofBytes (record.take 37 ++ [254]) = none ∧
    StationConfig.ofBytes (List.replicate 38 0) = none := by decide

theorem witness_StationIsConfigured :
    State.reset.Takes ∧ record.length = 38 ∧ (u8 record 0 = 20 ∧ u8 record 1 = 2 ∧
      (∀ p, p < 2 → u16 record (2 + 4 * p) % 64 = 0 ∧ u16 record (4 + 4 * p) % 64 = 0 ∧
        u16 record (2 + 4 * p) < u16 record (4 + 4 * p) ∧ u16 record (4 + 4 * p) ≤ 16384) ∧
      u16 record 4 ≤ u16 record 6 ∧ u32 record 18 ≤ 327680 ∧ u32 record 22 ≤ 327680 ∧
      (5 ≤ u16 record 26 ∧ u16 record 26 ≤ 500) ∧ (10 ≤ u16 record 28 ∧ u16 record 28 ≤ 1000) ∧
      (2000 ≤ u32 record 30 ∧ u32 record 30 ≤ 120000) ∧ u8 record 37 < 4) ∧
    u8 (List.replicate 38 0) 0 = 0 ∧ (station .running).flow.station = .running ∧
    (station .idle).flow.station = .idle ∧ (∀ c, ((station .idle).ctx c).state = .free) ∧
    (station .idle).flow.queue = [] ∧ State.reset.flow.station = .offline := by
  simp only [State.Takes]; decide

theorem witness_ModeIsSet :
    (station .idle).Takes ∧ 1 < (2 : Byte).toNat ∧ (station .idle).flow.station = .idle ∧
    (station .running).flow.station = .running ∧ ((busy .aligning .measure).ctx 0).state ≠ .free ∧
    (busy .aligning .measure).flow.station = .running ∧ (∀ c, ((station .running).ctx c).state = .free) ∧
    (station .draining).flow.station = .draining := by simp only [State.Takes]; decide

/-- A descriptor of slot 0 without a region, one whose region is a point and one whose region is inverted. -/
def described (presence : Byte) (u0 u1 : Nat) : List Byte :=
  [presence, 0] ++ List.replicate 16 0 ++ be32 u0 ++ be32 0 ++ be32 u1 ++ be32 0 ++ be32 0

theorem witness_PanelIsQueuedOrCancelled :
    (station .idle).Takes ∧ (station .idle).flow.station ≠ .offline ∧ (described 0 0 0).length = 38 ∧
    3 < u8 (described 4 0 0) 0 ∧ u8 (described 3 5 5) 1 = (0 : SlotId).val ∧ u8 (described 3 5 5) 0 = 3 ∧
    (∀ i, i < 4 → ¬ 1000000 < u32 (described 3 5 5) (18 + 4 * i)) ∧
    1000000 < u32 (described 1 0 1000001) (18 + 4 * 2) ∧
    Descriptor.ofBytes (described 4 0 0) = none ∧ Descriptor.ofBytes (described 1 0 1000001) = none ∧
    Descriptor.ofBytes (described 0 0 0) = some ⟨0, List.replicate 16 0, none, none⟩ ∧
    Descriptor.ofBytes (described 1 5 5) = some ⟨0, List.replicate 16 0, some ⟨5, 0, 5, 0⟩, none⟩ ∧
    Descriptor.ofBytes (described 1 5 4) = some ⟨0, List.replicate 16 0, some ⟨5, 0, 4, 0⟩, none⟩ ∧
    (station .idle).flow.queue.length < 4 ∧ (State.reset.slots.get 0).state ≠ .valid ∧
    ((station .idle).slots.get 0).state = .valid ∧ ((station .idle).slots.get 0).header = some hdr ∧
    hdr.pitch = (station .idle).flow.pitch ∧ hdr.pitch ≠ State.reset.flow.pitch ∧
    4 ≤ (List.replicate 4 (⟨0, [], none, none⟩ : Descriptor)).length := by simp only [State.Takes]; decide

theorem witness_HoldIsCleared :
    (station .stopped).Takes ∧ (station .stopped).flow.station = .stopped ∧
    (station .stopped).pins.stop = false ∧ (station .fault).Takes ∧ (station .fault).flow.station = .fault ∧
    (∀ c, ((station .fault).ctx c).state ≠ .releasing) ∧
    (((station .fault).modCtx 1 (fun _ => panel .releasing .exit)).ctx 1).state = .releasing ∧
    ∀ d, d < (1 : CtxId) →
      (((station .fault).modCtx 1 (fun _ => panel .releasing .exit)).ctx d).state ≠ .releasing := by
  simp only [State.Takes]; decide

/-- A running station with its default slot usable and both contexts FREE meets the terms of R29. -/
theorem witness_EntryTerms : (station .running).EntryTerms where
  running := rfl
  free := ⟨0, rfl⟩
  measure := by decide
  untracked := rfl
  panel := .inr ⟨cfg, 0, hdr, rfl, rfl, rfl, rfl, rfl⟩

theorem witness_BoardArrives :
    (station .running).EntryTerms ∧ ((station .running).ctx 0).state = .free ∧
    (∀ b, b < (0 : CtxId) → ((station .running).ctx b).state ≠ .free) ∧
    (station .running).flow.queue = [] ∧ (station .running).flow.config = some cfg ∧
    cfg.defaultSlot = some 0 ∧ ((station .running).slots.get 0).header = some hdr ∧
    ¬ State.reset.EntryTerms :=
  ⟨witness_EntryTerms, rfl, by decide, rfl, rfl, rfl, rfl, fun h => absurd h.running (by decide)⟩

/-- The head of a queue takes the place of the default slot. -/
theorem witness_BoardArrives_queued :
    let s := (station .running).modFlow (fun w => { w with queue := [⟨0, List.replicate 16 0, none, none⟩] })
    s.EntryTerms ∧ s.flow.queue.head? = some ⟨0, List.replicate 16 0, none, none⟩ :=
  ⟨⟨rfl, ⟨0, rfl⟩, by decide, rfl, .inl (by decide)⟩, rfl⟩

/-- A panel at MEASURE in each kind of state, with SHIFT high and low, and one that travels. -/
theorem witness_BoardShifts :
    (∀ c, ¬ ((State.reset.ctx c).position = .measure ∧ (State.reset.ctx c).inTransit = false
      ∧ (State.reset.ctx c).removed = false)) ∧
    (∀ st, let s := busy st .measure
      (s.ctx 0).position = .measure ∧ (s.ctx 0).inTransit = false ∧ (s.ctx 0).removed = false ∧
      (s.ctx 0).state = st ∧ s.flow.shift = false ∧
      (s.modFlow (fun w => { w with shift := true })).flow.shift = true) ∧
    (let s := (busy .judging .measure).modCtx 0 (fun x => { x with inTransit := true })
     (s.ctx 0).inTransit = true ∧ (s.ctx 0).state ≠ .free) ∧
    ∀ c, ¬ ((State.reset.ctx c).inTransit = true ∧ (State.reset.ctx c).state ≠ .free) := by
  refine ⟨by decide, fun st => ⟨rfl, rfl, rfl, rfl, rfl, rfl⟩, by decide, by decide⟩

/-- A panel at EXIT in each kind of state, and no panel there. -/
theorem witness_BoardLeaves :
    ((busy .releasing .exit).ctx 0).state = .releasing ∧
    (∀ b, b < (0 : CtxId) → ((busy .releasing .exit).ctx b).state ≠ .releasing) ∧
    (∀ c, (State.reset.ctx c).state ≠ .releasing) ∧
    (∀ c, ¬ ((State.reset.ctx c).position = .exit ∧ (State.reset.ctx c).removed = false)) ∧
    (∀ st, st ≠ .releasing → let s := busy st .exit
      (∀ b, (s.ctx b).state ≠ .releasing) ∧ (s.ctx 0).position = .exit ∧ (s.ctx 0).removed = false ∧
      (s.ctx 0).state = st) := by
  refine ⟨rfl, by decide, by decide, by decide, fun st h => ⟨?_, rfl, rfl, rfl⟩⟩
  intro b
  fin_cases b
  · exact h
  · show (.free : CtxState) ≠ _; decide

theorem witness_ContextIsFreed :
    (station .draining).flow.station = .draining ∧
    (∀ b, b ≠ (0 : CtxId) → ((station .draining).ctx b).state = .free) ∧
    (station .running).flow.station ≠ .draining ∧
    (((station .draining).modCtx 1 (fun _ => panel .judging .measure)).ctx 1).state ≠ .free := by decide

/-- A DECIDED panel at EXIT with DOWNSTREAM_READY high, a RELEASING one with RELEASE low and high, and
none. -/
theorem witness_LinesAreDriven :
    (let s := (busy .decided .exit).modPins (fun q => { q with downstreamReady := true })
     s.flow.station = .running ∧ s.pins.downstreamReady = true ∧ (s.ctx 0).position = .exit ∧
     (s.ctx 0).state = .decided ∧ (s.ctx 0).removed = false ∧ s.driveLines.flow.release = true ∧
     s.flow.release = false ∧ s.flow.config = some cfg) ∧
    (let s := (busy .releasing .exit).modFlow (fun w => { w with release := true })
     s.driveLines.flow.release = true ∧ s.flow.release = true) ∧
    State.reset.pins.downstreamReady = false ∧ State.reset.driveLines.flow.release = false := by decide

/-- STOP low for exactly ten milliseconds, for one less, and an exit timer with and without a panel to
release. -/
theorem witness_StationIsHeld :
    (let u := (busy .aligning .measure).modFlow (fun w => { w with stopLowSince := some 0 })
     u.flow.stopLowSince = some 0 ∧ 0 + 10 ≤ ({ u with now := 10 } : State).now ∧
     ¬ 0 + 10 ≤ ({ u with now := 9 } : State).now ∧ u.flow.station ≠ .offline ∧
     u.flow.station ≠ .stopped) ∧
    (let u := (busy .releasing .exit).modFlow (fun w => { w with exitTimer := some 5000 })
     u.flow.exitTimer ≠ none ∧ (u.ctx 0).state = .releasing) ∧
    State.reset.flow.exitTimer = none := by decide

/-- A segment one short of full, one that is not, a READY one, and an overflow already announced. -/
theorem witness_RecordIsLogged :
    ((List.replicate 1023 (LogRecord.defect defect)) ++ [LogRecord.defect defect]).length = 1024 ∧
    (State.reset.log.segments.get State.reset.log.writePos).state ≠ .ready ∧
    ((State.reset.log.segments.get State.reset.log.writePos).records ++ [LogRecord.defect defect]).length ≠ 1024 ∧
    (¬ ∃ x, LogRecord.defect defect = .summary x) ∧
    ((logWith .ready).log.segments.get (logWith .ready).log.writePos).state = .ready ∧
    (logWith .ready).log.overflow.get 0 = false ∧
    (({ (logWith .ready).log with overflow := ⟨true, false⟩ } : DefectLog).overflow.get 0) = true := by
  refine ⟨by rw [List.length_append, List.length_replicate]; rfl, by decide, by decide, ?_, by decide,
    by decide, by decide⟩
  rintro ⟨x, h⟩
  cases h

theorem witness_DecisionIsHandedOn :
    let s := busy .judging .measure
    (s.slots.get (s.ctx 0).slot).header = some hdr ∧ (s.ctx 0).removed = false ∧
    ((s.modCtx 0 (fun x => { x with removed := true })).ctx 0).removed = true := by decide

/-- A panel being scanned with a tile in intake, one being aligned, one with a record COMPLETE, and one
decided. -/
theorem witness_PanelIsDecidedEarly :
    let s := ((busy .scanning .measure).modEngine (fun e => { e with
      service := .scanning, served := some ⟨0, ⟨0, 0, 0, 0, 0, 0⟩, ⟨0, 0, 0, 0, 0⟩, [], none⟩ })).modArbiter
        (fun a => { a with inIntake := some (0, .tile 0) })
    (s.ctx 0).taktRunning = true ∧ s.decision.records.get 0 = .waiting ∧ (s.ctx 0).state = .scanning ∧
    s.engine.serves 0 = true ∧ s.engine.service = .scanning ∧ s.arbiter.inIntake = some (0, .tile 0) ∧
    (s.setDecision 0 .complete).decision.records.get 0 = .complete ∧
    ((s.modAlign (fun a => { a with aligning := some 0 })).align.aligning = some 0) ∧
    (State.reset.ctx 0).taktRunning = false ∧ State.reset.decision.records.get 0 = .absent := by decide

theorem witness_StationIsReset :
    (station .idle).Takes ∧ (station .idle).link.Settled ∧ (station .idle).flow.station ≠ .offline ∧
    (station .idle).flow.config = some cfg ∧
    (let l : Link := { Link.initial with resetCount := some 2, inService := some (0x3B, 9) }
     l.resetCount = some 2 ∧ l.inService = some (0x3B, 9)) ∧ State.reset.link.resetCount = none :=
  ⟨⟨rfl, rfl⟩, fun _ => ⟨rfl, rfl, rfl⟩, by decide, rfl, ⟨rfl, rfl⟩, rfl⟩

/-- A list with one locate and no locate in flight, an empty list, and the worked program's fiducials. -/
theorem witness_LocateListsAreBuilt :
    let l : Locate := ⟨.fiducial 0, 12340, 30210, 500⟩
    let s := (busy .aligning .measure).modAlign (fun a => { a with lists := a.lists.set 0 [l] })
    s.align.inFlight.get 0 = none ∧ s.align.lists.get 0 = l :: [] ∧ s.flow.config = some cfg ∧
    s.align.lists.get 1 = [] ∧
    (s.slots.get (s.ctx 0).slot).fiducials
      = [⟨5000, 5000, 500, none⟩, ⟨205000, 9000, 500, some (205000, 5000)⟩, ⟨5000, 205000, 500, none⟩] := by
  decide

/-- A locate in flight on head 0 of a panel being aligned. -/
def seeking : State :=
  (busy .aligning .measure).modAlign (fun a => { a with
    aligning := some 0, inFlight := a.inFlight.set 0 (some ⟨⟨.fiducial 1, 212340, 34210, 500⟩, 14, 100⟩) })

theorem witness_LocateIsAnswered :
    seeking.flow.config = some cfg ∧ cfg.heads ≤ (2 : PortId).val ∧ (1 : PortId).val < cfg.heads ∧
    seeking.align.inFlight.get 0 = some ⟨⟨.fiducial 1, 212340, 34210, 500⟩, 14, 100⟩ ∧
    seeking.align.aligning = some 0 ∧ seeking.align.inFlight.get 1 = none ∧
    (14 :: List.replicate 14 0 : List Byte).head? = some 14 ∧
    (14 :: List.replicate 14 0 : List Byte).length = 15 ∧ ([14] : List Byte).length ≠ 15 ∧
    ([15] : List Byte).head? ≠ some 14 := by decide

/-- A body of each answer at the ends of its ranges (R190). -/
theorem witness_LocateIsAnswered_bodies :
    let found (z : Int) (quality : Byte) : List Byte := [14, 0] ++ be32 0 ++ be32 0 ++ beI32 z ++ [quality]
    let other (code last : Byte) : List Byte := [14, code] ++ List.replicate 12 0 ++ [last]
    u8 (found 32767 100) 14 ≤ 100 ∧ i32 (found 32767 100) 10 = 32767 ∧ i32 (found (-32767) 0) 10 = -32767 ∧
    100 < u8 (found 0 101) 14 ∧ i32 (found (-32768) 0) 10 < -32767 ∧ 32767 < i32 (found 32768 0) 10 ∧
    (∀ b ∈ (other 1 0).drop 2, b = 0) ∧ u8 (other 2 0) 1 = 2 ∧ u8 (other 3 0) 1 = 3 ∧
    (¬ ∀ b ∈ (other 3 1).drop 2, b = 0) ∧ 3 < u8 (other 4 0) 1 := by decide

/-- An answer found, one that sends the search to the alternate, and the owner of the alternate. -/
theorem witness_LocateIsAnswered_fiducials :
    (seeking.slots.get (seeking.ctx 0).slot).fiducials[1]?
      = some ⟨205000, 9000, 500, some (205000, 5000)⟩ ∧
    (FidOutcome.found 0 0 0 100).isFound = true ∧ FidOutcome.notFound.isFound = false ∧
    ((seeking.align.records.get 0).fids.get 1).searched = .primary ∧
    cfg.ranges[1]? = some ⟨8192, 16384⟩ ∧ 8192 ≤ (7340 + 205000) / cfg.pitch ∧
    (7340 + 205000) / cfg.pitch < 16384 ∧
    16384 ≤ (327680 + 205000) / cfg.pitch := by decide

/-- The panel of the worked alignment with every fiducial found (section 3.6). -/
def measured : State :=
  (busy .aligning .measure).modAlign (fun a => { a with
    aligning := some 0
    records := a.records.set 0 { AlignRecord.clear with
      fids := ⟨⟨.primary, .found 12340 30210 1200 92⟩, ⟨.alternate, .found 212360 30810 1260 95⟩,
        ⟨.primary, .found 11745 230226 1150 88⟩⟩ } })

theorem witness_AlignmentEnds :
    measured.align.aligning = some 0 ∧ (measured.slots.get (measured.ctx 0).slot).header = some hdr ∧
    (measured.slots.get (measured.ctx 0).slot).fiducials
      = [⟨5000, 5000, 500, none⟩, ⟨205000, 9000, 500, some (205000, 5000)⟩, ⟨5000, 205000, 500, none⟩] ∧
    (∀ p, measured.align.lists.get p = [] ∧ measured.align.inFlight.get p = none) ∧
    (∀ i, ((measured.align.records.get 0).fids.get i).outcome ≠ .pending) ∧
    (measured.ctx 0).state = .aligning ∧ measured.decision.records.get 0 = .waiting ∧
    (measured.ctx 0).verdicts ≠ [] ∧
    (measured.ctx 0).verdicts = List.replicate (measured.ctx 0).verdicts.length VerdictEntry.unset ∧
    (measured.ctx 0).unset = (measured.ctx 0).verdicts.length ∧
    seeking.align.inFlight.get 0 ≠ none := by decide

/-- A fiducial that was not found, with the alignment at its end. -/
theorem witness_AlignmentEnds_missing :
    let s := measured.modAlign (fun a => { a with records := a.records.set 0 { a.records.get 0 with
      fids := (a.records.get 0).fids.set 2 ⟨.primary, .notFound⟩ } })
    (∀ i, ((s.align.records.get 0).fids.get i).outcome ≠ .pending) ∧
    ((s.align.records.get 0).fids.get 2).outcome = .notFound ∧
    (s.alignmentTest.align.records.get 0).cause = some .fiducialMissing := by decide

/-- Section 3.6, as the machine carries it out: residual 6, slopes 315 and −261, and ARMING. -/
theorem test_alignment :
    let t := measured.alignmentTest
    t.align.records.get 0 = { measured.align.records.get 0 with
      terms := some (65543, 197), residual := some 6, slopes := some (315, -261) } ∧
    (t.ctx 0).state = .arming := by decide

/-- The limits that make each check of section 3.6 fail, with the ones before it passing: A differs from
65,536 by 7, B is 197, the residual is 6 and the greater slope 315. -/
theorem witness_AlignmentEnds_checks :
    ¬ (65543 - 65536 : Int).natAbs ≤ 6 ∧ (65543 - 65536 : Int).natAbs ≤ 7 ∧ ¬ (197 : Int).natAbs ≤ 196 ∧
    (197 : Int).natAbs ≤ 197 ∧ ¬ (6 ≤ 5) ∧ 6 ≤ 6 ∧ ¬ (315 : Int).natAbs ≤ 314 ∧
    (315 : Int).natAbs ≤ 315 ∧ (-261 : Int).natAbs ≤ 315 := by decide

/-- The panel of the worked alignment being armed, its joint not yet visited (section 5.3). -/
def arming : State :=
  (busy .arming .measure).modEngine (fun e => { e with
    service := .arming
    served := some ⟨0, ⟨65543, 197, 5000, 5000, 12340, 30210⟩, ⟨315, -261, 12340, 30210, 1200⟩, [], none⟩ })

/-- Section 5.3: the rectangles, the counts, the row blocks and the dependency set of joint 37. -/
theorem test_armingJointVisit : arming.visitJoint.engine.openList
    = [⟨0, 0, 0, 0, ⟨5607, 5616, 3523, 3528⟩, ⟨5605, 5618, 3521, 3530⟩, none, 60, 80, 0, 880, 882, [0]⟩] := by
  decide

/-- Section 5.3: joint 5 is out of field, and beyond the region joint 37 is skipped. -/
theorem test_armingJointVisit_fails :
    ((((arming.modSlot 0 (fun x => { x with
      sites := [⟨0, 0, -27340, 25000, 100, 60, none⟩] })).visitJoint.ctx 0).verdicts)
        = [⟨.unmeasured, some .outOfField, FlagSet.none⟩]) ∧
    (((arming.modEngine (fun e => { e with served := e.served.map (fun j => { j with
      region := some ⟨0, 0, 100000, 300000⟩ }) })).visitJoint.ctx 0).verdicts)
        = [⟨.skipped, some .outOfRegion, FlagSet.none⟩] := by decide

theorem witness_JointsAreArmed :
    arming.engine.service = .arming ∧ arming.flow.config = some cfg ∧ (arming.ctx 0).state = .arming ∧
    arming.engine.visited < (arming.ctx 0).verdicts.length ∧
    (arming.slots.get 0).placements[0]? = some ⟨20000, 20000, false, none⟩ ∧
    (arming.slots.get 0).sites[0]? = some ⟨0, 0, 85000, 25000, 100, 60, none⟩ ∧
    (arming.slots.get 0).classes[0]? = some cls ∧
    (arming.ctx 0).verdicts[0]? = some VerdictEntry.unset ∧ mapGet 0 [(0, SkipCause.excluded)] ≠ none ∧
    arming.engine.openList = [] ∧ arming.visitJoint.engine.openList ≠ [] ∧
    State.reset.engine.service ≠ .arming := by decide

/-- Joint 37 as armed, open with accumulator 0, and the station that scans it. -/
def armed : ArmedJoint :=
  ⟨0, 0, 0, 0, ⟨5607, 5616, 3523, 3528⟩, ⟨5605, 5618, 3521, 3530⟩, none, 60, 80, 0, 880, 882, [0]⟩
def scanRecord : ScanRecord := ⟨7, 880, 882, 0, 8192, none, 0, 879, false, false⟩
def scanning (scan : ScanState) : State :=
  ((arming.modCtx 0 (fun x => { x with state := .scanning })).modEngine (fun e => { e with
    service := .scanning, scanRange := some (880, 882), openSet := [⟨armed, 0⟩]
    pool := [(0, ⟨.opened, some (0, 0), 0, 0, 0, none, 0, 0, 0, 0, 0, 0, 0, 0⟩)] })).modPorts
      (fun _ => Quad.all { Port.initial with scan := scan, record := some scanRecord })

theorem witness_JointsOpenAndClose :
    let s := scanning .receiving
    mapWf s.engine.pool ∧ mapGet 1 s.engine.pool = none ∧ mapGet 0 s.engine.pool ≠ none ∧
    (s.ctx 0).verdicts[0]? = some VerdictEntry.unset ∧ s.engine.service = .scanning ∧
    armed.firstBlock ≤ 880 ∧ 879 < armed.firstBlock ∧
    (∃ r, (s.ports.get 0).record = some r ∧ r.mark ≠ r.last) ∧ s.engine.scanRange = some (880, 882) ∧
    s.evaluator.current = none ∧ (s.slots.get (s.ctx 0).slot).classes[0]? = some cls ∧
    s.evaluator.queue = [] := by
  refine ⟨by decide, by decide, by decide, by decide, by decide, by decide, by decide,
    ⟨_, rfl, by decide⟩, by decide, by decide, by decide, by decide⟩

/-- Every configured head past the last row block, an evaluation queue with an entry, and joint 37's
accumulator QUEUED. -/
theorem witness_JointsOpenAndClose_ends :
    let s := ((scanning .done).modPorts (fun _ => Quad.all { Port.initial with
      scan := .done, record := some { scanRecord with mark := 882 } })).modEvaluator
        (fun v => { v with queue := [entry37] })
    (∀ p : PortId, (s.ports.get p).record = some { scanRecord with mark := 882 }) ∧
    (882 : Int) = (scanRecord.last : Int) ∧ s.evaluator.queue = entry37 :: [] ∧
    mapGet entry37.acc s.engine.pool ≠ none := by decide

theorem mapGet_run {α : Type} (x : α) (n : Nat) : ∀ k a : Nat, a ≤ n → n < a + k →
    mapGet n ((List.range' a k).map (fun i => (i, x))) = some x := by
  intro k
  induction k with
  | zero => intro a h1 h2; omega
  | succ k ih =>
    intro a h1 h2
    rw [List.range'_succ, List.map_cons, mapGet]
    split
    · rfl
    · exact ih (a + 1) (by omega) (by omega)

/-- A pool with every accumulator held. -/
theorem witness_JointsOpenAndClose_full (x : Accumulator) :
    let pool := (List.range' 0 1024).map (fun i => (i, x))
    mapWf pool ∧ ∀ n, n < 1024 → mapGet n pool ≠ none := by
  refine ⟨?_, fun n h => by rw [mapGet_run x n 1024 0 (by omega) (by omega)]; simp⟩
  rw [mapWf, List.pairwise_map]
  exact List.pairwise_lt_range'

theorem witness_SamplesAreAdded : ((scanning .receiving).engine.openSet.map OpenJoint.acc).Nodup := by
  decide

theorem witness_ItemIsTakenIn :
    let s := (scanning .receiving).modArbiter (fun a => { a with inIntake := some (0, .loss 880 8128) })
    s.arbiter.inIntake = some (0, .loss 880 8128) ∧ s.engine.service = .scanning ∧
    s.engine.served ≠ none ∧ (s.ports.get 0).record = some scanRecord ∧
    State.reset.engine.service ≠ .scanning ∧ State.reset.arbiter.inIntake = none ∧
    (∀ p : PortId, p.val < (scanning .done).flow.heads → ((scanning .done).ports.get p).scan = .done) ∧
    ((scanning .done).ctx 0).state = .scanning ∧ (∀ p, ((scanning .done).ports.get p).intake = []) ∧
    (let u := s.modPort 0 (fun x => { x with intake := [.endRecord] })
     (u.ports.get 0).intake = .endRecord :: [] ∧ (u.ports.get 1).intake = []) := by decide

/-- A state with a grant to make: nothing in intake, the engine SCANNING, port 0 granted last, an item on
port 2, and nothing on port 1, whose turn comes first. -/
theorem witness_ItemIsTakenIn_grant :
    let s := ((scanning .receiving).modPort 2 (fun x => { x with intake := [.endRecord] })).modArbiter
      (fun _ => ⟨0, none⟩)
    s.arbiter.inIntake = none ∧ s.engine.service = .scanning ∧ (s.ports.get 2).intake = .endRecord :: [] ∧
    (∀ n : Fin 4, ∀ q : PortId, 1 ≤ n.val → n.val ≤ 3 → q.val = (s.arbiter.lastGranted.val + n.val) % 4 →
      n.val < ((2 : PortId).val + 3 - s.arbiter.lastGranted.val) % 4 + 1 → (s.ports.get q).intake = []) ∧
    s.grant.arbiter = ⟨2, some (2, .endRecord)⟩ := by decide

/-- R94: the same state with the engine IDLE and a tile on port 2: the tile completes at once, its pool
FREE and the path free. -/
theorem witness_ItemIsTakenIn_outside :
    let s := (((scanning .receiving).modPort 2 (fun x => { x with
      intake := [.tile 1], pools := ⟨x.pools.p0, ⟨.waiting, 880, 64, []⟩⟩ })).modArbiter
        (fun _ => ⟨0, none⟩)).modEngine (fun e => { e with service := .idle })
    s.arbiter.inIntake = none ∧ s.engine.service ≠ .scanning ∧ (s.ports.get 2).intake = .tile 1 :: [] ∧
    (∀ n : Fin 4, ∀ q : PortId, 1 ≤ n.val → n.val ≤ 3 → q.val = (s.arbiter.lastGranted.val + n.val) % 4 →
      n.val < ((2 : PortId).val + 3 - s.arbiter.lastGranted.val) % 4 + 1 → (s.ports.get q).intake = []) ∧
    s.grant.arbiter = ⟨2, none⟩ ∧ (s.grant.ports.get 2).intake = [] ∧
    ((s.grant.ports.get 2).pools.get 1).state = .free := by decide

theorem witness_HeadAnswers :
    (scanning .starting).flow.config = some cfg ∧ cfg.heads ≤ (2 : PortId).val ∧
    (1 : PortId).val < cfg.heads ∧ ((scanning .starting).ports.get 1).scan = .starting ∧
    ((scanning .starting).ports.get 1).record = some scanRecord ∧ scanRecord.seq = (7 : Byte).toNat ∧
    scanRecord.seq ≠ (8 : Byte).toNat ∧ 1 < (([2, 7] : List Byte).getD 0 0).toNat ∧
    ((scanning .starting).ports.get 1).queryTimer = none ∧
    ({ Port.initial with queryTimer := some 100 } : Port).queryTimer = some 100 ∧
    ((scanning .idle).ports.get 1).scan ≠ .starting ∧ ([7, 3, 112, 0] : List Byte).length < 5 ∧
    (0x10 : Byte).toNat < 0x11 ∧ 0x15 < (0x16 : Byte).toNat := by decide

/-- R189, R190: what each kind byte at the ends of the table is; a TILE of panel 7 at row block 880 and
column 64, and one that ends at its fourth byte. -/
theorem test_headFrameCommands :
    headFrameCommands 2 0x11 true [1, 7] = [.headReady 2 true [1, 7]] ∧
    headFrameCommands 2 0x12 true [7, 3, 112, 0, 64, 5, 6] = [.tileHeader 2 7 880 64, .tile 2 true [5, 6]] ∧
    headFrameCommands 2 0x12 false [7, 3, 112, 0, 64] = [.tileHeader 2 7 880 64, .tile 2 false []] ∧
    headFrameCommands 2 0x12 true [7, 3, 112, 0] = [.tile 2 true [7, 3, 112, 0]] ∧
    headFrameCommands 2 0x13 true [3, 112, 0, 64] = [.tileLost 2 true [3, 112, 0, 64]] ∧
    headFrameCommands 2 0x14 true [0, 0, 1, 0] = [.scanEnd 2 true [0, 0, 1, 0]] ∧
    headFrameCommands 2 0x15 false [9] = [.locateResult 2 false [9]] ∧
    headFrameCommands 2 0x10 true [] = [.headUnknownFrame 2] ∧
    headFrameCommands 2 0x16 true [] = [.headUnknownFrame 2] := by decide

/-- A header at each end of what R69 accepts and one past it, with pools free and held. -/
theorem witness_TileIsSettled :
    let x := (scanning .receiving).ports.get 0
    (scanning .receiving).flow.config = some cfg ∧ (0 : PortId).val < cfg.heads ∧ x.scan = .receiving ∧
    x.record = some scanRecord ∧ (7 : Byte).toNat = scanRecord.seq ∧ (8 : Byte).toNat ≠ scanRecord.seq ∧
    (879 : U16).toNat < scanRecord.first ∧ scanRecord.last < (883 : U16).toNat ∧
    scanRecord.rangeStop < (8192 : U16).toNat + 64 ∧ ¬ scanRecord.rangeStop < (8128 : U16).toNat + 64 ∧
    ¬ ((880 : Nat) < (880 : U16).toNat ∨ 880 = (880 : U16).toNat ∧ 64 < (64 : U16).toNat) ∧
    ((880 : Nat) < (880 : U16).toNat ∨ 880 = (880 : U16).toNat ∧ 0 < (64 : U16).toNat) ∧
    (x.pools.get 0).state = .free ∧ ((scanning .idle).ports.get 0).scan ≠ .receiving ∧
    (∀ k : Fin 2, (({ x with pools := Pair.all ⟨.waiting, 880, 0, []⟩ } : Port).pools.get k).state ≠ .free) ∧
    (List.replicate 512 (0 : Byte)).length = 512 ∧ x.course = none ∧
    (∀ c, ({ x with course := some c } : Port).course = some c) ∧
    ({ x with header := some ⟨7, 880, 0⟩ } : Port).header = some ⟨7, 880, 0⟩ := by
  refine ⟨by decide, by decide, by decide, by decide, by decide, by decide, by decide, by decide, by decide,
    by decide, by decide, by decide, by decide, by decide, by decide, by rw [List.length_replicate],
    by decide, fun _ => rfl, by decide⟩

theorem witness_ScanReports :
    let s := scanning .receiving
    s.flow.config = some cfg ∧ (1 : PortId).val < cfg.heads ∧ ([0, 0, 0] : List Byte).length ≠ 4 ∧
    ([3, 112, 31, 192] : List Byte).length = 4 ∧ (s.ports.get 1).scan = .receiving ∧
    (s.ports.get 1).record = some scanRecord ∧ u16 ([3, 112, 31, 192] : List Byte) 0 = 880 ∧
    u16 ([3, 112, 31, 192] : List Byte) 2 + 64 = scanRecord.rangeStop ∧ 883 > scanRecord.last ∧
    ((scanning .done).ports.get 1).scan = .done ∧ scanRecord.endTaken = false ∧ scanRecord.silent = false ∧
    ({ scanRecord with silent := true } : ScanRecord).silent = true ∧
    ((scanning .idle).ports.get 1).scan ≠ .receiving ∧ ((scanning .idle).ports.get 1).scan ≠ .done := by
  decide

/-- Joint 37 exactly at its coverage limit and one sample short, and its collar at its minimum and one
short. -/
theorem witness_JointIsJudged :
    cls.coverageMin * entry37.nExpPad ≤ sums37.padVal * 100 ∧
    ¬ cls.coverageMin * entry37.nExpPad ≤ 53 * 100 ∧ cls.collarMin ≤ 20 ∧ 19 < cls.collarMin ∧
    cls.collarMin ≤ sums37.collarVal ∧ sums37.padMax = some 118 ∧ 10 ≤ cls.coverageMin ∧
    4 ≤ entry37.nExpPad := by decide

/-- Joint 37 in evaluation, kept or marked for discard. -/
def evaluating (discard : Bool) : State :=
  ((scanning .done).modEngine (fun e => { e with pool := [(0, sums37)] })).modEvaluator
    (fun v => { v with current := some ⟨entry37, cls, 20, discard⟩ })

theorem witness_EvaluationCompletes :
    State.reset.evaluator.current = none ∧
    (evaluating false).evaluator.current = some ⟨entry37, cls, 20, false⟩ ∧
    (evaluating true).evaluator.current = some ⟨entry37, cls, 20, true⟩ ∧
    mapGet entry37.acc (evaluating false).engine.pool = some sums37 ∧
    ((evaluating false).ctx 0).verdicts[0]? = some VerdictEntry.unset ∧
    ((evaluating false).slots.get ((evaluating false).ctx 0).slot).sites[0]?
      = some ⟨0, 0, 85000, 25000, 100, 60, none⟩ := by decide

/-- R125: the last write of a context in JUDGING, of one in SCANNING, and one that is not the last. -/
theorem witness_EvaluationCompletes_report :
    let s := (busy .judging .measure).modCtx 0 (fun x => { x with unset := 0 })
    (s.ctx 0).unset = 0 ∧ s.decision.records.get 0 = .waiting ∧ (s.ctx 0).state = .judging ∧
    (s.modCtx 0 (fun x => { x with state := .scanning })).ctx 0
      = { s.ctx 0 with state := .scanning } ∧ ((busy .judging .measure).ctx 0).unset ≠ 0 := by decide

/-- Section 6.7: PASS written, the pass bit set, the drift value fed with 87 and nothing logged. -/
theorem test_evaluationComplete :
    let t := (evaluating false).completeEvaluation ⟨entry37, cls, 20, false⟩
    (t.ctx 0).verdicts = [⟨.pass, none, FlagSet.none⟩] ∧ (t.ctx 0).passBits = [0] ∧
    t.monitor.driftOf 0 0 = some ⟨256 * 87, .inside⟩ ∧ t.log = (evaluating false).log ∧
    t.engine.pool = [] := by decide

theorem witness_ProcessIsMonitored :
    (working 3).monitor.work = some ⟨request1, 3⟩ ∧ 3 < 8192 ∧ request1.sites = 4 ∧
    bandOf none = .inside ∧ bandOf (some ⟨0, .above⟩) = .above ∧ bandOf (some ⟨0, .below⟩) = .below ∧
    (working 3).monitor.work ≠ none ∧ (working 3).monitor.requests.length < 4 ∧
    4 ≤ (List.replicate 4 request1).length ∧ (station .idle).monitor.work = none ∧
    (let m : Monitor := { Monitor.initial with candidate := some 5, runLength := 3 }
     0 < m.runLength ∧ m.candidate = some 5 ∧ min (m.runLength + 1) 4 = 4 ∧ 5 ≠ m.recognized ∧
     m.runLength < 4) ∧ cfg.deviating.getLsbD (5 : BitVec 4).toNat = true ∧
    cfg.deviating.getLsbD (4 : BitVec 4).toNat = false := by decide

theorem witness_BlocksStaySound :
    (∀ c, (State.reset.ctx c).Tallied) ∧ State.reset.BuffersOk ∧ ∃ t, step State.reset = .next t := by
  refine ⟨fun c => ?_, ⟨⟨fun k => ?_, fun k h => ?_⟩,
    ⟨by decide, by decide, by decide, by decide, by decide, by decide⟩,
    ⟨by decide, by decide, by decide⟩⟩, _, rfl⟩
  · fin_cases c <;> exact ⟨rfl, rfl, rfl, rfl, rfl, rfl, rfl, rfl, rfl⟩
  · fin_cases k <;> exact rfl
  · fin_cases k <;> exact absurd h (by decide)

/-! ### One step of other commands -/

/-- R189: the kind byte and the body of a LOCATE for a mark and of a SCAN_START. -/
theorem test_headFrames :
    (HeadFrame.locate 7 true 65536 258 500).bytes = [3, 7, 1, 0, 1, 0, 0, 0, 0, 1, 2, 1, 0xF4] ∧
    (HeadFrame.scanStart 9 64 4096 880 900).bytes = [1, 9, 0, 64, 0x10, 0, 3, 0x70, 3, 0x84] := by
  decide

/-- R25: the three lanes on ROUTE[1] and ROUTE[0]. -/
theorem test_route_lines : [Route.review, .pass, .rework].map Route.lines = [0, 1, 2] := by decide

/-- Section 8.3: the fourth sample of a code recognizes it, the hold starts and the notice is raised. -/
theorem test_ovenSample :
    let s := (station .idle).modMonitor (fun m => { m with candidate := some 5, runLength := 3 })
    let t := ({ s with now := 1006 } : State).sampleOven 5
    t.monitor.recognized = 5 ∧ t.monitor.hold = 3 ∧ t.monitor.changes = [(5, 1007)] ∧
    t.link.notices = [⟨.ovenCode 5 0 1007 true 3, 1⟩] := by decide

/-- Section 8.2: site 0 reaches the limit of 3 on panel 33 and raises its notice. -/
theorem test_repeatSiteUpdate :
    let s := (working 0).modMonitor (fun m => { m with repeats := [(8192, 2)] })
    s.repeatSite.monitor.repeatOf 1 0 = 3 ∧ s.repeatSite.link.notices = [⟨.repeatSite 1 0 3 33, 1⟩] := by
  decide

/-- Section 4.4, step 8: a tile whose header finds no free pool is an overrun, and still the last position
accepted. -/
theorem test_tileHeader :
    let x := { (scanning .receiving).ports.get 0 with pools := Pair.all ⟨.waiting, 880, 0, []⟩ }
    (x.takeHeader ⟨7, 881, 64⟩).course = some .overrun ∧
    (x.takeHeader ⟨7, 881, 64⟩).record = some { scanRecord with lastPos := some (881, 64) } := by decide

/-- Section 4.4, step 19: one tile fewer than sent raises MISSING by 1 and makes the end record. -/
theorem test_scanEnd :
    let x := { (scanning .receiving).ports.get 0 with record := some { scanRecord with received := 2 } }
    (x.takeScanEnd 3).counters.missing = 1 ∧ (x.takeScanEnd 3).intake = [.endRecord] ∧
    (x.takeScanEnd 3).scan = .ending := by decide

/-- R76, R77: in DONE a first SCAN_END is compared, and one of a head that was declared silent is stale. -/
theorem test_scanEnd_done :
    let x := (scanning .done).ports.get 0
    let y := { x with record := some { scanRecord with silent := true } }
    (x.takeScanEnd 3).counters.missing = 3 ∧ (x.takeScanEnd 3).counters.stale = 0 ∧
    (y.takeScanEnd 3).counters.missing = 0 ∧ (y.takeScanEnd 3).counters.stale = 1 ∧
    (y.takeScanEnd 3).record = y.record := by decide

/-- R77: the silence of a head is marked in its scan record. -/
theorem test_tileTimerExpiry : ∃ t, execTileTimerExpiry 0 (scanning .receiving) = .next t ∧
    ((t.ports.get 0).record.map ScanRecord.silent) = some true := ⟨_, rfl, by decide⟩

end Sys2Proof.Tests
end

section
/-! Proofs. Validation: each check of a loaded program finds the first failure of its kind, and the checks
run in their order (R12 to R15). -/

namespace Sys2Proof.Machine

open Sys2Proof

/-! ### Sections (R12) -/

/-- Every section holds as many records as the header requires (R1). -/
def Slot.Filled (x : Slot) (h : Header) : Prop := ∀ k, k < 4 → x.fill k = h.required k

theorem shortSection_eq_some {h : Header} {x : Slot} {k : Nat} (hk : k < 4)
    (hbefore : ∀ j, j < k → x.fill j = h.required j) (hshort : x.fill k ≠ h.required k) :
    shortSection h x = some k := by
  show (List.range 4).find? _ = some k
  simpa [List.find?_range_eq_some] using ⟨hshort, hk, hbefore⟩

theorem shortSection_eq_none {h : Header} {x : Slot} (hx : x.Filled h) : shortSection h x = none := by
  show (List.range 4).find? _ = none
  simpa [List.find?_range_eq_none, Slot.Filled] using hx

/-- A program with all its sections filled holds three fiducials (R1, R8). -/
theorem Slot.Filled.fiducials {x : Slot} {h : Header} (hx : x.Filled h) :
    ∃ f1 f2 f3, x.fiducials = [f1, f2, f3] :=
  List.length_eq_three.mp (hx 3 (by decide))

/-! ### References (R12) -/

/-- The class and the component a site names exist in the program (R12). -/
def Site.RefersIn (t : Site) (h : Header) : Prop := t.cls < h.classes ∧ t.component < h.components

theorem badReference_cons_of_refersIn {h : Header} {t : Site} (ht : t.RefersIn h) (n : Nat)
    (l : List Site) : badReference h n (t :: l) = badReference h (n + 1) l := by
  obtain ⟨hcls, hcomp⟩ := ht
  rw [badReference, if_neg (by omega), if_neg (by omega)]

theorem badReference_eq_none {h : Header} {l : List Site}
    (hl : ∀ (i : Nat) (t : Site), l[i]? = some t → t.RefersIn h) (n : Nat) : badReference h n l = none := by
  induction l generalizing n with
  | nil => rfl
  | cons a l ih =>
    rw [badReference_cons_of_refersIn (hl 0 a rfl)]
    exact ih (fun i => hl (i + 1)) (n + 1)

/-- The site at which the search stops is the first that refers out of the program; it is numbered from
the number the search began with. -/
theorem badReference_of_first {h : Header} {l : List Site} {i : Nat} {t : Site} (n : Nat)
    (ht : l[i]? = some t) (hbefore : ∀ j, j < i → ∀ u, l[j]? = some u → u.RefersIn h) :
    (h.classes ≤ t.cls → badReference h n l = some (2, n + i)) ∧
    (t.cls < h.classes → h.components ≤ t.component → badReference h n l = some (3, n + i)) := by
  induction l generalizing n i with
  | nil => cases ht
  | cons a l ih =>
    cases i with
    | zero =>
      cases ht
      exact ⟨fun hc => by rw [badReference, if_pos hc]; rfl,
        fun hc hp => by rw [badReference, if_neg (by omega), if_pos hp]; rfl⟩
    | succ i =>
      rw [badReference_cons_of_refersIn (hbefore 0 i.succ_pos a rfl), Nat.add_comm i 1,
        ← Nat.add_assoc]
      exact ih (n + 1) ht (fun j hj => hbefore (j + 1) (by omega))

/-! ### Fiducial combinations (R13) -/

/-- Three nominals span an area large enough, with the first two far enough apart (R13). -/
def FarApart (p1 p2 p3 : Point) : Prop :=
  10000000000 ≤ (planeDet p1 p2 p3).natAbs ∧ 400000000 ≤ (p2.1 - p1.1) ^ 2 + (p2.2 - p1.2) ^ 2

/-- Combination k passes, or has no nominal to check: bit n of k chooses the alternate of fiducial n
(R13). -/
def CombinationPasses (f1 f2 f3 : Fiducial) (k : Nat) : Prop :=
  ∀ p1 p2 p3, f1.nominal (k.testBit 0) = some p1 → f2.nominal (k.testBit 1) = some p2 →
    f3.nominal (k.testBit 2) = some p3 → FarApart p1 p2 p3

/-- The bits of a combination's number choose the positions (R13). -/
theorem combination_bits (k : Nat) :
    (k % 2 == 1) = k.testBit 0 ∧ (k / 2 % 2 == 1) = k.testBit 1 ∧ (k / 4 % 2 == 1) = k.testBit 2 := by
  simp [Nat.testBit_eq_decide_div_mod_eq, beq_eq_decide]

/-- The check of a combination whose three nominals exist. -/
theorem checkCombination_of_nominals {f1 f2 f3 : Fiducial} {k : Nat} {p1 p2 p3 : Point}
    (h1 : f1.nominal (k.testBit 0) = some p1) (h2 : f2.nominal (k.testBit 1) = some p2)
    (h3 : f3.nominal (k.testBit 2) = some p3) : checkCombination f1 f2 f3 k =
      if (planeDet p1 p2 p3).natAbs < 10000000000 then some 4
      else if (p2.1 - p1.1) ^ 2 + (p2.2 - p1.2) ^ 2 < 400000000 then some 5
      else none := by
  obtain ⟨hb1, hb2, hb3⟩ := combination_bits k
  rw [checkCombination, hb1, hb2, hb3, h1, h2, h3]

/-- A combination that passes, or that lacks a nominal, fails no check. -/
theorem checkCombination_eq_none {f1 f2 f3 : Fiducial} {k : Nat}
    (hk : CombinationPasses f1 f2 f3 k) : checkCombination f1 f2 f3 k = none := by
  obtain ⟨hb1, hb2, hb3⟩ := combination_bits k
  rw [checkCombination, hb1, hb2, hb3]
  split
  case h_1 p1 p2 p3 h1 h2 h3 =>
    obtain ⟨harea, hbase⟩ := hk p1 p2 p3 h1 h2 h3
    rw [if_neg (Nat.not_lt.mpr harea), if_neg (Int.not_lt.mpr hbase)]
  case h_2 => rfl

theorem badCombination_cons_of_passes {f1 f2 f3 : Fiducial} {k : Nat}
    (hk : CombinationPasses f1 f2 f3 k) (l : List Nat) :
    badCombination f1 f2 f3 (k :: l) = badCombination f1 f2 f3 l := by
  rw [badCombination, checkCombination_eq_none hk]

theorem badCombination_append_of_pass {f1 f2 f3 : Fiducial} {l : List Nat}
    (hl : ∀ k ∈ l, CombinationPasses f1 f2 f3 k) (r : List Nat) :
    badCombination f1 f2 f3 (l ++ r) = badCombination f1 f2 f3 r := by
  induction l with
  | nil => rfl
  | cons k l ih =>
    obtain ⟨hk, hl⟩ := List.forall_mem_cons.mp hl
    rw [List.cons_append, badCombination_cons_of_passes hk, ih hl]

theorem badCombination_eq_none {f1 f2 f3 : Fiducial} {n : Nat}
    (hn : ∀ k, k < n → CombinationPasses f1 f2 f3 k) :
    badCombination f1 f2 f3 (List.range n) = none := by
  rw [← List.append_nil (List.range n),
    badCombination_append_of_pass (fun k hk => hn k (List.mem_range.mp hk)), badCombination]

/-- The search reports the first combination that fails. -/
theorem badCombination_of_first {f1 f2 f3 : Fiducial} {n k : Nat} {d : Byte} (hk : k < n)
    (hbefore : ∀ j, j < k → CombinationPasses f1 f2 f3 j)
    (hd : checkCombination f1 f2 f3 k = some d) :
    badCombination f1 f2 f3 (List.range n) = some (d, k) := by
  obtain ⟨m, rfl⟩ := Nat.exists_eq_add_of_lt hk
  rw [Nat.add_assoc, List.range_add, List.range_succ_eq_map, List.map_cons,
    badCombination_append_of_pass (fun j hj => hbefore j (List.mem_range.mp hj)), badCombination,
    Nat.add_zero, hd]

/-! ### The checks in their order (R12 to R14) -/

theorem validateSlot_short {h : Header} {x : Slot} {k : Nat} (hk : shortSection h x = some k) :
    validateSlot h x = .failed 1 k := by
  simp only [validateSlot, hk]

theorem validateSlot_badReference {h : Header} {x : Slot} {d : Byte} {i : Nat} (hx : x.Filled h)
    (hd : badReference h 0 x.sites = some (d, i)) : validateSlot h x = .failed d i := by
  simp only [validateSlot, shortSection_eq_none hx, hd]

section Fiducials

variable {h : Header} {x : Slot} {f1 f2 f3 : Fiducial} (hx : x.Filled h)
  (hrefs : badReference h 0 x.sites = none) (hf : x.fiducials = [f1, f2, f3])
include hx hrefs hf

theorem validateSlot_badCombination {d : Byte} {k : Nat}
    (hd : badCombination f1 f2 f3 (List.range 8) = some (d, k)) : validateSlot h x = .failed d k := by
  simp only [validateSlot, shortSection_eq_none hx, hrefs, hf, hd]

theorem validateSlot_estimate (hd : badCombination f1 f2 f3 (List.range 8) = none) :
    validateSlot h x =
      if concurrencyEstimate (nominalSpans h x) ≤ Config.concurrencyMax then
        .passed (concurrencyEstimate (nominalSpans h x))
      else .failed 6 (min (concurrencyEstimate (nominalSpans h x)) 65535) := by
  simp only [validateSlot, shortSection_eq_none hx, hrefs, hf, hd]

/-- R13: with every combination before it passing, a combination fails as COLLINEAR before F1F2_CLOSE. -/
theorem validateSlot_firstCombination {k : Nat} (hk : k < 8)
    (hbefore : ∀ j, j < k → CombinationPasses f1 f2 f3 j) {p1 p2 p3 : Point}
    (h1 : f1.nominal (k.testBit 0) = some p1) (h2 : f2.nominal (k.testBit 1) = some p2)
    (h3 : f3.nominal (k.testBit 2) = some p3) :
    ((planeDet p1 p2 p3).natAbs < 10000000000 → validateSlot h x = .failed 4 k) ∧
    (10000000000 ≤ (planeDet p1 p2 p3).natAbs →
      (p2.1 - p1.1) ^ 2 + (p2.2 - p1.2) ^ 2 < 400000000 → validateSlot h x = .failed 5 k) := by
  have hcheck := checkCombination_of_nominals h1 h2 h3
  constructor
  · intro harea
    rw [if_pos harea] at hcheck
    exact validateSlot_badCombination hx hrefs hf (badCombination_of_first hk hbefore hcheck)
  · intro harea hbase
    rw [if_neg (Nat.not_lt.mpr harea), if_pos hbase] at hcheck
    exact validateSlot_badCombination hx hrefs hf (badCombination_of_first hk hbefore hcheck)

end Fiducials

/-- Settles O29: the checks of validation run in their order and each finds its first failure. -/
theorem validationFindsTheFirstFailure : Obligations.ValidationFindsTheFirstFailure := by
  intro h x
  refine ⟨fun k hk hbefore hshort => validateSlot_short (shortSection_eq_some hk hbefore hshort), ?_⟩
  intro (hx : x.Filled h)
  refine ⟨fun i t ht hbefore => ?_, fun hgood => ?_⟩
  · have hfirst := badReference_of_first 0 ht hbefore
    rw [Nat.zero_add] at hfirst
    exact ⟨fun hcls => validateSlot_badReference hx (hfirst.1 hcls),
      fun hcls hcomp => validateSlot_badReference hx (hfirst.2 hcls hcomp)⟩
  · have hrefs := badReference_eq_none hgood 0
    obtain ⟨f1, f2, f3, hf⟩ := hx.fiducials
    refine ⟨f1, f2, f3, hf, ?_, fun hfar => ?_⟩
    · intro k hk hbefore p1 p2 p3 h1 h2 h3
      exact validateSlot_firstCombination hx hrefs hf hk hbefore h1 h2 h3
    · have hest := validateSlot_estimate hx hrefs hf (badCombination_eq_none hfar)
      exact ⟨fun hle => hest.trans (if_pos hle), fun hlt => hest.trans (if_neg (Nat.not_le.mpr hlt))⟩

end Sys2Proof.Machine
end

section
/-! Proofs. PROGRAM_DATA: the layouts and ranges of the four kinds of record (R5 to R8, R187), the run of
records appended up to the first that fails, and the checks of the request in their order (R10). -/

namespace Sys2Proof.Machine

open Sys2Proof

/-! ### One record (R5 to R8, R187) -/

theorem Slot.append_class_of_ok {h : Header} {b : List Byte} (hok : (ClassRecord.ofBytes b).ok = true)
    (x : Slot) :
    x.append h 0 b = some { x with classes := x.classes ++ [ClassRecord.ofBytes b] } :=
  if_pos hok

theorem Slot.append_class_of_not_ok {h : Header} {b : List Byte}
    (hok : ¬ (ClassRecord.ofBytes b).ok = true) (x : Slot) : x.append h 0 b = none :=
  if_neg hok

theorem Slot.append_site_of_ok {h : Header} {b : List Byte} {t : Site}
    (hb : Site.ofBytes b = some t) (hok : t.ok h.pitch = true) (x : Slot) :
    x.append h 1 b = some { x with sites := x.sites ++ [t] } := by
  simp only [Slot.append, hb, hok, if_true]

theorem Slot.append_site_of_not_ok {h : Header} {b : List Byte}
    (hb : ∀ t, Site.ofBytes b = some t → ¬ t.ok h.pitch = true) (x : Slot) :
    x.append h 1 b = none := by
  cases hr : Site.ofBytes b with
  | none => simp only [Slot.append, hr]
  | some t => simp only [Slot.append, hr, if_neg (hb t hr)]

theorem Slot.append_placement_of_ok {b : List Byte} {p : Placement}
    (hb : Placement.ofBytes b = some p) (hok : p.ok = true) (x : Slot) (h : Header) :
    x.append h 2 b = some { x with placements := x.placements ++ [p] } := by
  simp only [Slot.append, hb, hok, if_true]

theorem Slot.append_placement_of_not_ok {b : List Byte}
    (hb : ∀ p, Placement.ofBytes b = some p → ¬ p.ok = true) (x : Slot) (h : Header) :
    x.append h 2 b = none := by
  cases hr : Placement.ofBytes b with
  | none => simp only [Slot.append, hr]
  | some p => simp only [Slot.append, hr, if_neg (hb p hr)]

theorem Slot.append_fiducial_of_ok {b : List Byte} {f : Fiducial}
    (hb : Fiducial.ofBytes b = some f) (hok : f.ok = true) (x : Slot) (h : Header) :
    x.append h 3 b = some { x with fiducials := x.fiducials ++ [f] } := by
  simp only [Slot.append, hb, hok, if_true]

theorem Slot.append_fiducial_of_not_ok {b : List Byte}
    (hb : ∀ f, Fiducial.ofBytes b = some f → ¬ f.ok = true) (x : Slot) (h : Header) :
    x.append h 3 b = none := by
  cases hr : Fiducial.ofBytes b with
  | none => simp only [Slot.append, hr]
  | some f => simp only [Slot.append, hr, if_neg (hb f hr)]

/-! ### What a run of records leaves (R10) -/

/-- A slot that n records were appended to in a section: its fill count is n more, and its state, header
and pin count are as they were (R1, R10). -/
structure Slot.GrownBy (x y : Slot) (sect n : Nat) : Prop where
  fill : y.fill sect = x.fill sect + n
  state : y.state = x.state
  header : y.header = x.header
  pins : y.pins = x.pins

theorem Slot.GrownBy.refl (x : Slot) (sect : Nat) : x.GrownBy x sect 0 := ⟨rfl, rfl, rfl, rfl⟩

theorem Slot.GrownBy.trans {x y z : Slot} {sect m n : Nat} (hy : x.GrownBy y sect m)
    (hz : y.GrownBy z sect n) : x.GrownBy z sect (n + m) :=
  ⟨by rw [hz.fill, hy.fill]; omega, hz.state.trans hy.state, hz.header.trans hy.header,
    hz.pins.trans hy.pins⟩

/-- All that an append can do: one record joins the end of the list of its section. -/
theorem Slot.append_cases {x y : Slot} {h : Header} {sect : Nat} {b : List Byte}
    (ha : x.append h sect b = some y) :
    (∃ c, sect = 0 ∧ y = { x with classes := x.classes ++ [c] }) ∨
    (∃ t, sect = 1 ∧ y = { x with sites := x.sites ++ [t] }) ∨
    (∃ p, sect = 2 ∧ y = { x with placements := x.placements ++ [p] }) ∨
    ∃ f n, sect = n + 3 ∧ y = { x with fiducials := x.fiducials ++ [f] } := by
  match sect with
  | 0 =>
    obtain ⟨-, hy⟩ := Option.ite_none_right_eq_some.mp ha
    exact .inl ⟨_, rfl, (Option.some.inj hy).symm⟩
  | 1 =>
    simp only [Slot.append] at ha
    split at ha
    · obtain ⟨-, hy⟩ := Option.ite_none_right_eq_some.mp ha
      exact .inr (.inl ⟨_, rfl, (Option.some.inj hy).symm⟩)
    · cases ha
  | 2 =>
    simp only [Slot.append] at ha
    split at ha
    · obtain ⟨-, hy⟩ := Option.ite_none_right_eq_some.mp ha
      exact .inr (.inr (.inl ⟨_, rfl, (Option.some.inj hy).symm⟩))
    · cases ha
  | n + 3 =>
    simp only [Slot.append] at ha
    split at ha
    · obtain ⟨-, hy⟩ := Option.ite_none_right_eq_some.mp ha
      exact .inr (.inr (.inr ⟨_, n, rfl, (Option.some.inj hy).symm⟩))
    · cases ha

theorem Slot.append_grown {x y : Slot} {h : Header} {sect : Nat} {b : List Byte}
    (ha : x.append h sect b = some y) : x.GrownBy y sect 1 := by
  obtain ⟨_, rfl, rfl⟩ | ⟨_, rfl, rfl⟩ | ⟨_, rfl, rfl⟩ | ⟨_, _, rfl, rfl⟩ := append_cases ha <;>
    exact ⟨by simp [Slot.fill], rfl, rfl, rfl⟩

/-- The outcome of a run of count records: n of them were appended in order, and where n is less than
count the next one failed its range check. -/
structure Slot.Ran (h : Header) (sect size count : Nat) (b : List Byte) (x : Slot) (n : Nat)
    (y : Slot) : Prop where
  le : n ≤ count
  run : Slot.appendRun h sect size count b x = (y, decide (n = count))
  appended : (List.range n).foldlM (fun z i => z.append h sect ((b.drop (i * size)).take size)) x
    = some y
  failed : n < count → y.append h sect ((b.drop (n * size)).take size) = none
  grown : x.GrownBy y sect n

/-- Every run has such an outcome, by induction on the number of records. -/
theorem Slot.exists_ran (h : Header) (sect size count : Nat) (b : List Byte) (x : Slot) :
    ∃ n y, Slot.Ran h sect size count b x n y := by
  induction count generalizing b x with
  | zero => exact ⟨0, x, ⟨le_rfl, rfl, rfl, fun h => absurd h (by decide), .refl x sect⟩⟩
  | succ count ih =>
    cases ha : x.append h sect (b.take size) with
    | none =>
      refine ⟨0, x, ⟨Nat.zero_le _, ?_, rfl, fun _ => ?_, .refl x sect⟩⟩
      · simp [Slot.appendRun, ha]
      · simpa using ha
    | some z =>
      obtain ⟨n, y, hr⟩ := ih (b.drop size) z
      have hdrop : ∀ i, (b.drop size).drop (i * size) = b.drop ((i + 1) * size) := fun i => by
        rw [List.drop_drop, Nat.succ_mul, Nat.add_comm]
      refine ⟨n + 1, y, ⟨Nat.succ_le_succ hr.le, ?_, ?_, fun hn => ?_, (append_grown ha).trans hr.grown⟩⟩
      · simp [Slot.appendRun, ha, hr.run]
      · simpa [List.range_succ_eq_map, List.foldlM_map, ha, ← hdrop] using hr.appended
      · rw [← hdrop]; exact hr.failed (Nat.lt_of_succ_lt_succ hn)

/-! ### The request (R10, R186) -/

/-- The body of a PROGRAM_DATA (R186). -/
def dataBody (slot sect : Byte) (first : U16) (count : Byte) (records : List Byte) : List Byte :=
  [slot, sect] ++ fieldOf first ++ [count] ++ records

section Body

variable (slot sect : Byte) (first : U16) (count : Byte) (records : List Byte)

theorem dataBody_slot : u8 (dataBody slot sect first count records) 0 = slot.toNat := rfl

theorem dataBody_sect : u8 (dataBody slot sect first count records) 1 = sect.toNat := rfl

theorem dataBody_first : u16 (dataBody slot sect first count records) 2 = first.toNat := by
  simpa [dataBody, fieldOf] using u16_be16 first.toNat first.isLt slot sect (count :: records)

theorem dataBody_count : u8 (dataBody slot sect first count records) 4 = count.toNat := rfl

theorem dataBody_records : (dataBody slot sect first count records).drop 5 = records := rfl

theorem dataBody_length : (dataBody slot sect first count records).length = 5 + records.length := by
  simp [dataBody, fieldOf, be16]; omega

end Body

section Request

variable {s t : State} {tag slot sect : Byte} {first : U16} {count : Byte} {records : List Byte}

/-- A PROGRAM_DATA whose owner changes the state to another and replies answers with that state. -/
theorem programData_answered (hs : s.Takes) (hmin : 19 ≤ records.length)
    (hmax : records.length ≤ 1019) {st : Status} {r : List Byte}
    (hserve : (s.served 0x11 tag).serveProgramData (dataBody slot sect first count records)
      = (t.served 0x11 tag).reply st r) :
    exec (.programData tag slot sect first count records) s = .next (t.answered .programData tag st r) := by
  refine State.request_answered s t .programData tag (dataBody slot sect first count records) hs ?_ st r
    hserve
  simp [ReqKind.bodyFits, ReqKind.bodyRange, dataBody_length]
  omega

theorem serveProgramData_noSlot (hslot : 3 < slot.toNat) :
    s.serveProgramData (dataBody slot sect first count records) = s.refuse .badArg := by
  rw [State.serveProgramData, dataBody_slot, quadIndex_lt hslot]

variable {k : SlotId} (hk : slot.toNat = k.val)
include hk

theorem serveProgramData_notLoading
    (hbar : s.flow.station = .offline ∨ (s.slots.get k).state ≠ .loading) :
    s.serveProgramData (dataBody slot sect first count records) = s.refuse .badState := by
  rw [State.serveProgramData, dataBody_slot, hk, quadIndex_val]
  rcases hbar with hoff | hload
  · simp [State.offline, hoff]
  · simp [hload]

variable (hon : s.flow.station ≠ .offline) (hload : (s.slots.get k).state = .loading)
include hon hload

theorem serveProgramData_noSection (hsect : sectionRecordSize sect.toNat = none) :
    s.serveProgramData (dataBody slot sect first count records) = s.refuse .badArg := by
  simp only [State.serveProgramData, dataBody_slot, hk, quadIndex_val, dataBody_sect, hsect]
  rw [if_neg (by simpa [State.offline] using hon), if_neg (not_not_intro hload)]

/-- The checks of a PROGRAM_DATA for a LOADING slot and one of its sections, in their order (R10). -/
theorem serveProgramData_loading {h : Header} {size : Nat}
    (hh : (s.slots.get k).header = some h) (hsize : sectionRecordSize sect.toNat = some size) :
    s.serveProgramData (dataBody slot sect first count records) =
      if count.toNat < 1 ∨ 32 < count.toNat ∨ records.length ≠ count.toNat * size then
        s.refuse .badArg
      else if first.toNat ≠ (s.slots.get k).fill sect.toNat then
        s.replyFill .sequence (s.slots.get k) sect.toNat
      else if h.required sect.toNat < first.toNat + count.toNat then
        s.replyFill .overflow (s.slots.get k) sect.toNat
      else s.appendRecords k h sect.toNat size count.toNat records := by
  simp only [State.serveProgramData, dataBody_slot, hk, quadIndex_val, dataBody_sect, dataBody_first,
    dataBody_count, dataBody_length, dataBody_records, hsize, hh, Nat.add_right_inj, ne_eq]
  rw [if_neg (by simpa [State.offline] using hon), if_neg (not_not_intro hload)]

variable {h : Header} {size : Nat} (hh : (s.slots.get k).header = some h)
  (hsize : sectionRecordSize sect.toNat = some size)
include hh hsize

theorem serveProgramData_badLength
    (hbad : count.toNat < 1 ∨ 32 < count.toNat ∨ records.length ≠ count.toNat * size) :
    s.serveProgramData (dataBody slot sect first count records) = s.refuse .badArg :=
  (serveProgramData_loading hk hon hload hh hsize).trans (if_pos hbad)

variable (hlo : 1 ≤ count.toNat) (hhi : count.toNat ≤ 32) (hlen : records.length = count.toNat * size)
include hlo hhi hlen

theorem serveProgramData_sequence (hfirst : first.toNat ≠ (s.slots.get k).fill sect.toNat) :
    s.serveProgramData (dataBody slot sect first count records)
      = s.replyFill .sequence (s.slots.get k) sect.toNat := by
  rw [serveProgramData_loading hk hon hload hh hsize, if_neg (by omega), if_pos hfirst]

theorem serveProgramData_overflow (hfirst : first.toNat = (s.slots.get k).fill sect.toNat)
    (hover : h.required sect.toNat < first.toNat + count.toNat) :
    s.serveProgramData (dataBody slot sect first count records)
      = s.replyFill .overflow (s.slots.get k) sect.toNat := by
  rw [serveProgramData_loading hk hon hload hh hsize, if_neg (by omega),
    if_neg (not_not_intro hfirst), if_pos hover]

/-- A request that passes the checks: the slot as its run of records leaves it, and the reply by whether
every record passed (R10). -/
theorem serveProgramData_accepted (hfirst : first.toNat = (s.slots.get k).fill sect.toNat)
    (hroom : first.toNat + count.toNat ≤ h.required sect.toNat) {n : Nat} {y : Slot}
    (hr : Slot.Ran h sect.toNat size count.toNat records (s.slots.get k) n y) :
    s.serveProgramData (dataBody slot sect first count records)
      = ({ s with slots := s.slots.set k y } : State).reply
          (if n = count.toNat then .ok else .badArg)
          ((if n = count.toNat then [] else [sect]) ++ be16 (y.fill sect.toNat)) := by
  rw [serveProgramData_loading hk hon hload hh hsize, if_neg (by omega),
    if_neg (not_not_intro hfirst), if_neg (Nat.not_lt.mpr hroom)]
  simp only [State.appendRecords, hr.run, decide_eq_true_eq]
  split
  · rfl
  · simp [byteOf, State.modSlot, State.modSlots]

end Request

/-! ### The statement -/

/-- The sections and their record sizes (R1, R187). -/
theorem sectionRecordSize_of_mem {n size : Nat}
    (hs : (n, size) ∈ [(0, 29), (1, 28), (2, 20), (3, 19)]) : sectionRecordSize n = some size := by
  simp only [List.mem_cons, Prod.mk.injEq, List.not_mem_nil, or_false] at hs
  obtain ⟨rfl, rfl⟩ | ⟨rfl, rfl⟩ | ⟨rfl, rfl⟩ | ⟨rfl, rfl⟩ := hs <;> rfl

theorem sectionRecordSize_of_gt {n : Nat} (hn : 3 < n) : sectionRecordSize n = none := by
  obtain ⟨m, rfl⟩ := Nat.exists_eq_add_of_lt hn
  rw [Nat.add_assoc, Nat.add_comm]
  rfl

/-- Settles O27: the checks of PROGRAM_DATA in their order, the run of records, and the records' layouts
and ranges. -/
theorem recordsAreAppended : Obligations.RecordsAreAppended := by
  refine ⟨?_, fun x h => ⟨rfl, rfl, rfl, rfl, rfl, rfl, rfl, rfl⟩, ?_⟩
  · intro s tag slot sect first count records hs hmin hmax
    have answered (t : State) (st : Status) (r : List Byte) :=
      programData_answered (t := t) (tag := tag) (slot := slot) (sect := sect) (first := first)
        (count := count) hs hmin hmax (st := st) (r := r)
    refine ⟨fun hslot => answered _ _ _ (serveProgramData_noSlot hslot), fun k hk => ?_⟩
    refine ⟨fun hbar => answered _ _ _ (serveProgramData_notLoading hk hbar), fun h hon hload hh => ?_⟩
    refine ⟨fun hsect => answered _ _ _ (serveProgramData_noSection hk hon hload
      (sectionRecordSize_of_gt hsect)), fun size hsize => ?_⟩
    have hsize := sectionRecordSize_of_mem hsize
    refine ⟨fun hbad => answered _ _ _ (serveProgramData_badLength hk hon hload hh hsize hbad),
      fun hlo hhi hlen => ⟨fun hfirst => answered _ _ _
          (serveProgramData_sequence hk hon hload hh hsize hlo hhi hlen hfirst),
        fun hfirst hover => answered _ _ _
          (serveProgramData_overflow hk hon hload hh hsize hlo hhi hlen hfirst hover),
        fun hfirst hroom => ?_⟩⟩
    obtain ⟨n, y, hr⟩ := Slot.exists_ran h sect.toNat size count.toNat records (s.slots.get k)
    exact ⟨n, y, hr.le, hr.appended, hr.failed, hr.grown.fill, hr.grown.state.trans hload,
      hr.grown.header.trans hh, hr.grown.pins, answered { s with slots := s.slots.set k y } _ _
        (serveProgramData_accepted (s := s.served 0x11 tag) hk hon hload hh hsize hlo hhi hlen hfirst
          hroom hr)⟩
  · intro x h b
    refine ⟨fun hok => ?_, fun hbad => ?_, ?_, fun hbad => ?_, ?_, fun hbad => ?_, ?_, fun hbad => ?_⟩
    · exact Slot.append_class_of_ok ((ClassRecord.ok_iff _).mpr hok) x
    · exact Slot.append_class_of_not_ok (fun hok => hbad ((ClassRecord.ok_iff _).mp hok)) x
    · rintro ⟨hpres, hok⟩
      exact Slot.append_site_of_ok (if_pos hpres) ((Site.ok_iff _ _).mpr hok) x
    · refine Slot.append_site_of_not_ok (fun t ht hok => hbad ?_) x
      obtain ⟨hpres, ⟨⟩⟩ := Option.ite_none_right_eq_some.mp ht
      exact ⟨hpres, (Site.ok_iff _ _).mp hok⟩
    · rintro ⟨hpres, hturn, hok⟩
      exact Slot.append_placement_of_ok (if_pos ⟨hpres, hturn⟩) ((Placement.ok_iff _).mpr hok) x h
    · refine Slot.append_placement_of_not_ok (fun t ht hok => hbad ?_) x h
      obtain ⟨⟨hpres, hturn⟩, ⟨⟩⟩ := Option.ite_none_right_eq_some.mp ht
      exact ⟨hpres, hturn, (Placement.ok_iff _).mp hok⟩
    · rintro ⟨hpres, hu, hv, hlo, hhi, halt⟩
      exact Slot.append_fiducial_of_ok (if_pos hpres)
        ((Fiducial.ok_iff _).mpr ⟨hu, hv, ⟨hlo, hhi⟩, halt⟩) x h
    · refine Slot.append_fiducial_of_not_ok (fun t ht hok => hbad ?_) x h
      obtain ⟨hpres, ⟨⟩⟩ := Option.ite_none_right_eq_some.mp ht
      obtain ⟨hu, hv, ⟨hlo, hhi⟩, halt⟩ := (Fiducial.ok_iff _).mp hok
      exact ⟨hpres, hu, hv, hlo, hhi, halt⟩

end Sys2Proof.Machine
end

section
/-! Proofs. Joint evaluation: the tests that leave a joint unmeasured, the quantities of a measured one,
its flags and its verdict (R113 to R119). -/

namespace Sys2Proof.Machine

open Sys2Proof

/-- A quotient of numbers that are not negative rounds to one that is not negative; a divisor of 0 gives
0. -/
theorem roundDiv_nonneg {a b : Int} (ha : 0 ≤ a) (hb : 0 ≤ b) : 0 ≤ roundDiv a b := by
  rw [roundDiv, if_pos (iff_of_false ha.not_gt hb.not_gt)]
  exact Int.natCast_nonneg _

section Evaluation

variable {e : EvalEntry} {c : ClassRecord} {P : Nat} {a : Accumulator}

/-! ### The tests before a measurement (R113, R114) -/

/-- Under the least coverage minimum and pad size, a pad that passes the coverage test has a valid
sample (R113). -/
theorem one_le_padVal_of_covered {n : Nat} (hc : c.coverageMin * n ≤ a.padVal * 100)
    (hmin : 10 ≤ c.coverageMin) (hpad : 4 ≤ n) : 1 ≤ a.padVal := by
  have hleast : 10 * 4 ≤ c.coverageMin * n := Nat.mul_le_mul hmin hpad
  omega

theorem evaluate_of_not_covered (hc : ¬ c.coverageMin * e.nExpPad ≤ a.padVal * 100) :
    evaluate e c P a = ⟨.unmeasured, some .lowCoverage, FlagSet.none, none, none, none,
      100 * a.padVal / e.nExpPad⟩ :=
  if_pos (by simpa [coverageOk] using hc)

section Covered

variable (hc : c.coverageMin * e.nExpPad ≤ a.padVal * 100)
include hc

theorem evaluate_of_short_collar (hr : a.collarVal < c.collarMin) :
    evaluate e c P a = ⟨.unmeasured, some .noReference, FlagSet.none, none, none, none,
      100 * a.padVal / e.nExpPad⟩ :=
  (if_neg (by simpa [coverageOk] using hc)).trans (if_pos hr)

theorem evaluate_of_measured (hr : c.collarMin ≤ a.collarVal) :
    evaluate e c P a = ⟨verdictOf (raisedFlags c e P a), none, raisedFlags c e P a,
      some (volumePct c e.nExpPad a), some (peakHeight a), centroidOffset e P a,
      100 * a.padVal / e.nExpPad⟩ :=
  (if_neg (by simpa [coverageOk] using hc)).trans (if_neg hr.not_gt)

end Covered

/-! ### The quantities of a measured joint (R115, R116) -/

theorem estimatedVolume_cast (n : Nat) : (estimatedVolume n a : Int)
    = max 0 (roundDiv ((a.padSum - a.padVal * referenceHeight a) * n) a.padVal) := by
  rw [estimatedVolume, Int.toNat_eq_max, max_comm]

/-- The percentage needs its clamp above only: no nominal volume makes it negative (R115). -/
theorem volumePct_cast (n : Nat) : (volumePct c n a : Int)
    = min 999 (roundDiv (100 * (estimatedVolume n a : Int)) c.vNom) := by
  have hpct : 0 ≤ roundDiv (100 * (estimatedVolume n a : Int)) c.vNom :=
    roundDiv_nonneg (by omega) (by omega)
  rw [volumePct, Nat.cast_min, Int.toNat_of_nonneg hpct]
  rfl

theorem peakHeight_of_padMax {m : Int} (hm : a.padMax = some m) :
    peakHeight a = max (-32768) (min 32767 (m - referenceHeight a)) := by
  rw [peakHeight, hm, Option.getD_some]

/-! ### The flags and the verdict (R118, R119) -/

/-- SHIFT is raised only where an offset was formed (R117, R118). -/
theorem raisedFlags_shift {o : Nat}
    (ho : centroidOffset e P a = if a.padHi = 0 then none else some o) :
    (raisedFlags c e P a).shift = decide (a.padHi ≠ 0 ∧ c.shiftMax < o) := by
  rw [raisedFlags, ho]
  by_cases hhi : a.padHi = 0 <;> simp [hhi]

/-- The flags from the volume percentage, the peak and the offset as numbers (R118). -/
theorem raisedFlags_eq {pct peak : Int} {o : Nat} (hpct : (volumePct c e.nExpPad a : Int) = pct)
    (hpeak : peakHeight a = peak)
    (ho : centroidOffset e P a = if a.padHi = 0 then none else some o) :
    raisedFlags c e P a = ⟨decide (pct < c.volLow), decide ((c.volHigh : Int) < pct),
      decide (peak < c.peakMin), decide (a.padHi ≠ 0 ∧ c.shiftMax < o),
      decide (e.hasGap = true ∧ c.bridgeMin ≤ a.gapHi)⟩ := by
  rw [← raisedFlags_shift (c := c) ho, ← hpct, ← hpeak]
  simp [raisedFlags]

/-- The verdict is that of the first condition met, in the order of R119. -/
theorem verdictOf_decide (low high openJoint shift bridge : Prop) [Decidable low] [Decidable high]
    [Decidable openJoint] [Decidable shift] [Decidable bridge] :
    verdictOf ⟨decide low, decide high, decide openJoint, decide shift, decide bridge⟩
      = if bridge then .bridge else if openJoint then .openJoint else if low then .low
        else if high then .high else if shift then .shift else .pass := by
  simp only [verdictOf, decide_eq_true_eq]

end Evaluation

/-! ### The statement -/

/-- Settles O57: a joint fails the coverage test, fails the reference test, or is measured with the
volume, peak, offset, flags and verdict of R115 to R119. -/
theorem jointIsJudged : Obligations.JointIsJudged := by
  intro e cl P a r coverage z covered
  refine ⟨evaluate_of_not_covered, evaluate_of_short_collar, one_le_padVal_of_covered, ?_⟩
  intro m hcov hcollar hmax volume pct peak cx2 cy2 offset shifted bridged
  have hr := evaluate_of_measured (P := P) hcov hcollar
  have hpct : (volumePct cl e.nExpPad a : Int) = pct := by
    rw [volumePct_cast, estimatedVolume_cast]
    rfl
  have hpeak : peakHeight a = peak := peakHeight_of_padMax hmax
  have hoff : centroidOffset e P a = if a.padHi = 0 then none else some offset := rfl
  have hflags := raisedFlags_eq (c := cl) hpct hpeak hoff
  refine ⟨congrArg EvalResult.coverage hr, congrArg EvalResult.cause hr,
    ⟨_, congrArg EvalResult.volPct hr, hpct⟩, ?_, (congrArg EvalResult.offset hr).trans hoff,
    (congrArg EvalResult.flags hr).trans hflags, ?_⟩
  · exact (congrArg EvalResult.peak hr).trans (congrArg some hpeak)
  · calc r.verdict = verdictOf (raisedFlags cl e P a) := congrArg EvalResult.verdict hr
      _ = _ := by rw [hflags]; exact verdictOf_decide ..

end Sys2Proof.Machine
end

section
/-! Proofs. The defect log: what becomes of a record handed to it (R157 to R159), what READ_LOG answers
(R160), and the bytes of its records (R188). -/

namespace Sys2Proof.Machine

open Sys2Proof

/-! ### A record handed to the log (R157 to R159) -/

theorem LogRecord.isSummary_iff (r : LogRecord) : r.isSummary = true ↔ ∃ x, r = .summary x := by
  cases r with
  | defect d => simp [LogRecord.isSummary]
  | summary x => simp [LogRecord.isSummary]

/-- A record that is the 1,024th, or a summary, completes its segment (R158). -/
theorem State.logRecord_of_completes {s : State} (c : CtxId) {r : LogRecord}
    (hopen : (s.log.segments.get s.log.writePos).state ≠ .ready)
    (hlast : ((s.log.segments.get s.log.writePos).records ++ [r]).length = 1024 ∨ ∃ x, r = .summary x) :
    s.logRecord c r =
      (s.modLog (fun g => { g with
        segments := g.segments.set g.writePos ⟨.ready, (g.segments.get g.writePos).records ++ [r]⟩
        writePos := g.writePos + 1
        completed := bump g.completed 1 })).raise (.segmentReady s.log.writePos
          ((s.log.segments.get s.log.writePos).records ++ [r]).length) := by
  rw [← r.isSummary_iff] at hlast
  exact (if_neg hopen).trans (if_pos hlast)

/-- Any other record leaves its segment FILLING (R157). -/
theorem State.logRecord_of_fills {s : State} (c : CtxId) {r : LogRecord}
    (hopen : (s.log.segments.get s.log.writePos).state ≠ .ready)
    (hroom : ((s.log.segments.get s.log.writePos).records ++ [r]).length ≠ 1024)
    (hdefect : ¬ ∃ x, r = .summary x) :
    s.logRecord c r = s.modLog (fun g => { g with
      segments := g.segments.set g.writePos
        ⟨.filling, (g.segments.get g.writePos).records ++ [r]⟩ }) := by
  rw [← r.isSummary_iff] at hdefect
  exact (if_neg hopen).trans (if_neg (not_or_intro hroom hdefect))

/-- A record that finds the segment READY is dropped (R159). -/
theorem State.logRecord_of_ready {s : State} (c : CtxId) (r : LogRecord)
    (hready : (s.log.segments.get s.log.writePos).state = .ready) :
    s.logRecord c r = s.dropRecord c r :=
  if_pos hready

/-- Settles O42: a record is placed and completes its segment, is placed and leaves it FILLING, or is
dropped, counted by its kind and announced by a panel's first drop. -/
theorem recordIsLogged : Obligations.RecordIsLogged := by
  intro s c r g at' records summary
  refine ⟨fun hopen hlast => State.logRecord_of_completes c hopen hlast,
    fun hopen hroom hdefect => State.logRecord_of_fills c hopen hroom hdefect, fun hready => ?_⟩
  rw [State.logRecord_of_ready c r hready]
  cases r with
  | defect d => exact ⟨fun hover => if_pos hover, fun hfirst => if_neg (Bool.eq_false_iff.mp hfirst)⟩
  | summary x => exact ⟨fun hover => if_pos hover, fun hfirst => if_neg (Bool.eq_false_iff.mp hfirst)⟩

/-! ### The bytes of a record (R183, R188) -/

/-- An optional part of two bytes is its bytes, or zeros in its place (R183). -/
theorem optionalPart_two (o : Option (List Byte)) : optionalPart 2 o = o.getD [0, 0] := by
  cases o with
  | none => rfl
  | some b => rfl

/-- An optional part is as wide absent as present (R183). -/
theorem optionalPart_map_length {α : Type} {w : Nat} {f : α → List Byte} (hf : ∀ a, (f a).length = w)
    (o : Option α) : (optionalPart w (o.map f)).length = w := by
  cases o with
  | none => exact List.length_replicate
  | some a => exact hf a

/-- An optional part of one byte. -/
theorem optionalPart_byte {α : Type} (f : α → Byte) (o : Option α) :
    optionalPart 1 (o.map (fun a => [f a])) = [(o.map f).getD 0] := by
  cases o with
  | none => rfl
  | some a => rfl

/-- The presence byte of five parts: part n in bit n (R183). -/
theorem presence_five (a b c d e : Bool) : presence [a, b, c, d, e]
    = [byteOf (a.toNat + 2 * b.toNat + 4 * c.toNat + 8 * d.toNat + 16 * e.toNat)] := by
  show [byteOf (a.toNat + 2 * (b.toNat + 2 * (c.toNat + 2 * (d.toNat + 2 * (e.toNat + 2 * 0)))))] = _
  refine congrArg (fun n => [byteOf n]) ?_
  omega

theorem DefectRecord.bytes_eq (d : DefectRecord) : d.bytes
    = [1, byteOf (d.cause.isSome.toNat + 2 * d.volPct.isSome.toNat + 4 * d.peak.isSome.toNat
          + 8 * d.offset.isSome.toNat + 16 * d.coverage.isSome.toNat),
        byteOf d.seq, byteOf d.placement] ++ be16 d.site
      ++ [d.verdict.code, causeCode d.cause, d.flags.code] ++ (d.volPct.map be16).getD [0, 0]
      ++ (d.peak.map beI16).getD [0, 0] ++ (d.offset.map be16).getD [0, 0]
      ++ [(d.coverage.map byteOf).getD 0] := by
  simp only [DefectRecord.bytes, presence_five, optionalPart_byte, optionalPart_two]
  rfl

theorem DefectRecord.bytes_length (d : DefectRecord) : d.bytes.length = 16 := by
  have hvol := optionalPart_map_length (w := 2) (f := be16) (fun _ => rfl) d.volPct
  have hpeak := optionalPart_map_length (w := 2) (f := beI16) (fun _ => rfl) d.peak
  have hoffset := optionalPart_map_length (w := 2) (f := be16) (fun _ => rfl) d.offset
  simp [DefectRecord.bytes, presence_five, optionalPart_byte, be16, hvol, hpeak, hoffset]

theorem VerdictCounts.bytes_eq (k : VerdictCounts) : k.bytes
    = be24 k.pass ++ be24 k.bridge ++ be24 k.openJoint ++ be24 k.low ++ be24 k.high ++ be24 k.shift
      ++ be24 k.unmeasured ++ be24 k.skipped := rfl

theorem Summary.bytes_length {x : Summary} (htag : x.tag.length = 16) : x.bytes.length = 57 := by
  simp [Summary.bytes, VerdictCounts.bytes_eq, be24, htag]

/-! ### READ_LOG (R160) -/

/-- The body of a READ_LOG (R186). -/
def logBody (segment : Byte) (first : U16) (count : Byte) : List Byte :=
  segment :: (fieldOf first ++ [count])

theorem logBody_first (segment : Byte) (first : U16) (count : Byte) :
    u16 (logBody segment first count) 1 = first.toNat := by
  rw [logBody, fieldOf, u16_succ, u16_of_be16]

section Request

variable {s : State} {tag segment : Byte} {first : U16} {count : Byte}

/-- A READ_LOG whose owner only replies answers with nothing changed but the link. -/
theorem readLog_answered (hs : s.Takes) {st : Status} {r : List Byte}
    (hserve : (s.served 0x28 tag).serveReadLog (logBody segment first count)
      = (s.served 0x28 tag).reply st r) :
    exec (.readLog tag segment first count) s = .next (s.answered .readLog tag st r) :=
  State.request_answered s s .readLog tag (logBody segment first count) hs rfl st r hserve

theorem serveReadLog_noSegment (hseg : 3 < segment.toNat) :
    s.serveReadLog (logBody segment first count) = s.refuse .badArg := by
  rw [State.serveReadLog, logBody, u8_cons, quadIndex_lt hseg]

/-- The checks of a READ_LOG that names a segment, in their order (R160). -/
theorem serveReadLog_segment {g : SegId} (hg : segment.toNat = g.val) :
    s.serveReadLog (logBody segment first count) =
      if count.toNat < 1 ∨ 32 < count.toNat then s.refuse .badArg
      else if (s.log.segments.get g).state ≠ .ready then s.refuse .badState
      else if (s.log.segments.get g).records.length < first.toNat + count.toNat then s.refuse .badArg
      else s.reply .ok (be16 (s.log.segments.get g).records.length
        ++ (((s.log.segments.get g).records.drop first.toNat).take count.toNat).flatMap
          LogRecord.bytes) := by
  have hsegment : u8 (logBody segment first count) 0 = g.val := hg
  have hcount : u8 (logBody segment first count) 3 = count.toNat := rfl
  simp only [State.serveReadLog, hsegment, quadIndex_val, logBody_first, hcount]

theorem serveReadLog_badCount {g : SegId} (hg : segment.toNat = g.val)
    (hcount : count.toNat < 1 ∨ 32 < count.toNat) :
    s.serveReadLog (logBody segment first count) = s.refuse .badArg :=
  (serveReadLog_segment hg).trans (if_pos hcount)

/-- A segment number or a count out of range is refused, whatever the segment holds (R160). -/
theorem serveReadLog_badArg (hbad : 3 < segment.toNat ∨ count.toNat < 1 ∨ 32 < count.toNat) :
    s.serveReadLog (logBody segment first count) = s.refuse .badArg := by
  by_cases hseg : 3 < segment.toNat
  · exact serveReadLog_noSegment hseg
  · exact serveReadLog_badCount (g := ⟨segment.toNat, by omega⟩) rfl (hbad.resolve_left hseg)

variable {g : SegId} (hg : segment.toNat = g.val) (hlo : 1 ≤ count.toNat) (hhi : count.toNat ≤ 32)
include hg hlo hhi

theorem serveReadLog_notReady (hstate : (s.log.segments.get g).state ≠ .ready) :
    s.serveReadLog (logBody segment first count) = s.refuse .badState := by
  rw [serveReadLog_segment hg, if_neg (by omega), if_pos hstate]

variable (hready : (s.log.segments.get g).state = .ready)
include hready

theorem serveReadLog_beyond (hend : (s.log.segments.get g).records.length < first.toNat + count.toNat) :
    s.serveReadLog (logBody segment first count) = s.refuse .badArg := by
  rw [serveReadLog_segment hg, if_neg (by omega), if_neg (not_not_intro hready), if_pos hend]

theorem serveReadLog_records (hend : first.toNat + count.toNat ≤ (s.log.segments.get g).records.length) :
    s.serveReadLog (logBody segment first count) =
      s.reply .ok (be16 (s.log.segments.get g).records.length
        ++ (((s.log.segments.get g).records.drop first.toNat).take count.toNat).flatMap
          LogRecord.bytes) := by
  rw [serveReadLog_segment hg, if_neg (by omega), if_neg (not_not_intro hready),
    if_neg (Nat.not_lt.mpr hend)]

end Request

/-- Settles O21: the checks of READ_LOG in their order, the records it answers, and the bytes of both
kinds of record. -/
theorem logIsRead : Obligations.LogIsRead := by
  refine ⟨?_, fun d => ⟨d.bytes_eq, d.bytes_length⟩, fun x htag => ⟨rfl, Summary.bytes_length htag⟩⟩
  intro s tag segment first count hs
  refine ⟨fun hbad => readLog_answered hs (serveReadLog_badArg hbad), fun g hg hlo hhi => ?_⟩
  exact ⟨fun hstate => readLog_answered hs (serveReadLog_notReady hg hlo hhi hstate),
    fun hready hend => readLog_answered hs (serveReadLog_beyond hg hlo hhi hready hend),
    fun hready hend => readLog_answered hs (serveReadLog_records hg hlo hhi hready hend)⟩

end Sys2Proof.Machine
end

section
/-! Proofs. The host link: what the checks of a completed frame find and what becomes of the frame
(R166), and the values IDENTIFY reports (R176). -/

namespace Sys2Proof.Machine

open Sys2Proof

/-! ### What the checks find (R166) -/

section Checks

variable {d : List Byte}

theorem checkFrame_of_short (hshort : d.length < 6) : checkFrame d = .format :=
  if_pos hshort

variable (hsize : 6 ≤ d.length)
include hsize

theorem checkFrame_of_crc_ne
    (hcrc : be16 (crc16 (d.take (d.length - 2))).toNat ≠ d.drop (d.length - 2)) :
    checkFrame d = .crc :=
  (if_neg (Nat.not_lt.mpr hsize)).trans (if_pos hcrc)

variable (hcrc : be16 (crc16 (d.take (d.length - 2))).toNat = d.drop (d.length - 2))
include hcrc

theorem checkFrame_of_field_bad (hfield : 1024 < u16 d 2 ∨ u16 d 2 ≠ d.length - 6) :
    checkFrame d = .length := by
  rw [checkFrame, if_neg (Nat.not_lt.mpr hsize), if_neg (not_not_intro hcrc)]
  exact if_pos hfield

/-- A length field equal to the bytes received is within the limit on bodies too, for the framer stores
no more than 1,030 bytes of a frame (R165). -/
theorem checkFrame_of_field_eq (hmax : d.length ≤ 1030) (hfield : u16 d 2 = d.length - 6) :
    checkFrame d = .valid ⟨d.getD 0 0, d.getD 1 0, (d.drop 4).take (d.length - 6)⟩ := by
  have hgood : ¬ (1024 < u16 d 2 ∨ u16 d 2 ≠ d.length - 6) := by omega
  rw [checkFrame, if_neg (Nat.not_lt.mpr hsize), if_neg (not_not_intro hcrc)]
  exact if_neg hgood

end Checks

/-! ### What becomes of a completed frame while none is held (R166) -/

section Completed

variable {s : State} {d : List Byte} (hheld : s.link.held = none)
include hheld

theorem State.completeFrame_of_format (hcheck : checkFrame d = .format) :
    s.completeFrame d = s.modLink (Link.count (fun k =>
      { k with formatErrors := bump k.formatErrors 1 })) := by
  rw [State.completeFrame, hheld, hcheck]
  rfl

theorem State.completeFrame_of_crc (hcheck : checkFrame d = .crc) :
    s.completeFrame d = s.modLink (Link.count (fun k =>
      { k with crcErrors := bump k.crcErrors 1 })) := by
  rw [State.completeFrame, hheld, hcheck]
  rfl

theorem State.completeFrame_of_length (hcheck : checkFrame d = .length) :
    s.completeFrame d = s.modLink (Link.count (fun k =>
      { k with lengthErrors := bump k.lengthErrors 1 })) := by
  rw [State.completeFrame, hheld, hcheck]
  rfl

theorem State.completeFrame_of_valid {f : Frame} (hcheck : checkFrame d = .valid f) :
    s.completeFrame d = (s.modLink (Link.count (fun k =>
      { k with framesValid := bump k.framesValid 1 }))).takeFrame f := by
  have hdeliver : s.completeFrame d = s.deliver f := by
    rw [State.completeFrame, hheld, hcheck]
    rfl
  rw [hdeliver, State.deliver, hheld]
  rfl

end Completed

/-! ### The event (R165, R166) -/

section Received

variable {s : State} {d : List Byte} (hne : d ≠ []) (hmax : d.length ≤ 1030)
include hne hmax

/-- A frame with bytes that is not overlong comes to its checks (R165). -/
theorem exec_hostFrameReceived :
    exec (.hostFrameReceived d) s = .next (s.completeFrame d).pump :=
  (if_neg hne).trans (if_neg (Nat.not_lt.mpr hmax))

/-- A discarded frame leaves a settled link nothing to send: only a counter changes (R166, R169). -/
theorem exec_hostFrameReceived_of_discarded (hsettled : s.link.Settled)
    {count : LinkCounters → LinkCounters}
    (hdiscard : s.completeFrame d = s.modLink (Link.count count)) :
    exec (.hostFrameReceived d) s = .next (s.modLink (Link.count count)) := by
  have hquiet : (s.modLink (Link.count count)).link.Settled := hsettled
  rw [exec_hostFrameReceived hne hmax, hdiscard, State.pump_settled hquiet]

end Received

/-- Settles O6: the first check that fails discards the frame and counts it; one that passes all three is
counted and taken. -/
theorem completedFrameIsChecked : Obligations.CompletedFrameIsChecked := by
  intro s d hheld hsettled hne hmax
  refine ⟨fun hshort => ?short, fun hsize hcrc => ?crc, fun hsize hcrc hfield => ?length,
    fun hsize hcrc hfield => ?valid⟩
  case short =>
    have hcheck := checkFrame_of_short hshort
    exact exec_hostFrameReceived_of_discarded hne hmax hsettled
      (State.completeFrame_of_format hheld hcheck)
  case crc =>
    have hcheck := checkFrame_of_crc_ne hsize hcrc
    exact exec_hostFrameReceived_of_discarded hne hmax hsettled
      (State.completeFrame_of_crc hheld hcheck)
  case length =>
    have hcheck := checkFrame_of_field_bad hsize hcrc hfield
    exact exec_hostFrameReceived_of_discarded hne hmax hsettled
      (State.completeFrame_of_length hheld hcheck)
  case valid =>
    have hcheck := checkFrame_of_field_eq hsize hcrc hmax hfield
    rw [exec_hostFrameReceived hne hmax, State.completeFrame_of_valid hheld hcheck]

/-! ### IDENTIFY (R176) -/

/-- The values of R176 in the widths of R186, byte by byte. -/
theorem identification_bytes : identification =
    [0x2D, 0x4E, 0x1D, 0xC4, 3, 4, 2, 4, 0x04, 0x00, 0x04, 0x00, 0x10, 0x00, 0x04, 0x00, 16,
      0x04, 0x00, 0x00, 0x01, 0x00, 0x00] := by
  decide

/-- Settles O16: IDENTIFY's owner only replies, with the values of R176, so nothing else changes. -/
theorem identifyReportsItsValues : Obligations.IdentifyReportsItsValues := by
  intro s tag htakes
  have hserve : (s.served ReqKind.identify.byte tag).serve .identify []
      = (s.served ReqKind.identify.byte tag).reply .ok identification := rfl
  rw [← identification_bytes]
  exact State.request_answered s s .identify tag [] htakes rfl .ok identification hserve

end Sys2Proof.Machine
end

section
/-! Proofs. Every command answers a next state in every state and leaves the queue of waiting commands
alone (chapter 95); a step is the front command carried out. -/

namespace Sys2Proof.Machine

open Sys2Proof

/-! ### Results that answer a next state -/

/-- The result is a next state, and that state has the property. -/
def Yields (r : Result) (P : State → Prop) : Prop := ∃ t, r = .next t ∧ P t

theorem Yields.next {t : State} {P : State → Prop} (h : P t) : Yields (.next t) P := ⟨t, rfl, h⟩

theorem Yields.of_next {r : Result} {P : State → Prop} (h : Yields r P) {t : State}
    (ht : r = .next t) : P t := by
  obtain ⟨u, hu, hP⟩ := h
  rw [hu] at ht
  exact Host.Outcome.next.inj ht ▸ hP

/-- A request command is the delivery of its frame, and then the transmitter's choice (R166, R169). -/
theorem exec_request {c : Instr} {f : Frame} (h : requestFrame c = some f) (s : State) :
    exec c s = .next (s.deliver f).pump := by
  cases c <;> cases h <;> rfl

/-! ### Requests leave the queue of waiting commands alone -/

theorem State.serveProgramBegin_pending (s : State) (b : List Byte) :
    (s.serveProgramBegin b).pending = s.pending := by
  dsimp only [State.serveProgramBegin, State.beginLoad]
  repeat' split
  all_goals simp

theorem State.serveProgramData_pending (s : State) (b : List Byte) :
    (s.serveProgramData b).pending = s.pending := by
  dsimp only [State.serveProgramData, State.appendRecords, State.replyFill]
  repeat' split
  all_goals simp

theorem State.serveProgramEnd_pending (s : State) (b : List Byte) :
    (s.serveProgramEnd b).pending = s.pending := by
  dsimp only [State.serveProgramEnd]
  repeat' split
  all_goals simp

theorem State.serveProgramErase_pending (s : State) (b : List Byte) :
    (s.serveProgramErase b).pending = s.pending := by
  dsimp only [State.serveProgramErase]
  repeat' split
  all_goals simp

theorem State.serveProgramStatus_pending (s : State) (b : List Byte) :
    (s.serveProgramStatus b).pending = s.pending := by
  dsimp only [State.serveProgramStatus]
  repeat' split
  all_goals simp

theorem State.configure_pending (s : State) (f : StationConfig) :
    (s.configure f).pending = s.pending := by
  dsimp only [State.configure]
  split <;> simp

theorem State.serveConfigure_pending (s : State) (b : List Byte) :
    (s.serveConfigure b).pending = s.pending := by
  dsimp only [State.serveConfigure]
  repeat' split
  all_goals simp [State.configure_pending]

theorem State.setMode_pending (s : State) (drain : Bool) : (s.setMode drain).pending = s.pending := by
  dsimp only [State.setMode]
  repeat' split
  all_goals simp

theorem State.serveSetMode_pending (s : State) (b : List Byte) :
    (s.serveSetMode b).pending = s.pending := by
  dsimp only [State.serveSetMode]
  repeat' split
  all_goals simp [State.setMode_pending]

theorem State.serveQueuePanel_pending (s : State) (b : List Byte) :
    (s.serveQueuePanel b).pending = s.pending := by
  dsimp only [State.serveQueuePanel]
  repeat' split
  all_goals simp

theorem State.serveCancelQueue_pending (s : State) : s.serveCancelQueue.pending = s.pending := by
  have hunpin : (s.flow.queue.foldl (fun s d => s.unpin d.slot) s).pending = s.pending :=
    foldl_keeps State.pending _ _ s (fun _ _ => rfl)
  dsimp only [State.serveCancelQueue]
  split <;> simp [hunpin]

theorem State.serveClearStop_pending (s : State) : s.serveClearStop.pending = s.pending := by
  dsimp only [State.serveClearStop]
  split <;> simp

theorem State.serveClearFault_pending (s : State) : s.serveClearFault.pending = s.pending := by
  dsimp only [State.serveClearFault]
  repeat' split
  all_goals simp

theorem State.servePanelStatus_pending (s : State) (b : List Byte) :
    (s.servePanelStatus b).pending = s.pending := by
  dsimp only [State.servePanelStatus]
  split <;> simp

theorem State.serveReadVerdicts_pending (s : State) (b : List Byte) :
    (s.serveReadVerdicts b).pending = s.pending := by
  dsimp only [State.serveReadVerdicts]
  repeat' split
  all_goals simp

theorem State.serveReadLog_pending (s : State) (b : List Byte) :
    (s.serveReadLog b).pending = s.pending := by
  dsimp only [State.serveReadLog]
  repeat' split
  all_goals simp

theorem State.serveReleaseSegment_pending (s : State) (b : List Byte) :
    (s.serveReleaseSegment b).pending = s.pending := by
  dsimp only [State.serveReleaseSegment]
  split <;> simp

theorem State.serveReadDrift_pending (s : State) (b : List Byte) :
    (s.serveReadDrift b).pending = s.pending := by
  dsimp only [State.serveReadDrift]
  repeat' split
  all_goals simp

theorem State.serveResetDrift_pending (s : State) (b : List Byte) :
    (s.serveResetDrift b).pending = s.pending := by
  dsimp only [State.serveResetDrift]
  repeat' split
  all_goals simp

theorem State.serveReadRepeat_pending (s : State) (b : List Byte) :
    (s.serveReadRepeat b).pending = s.pending := by
  dsimp only [State.serveReadRepeat]
  split
  · rfl
  · split <;> simp

theorem State.serveClearRepeat_pending (s : State) (b : List Byte) :
    (s.serveClearRepeat b).pending = s.pending := by
  dsimp only [State.serveClearRepeat]
  repeat' split
  all_goals simp

theorem State.serveResetStation_pending (s : State) : s.serveResetStation.pending = s.pending := by
  dsimp only [State.serveResetStation]
  split <;> rfl

theorem State.serve_pending (s : State) (k : ReqKind) (b : List Byte) :
    (s.serve k b).pending = s.pending := by
  cases k with
  | identify => rfl
  | configureStation => exact s.serveConfigure_pending b
  | setMode => exact s.serveSetMode_pending b
  | programBegin => exact s.serveProgramBegin_pending b
  | programData => exact s.serveProgramData_pending b
  | programEnd => exact s.serveProgramEnd_pending b
  | programErase => exact s.serveProgramErase_pending b
  | programStatus => exact s.serveProgramStatus_pending b
  | queuePanel => exact s.serveQueuePanel_pending b
  | cancelQueue => exact s.serveCancelQueue_pending
  | panelStatus => exact s.servePanelStatus_pending b
  | readVerdicts => exact s.serveReadVerdicts_pending b
  | readLog => exact s.serveReadLog_pending b
  | releaseSegment => exact s.serveReleaseSegment_pending b
  | readDrift => exact s.serveReadDrift_pending b
  | resetDrift => exact s.serveResetDrift_pending b
  | readRepeat => exact s.serveReadRepeat_pending b
  | clearRepeat => exact s.serveClearRepeat_pending b
  | readOvenCodes => rfl
  | setNoticeMask => rfl
  | clearStop => exact s.serveClearStop_pending
  | clearFault => exact s.serveClearFault_pending
  | resetStation => exact s.serveResetStation_pending
  | readCounters => rfl
  | clearCounters => rfl

theorem State.takeFrame_pending (s : State) (f : Frame) : (s.takeFrame f).pending = s.pending := by
  dsimp only [State.takeFrame, State.serveFrame, State.turnAway]
  repeat' split
  all_goals simp [State.serve_pending, State.countUnknownKind]

theorem State.deliver_pending (s : State) (f : Frame) : (s.deliver f).pending = s.pending := by
  dsimp only [State.deliver]
  split
  · rfl
  · simp [State.takeFrame_pending]

theorem State.completeFrame_pending (s : State) (d : List Byte) :
    (s.completeFrame d).pending = s.pending := by
  dsimp only [State.completeFrame]
  repeat' split
  · rfl
  · rfl
  · rfl
  · rfl
  · exact s.deliver_pending _

theorem State.framerEvent_pending (s : State) (e : FramerEvent) :
    (s.framerEvent e).pending = s.pending := by
  cases e with
  | none => rfl
  | formatError => rfl
  | complete d unstored =>
    dsimp only [State.framerEvent]
    split
    · rfl
    · exact s.completeFrame_pending d

/-! ### Events leave the queue of waiting commands alone -/

/-- The result is a next state with the same commands waiting. -/
abbrev KeepsQueue (r : Result) (s : State) : Prop := Yields r (fun t => t.pending = s.pending)

theorem execRequest_keepsQueue {c : Instr} {f : Frame} (h : requestFrame c = some f) (s : State) :
    KeepsQueue (exec c s) s :=
  exec_request h s ▸ .next (s.deliver_pending f)

theorem execHostFrameReceived_keepsQueue (d : List Byte) (s : State) :
    KeepsQueue (execHostFrameReceived d s) s := by
  unfold execHostFrameReceived
  repeat' split
  · exact .next rfl
  · exact .next rfl
  · exact .next (s.completeFrame_pending d)

theorem execHostByteReceived_keepsQueue (b : Byte) (stop : Bool) (s : State) :
    KeepsQueue (execHostByteReceived b stop s) s :=
  .next (State.framerEvent_pending _ _)

theorem execHeldFrameTaken_keepsQueue (s : State) : KeepsQueue (execHeldFrameTaken s) s := by
  unfold execHeldFrameTaken
  repeat' split
  · exact .next rfl
  · exact .next (by simp [State.takeFrame_pending])
  · exact .next rfl

theorem execTransmitComplete_keepsQueue (s : State) : KeepsQueue (execTransmitComplete s) s := by
  unfold execTransmitComplete
  split
  · exact .next rfl
  · exact .next rfl

theorem execValidationComplete_keepsQueue (s : State) : KeepsQueue (execValidationComplete s) s := by
  unfold execValidationComplete
  repeat' split
  · exact .next rfl
  · refine .next ?_
    dsimp only [State.settleValidation]
    split <;> simp
  · exact .next rfl

theorem execStationResetComplete_keepsQueue (s : State) :
    KeepsQueue (execStationResetComplete s) s := by
  unfold execStationResetComplete
  split
  · exact .next rfl
  · exact .next rfl

theorem execMeasureOccRise_keepsQueue (s : State) : KeepsQueue (execMeasureOccRise s) s := by
  dsimp only [execMeasureOccRise]
  split
  · exact .next (by simp)
  · exact .next (by simp)

theorem execMeasureOccFall_keepsQueue (s : State) : KeepsQueue (execMeasureOccFall s) s := by
  refine .next ?_
  repeat' split
  all_goals simp

theorem execExitOccRise_keepsQueue (s : State) : KeepsQueue (execExitOccRise s) s := by
  refine .next ?_
  split <;> simp

theorem execExitOccFall_keepsQueue (s : State) : KeepsQueue (execExitOccFall s) s := by
  refine .next ?_
  repeat' split
  all_goals simp

theorem execStopRise_keepsQueue (s : State) : KeepsQueue (execStopRise s) s := by
  dsimp only [execStopRise]
  split
  · exact .next (by simp)
  · exact .next rfl

theorem execExitTimerExpiry_keepsQueue (s : State) : KeepsQueue (execExitTimerExpiry s) s := by
  dsimp only [execExitTimerExpiry]
  split
  · exact .next (by simp)
  · exact .next rfl

theorem execTaktDeadlineExpiry_keepsQueue (c : CtxId) (s : State) :
    KeepsQueue (execTaktDeadlineExpiry c s) s := by
  unfold execTaktDeadlineExpiry
  split
  · exact .next (by simp)
  · exact .next rfl

theorem execLocateResult_keepsQueue (p : PortId) (good : Bool) (b : List Byte) (s : State) :
    KeepsQueue (execLocateResult p good b s) s := by
  dsimp only [execLocateResult]
  split
  · refine .next ?_
    split <;> simp
  · exact .next rfl

theorem execLocateTimerExpiry_keepsQueue (p : PortId) (s : State) :
    KeepsQueue (execLocateTimerExpiry p s) s := by
  dsimp only [execLocateTimerExpiry]
  split
  · exact .next (by simp)
  · exact .next rfl

theorem execHeadReady_keepsQueue (p : PortId) (good : Bool) (b : List Byte) (s : State) :
    KeepsQueue (execHeadReady p good b s) s := by
  dsimp only [execHeadReady]
  repeat' split
  · exact .next (by simp)
  · exact .next rfl
  · exact .next rfl

theorem execQueryTimerExpiry_keepsQueue (p : PortId) (s : State) :
    KeepsQueue (execQueryTimerExpiry p s) s := by
  unfold execQueryTimerExpiry
  split
  · exact .next rfl
  · exact .next rfl

theorem execStartTimerExpiry_keepsQueue (p : PortId) (s : State) :
    KeepsQueue (execStartTimerExpiry p s) s := by
  dsimp only [execStartTimerExpiry]
  split
  · exact .next (by simp)
  · exact .next rfl

theorem execTileHeader_keepsQueue (p : PortId) (seq : Byte) (row col : U16) (s : State) :
    KeepsQueue (execTileHeader p seq row col s) s := by
  dsimp only [execTileHeader]
  split
  · exact .next rfl
  · exact .next rfl

theorem execTile_keepsQueue (p : PortId) (good : Bool) (data : List Byte) (s : State) :
    KeepsQueue (execTile p good data s) s := by
  dsimp only [execTile]
  split
  · exact .next (by simp)
  · exact .next rfl

theorem execTileLost_keepsQueue (p : PortId) (good : Bool) (b : List Byte) (s : State) :
    KeepsQueue (execTileLost p good b s) s := by
  dsimp only [execTileLost]
  repeat' split
  · exact .next (by simp)
  · exact .next rfl
  · exact .next rfl

theorem execScanEnd_keepsQueue (p : PortId) (good : Bool) (b : List Byte) (s : State) :
    KeepsQueue (execScanEnd p good b s) s := by
  dsimp only [execScanEnd]
  repeat' split
  · exact .next (by simp)
  · exact .next rfl
  · exact .next rfl

theorem execHeadUnknownFrame_keepsQueue (p : PortId) (s : State) :
    KeepsQueue (execHeadUnknownFrame p s) s := by
  unfold execHeadUnknownFrame
  split
  · exact .next rfl
  · exact .next rfl

theorem execTileTimerExpiry_keepsQueue (p : PortId) (s : State) :
    KeepsQueue (execTileTimerExpiry p s) s := by
  dsimp only [execTileTimerExpiry]
  split
  · exact .next (by simp)
  · exact .next rfl

theorem execIntakeComplete_keepsQueue (s : State) : KeepsQueue (execIntakeComplete s) s := by
  unfold execIntakeComplete
  split
  · exact .next rfl
  · refine .next ?_
    split <;> simp

theorem execEvaluationComplete_keepsQueue (s : State) : KeepsQueue (execEvaluationComplete s) s := by
  unfold execEvaluationComplete
  split
  · exact .next (by simp)
  · exact .next rfl

theorem State.sampleRun_pending (s : State) (code : BitVec 4) (n : Nat) :
    (s.sampleRun code n).pending = s.pending := by
  induction n generalizing s with
  | zero => rfl
  | succ n ih => exact (ih _).trans (s.sampleOven_pending code)

theorem exec_keepsQueue (c : Instr) (s : State) : KeepsQueue (exec c s) s := by
  cases c with
  | coldReset => exact .next rfl
  | hostFrameReceived d => exact execHostFrameReceived_keepsQueue d s
  | heldFrameTaken => exact execHeldFrameTaken_keepsQueue s
  | transmitComplete => exact execTransmitComplete_keepsQueue s
  | validationComplete => exact execValidationComplete_keepsQueue s
  | stationResetComplete => exact execStationResetComplete_keepsQueue s
  | measureOccRise => exact execMeasureOccRise_keepsQueue s
  | measureOccFall => exact execMeasureOccFall_keepsQueue s
  | exitOccRise => exact execExitOccRise_keepsQueue s
  | exitOccFall => exact execExitOccFall_keepsQueue s
  | downstreamReadyRise => exact .next (by simp)
  | stopFall => exact .next rfl
  | stopRise => exact execStopRise_keepsQueue s
  | exitTimerExpiry => exact execExitTimerExpiry_keepsQueue s
  | taktDeadlineExpiry ctx => exact execTaktDeadlineExpiry_keepsQueue ctx s
  | locateResult p good b => exact execLocateResult_keepsQueue p good b s
  | locateTimerExpiry p => exact execLocateTimerExpiry_keepsQueue p s
  | armingComplete => exact .next (by simp)
  | headReady p good b => exact execHeadReady_keepsQueue p good b s
  | queryTimerExpiry p => exact execQueryTimerExpiry_keepsQueue p s
  | startTimerExpiry p => exact execStartTimerExpiry_keepsQueue p s
  | tileHeader p seq row col => exact execTileHeader_keepsQueue p seq row col s
  | tile p good data => exact execTile_keepsQueue p good data s
  | tileLost p good b => exact execTileLost_keepsQueue p good b s
  | scanEnd p good b => exact execScanEnd_keepsQueue p good b s
  | headUnknownFrame p => exact execHeadUnknownFrame_keepsQueue p s
  | tileTimerExpiry p => exact execTileTimerExpiry_keepsQueue p s
  | intakeComplete => exact execIntakeComplete_keepsQueue s
  | evaluationComplete => exact execEvaluationComplete_keepsQueue s
  | repeatSiteUpdate => exact .next (by simp)
  | ovenRecognition code => exact .next (s.sampleRun_pending code _)
  | ovenSample code ready => exact .next (s.sampleOven_pending code)
  | hostByteReceived b stop => exact execHostByteReceived_keepsQueue b stop s
  | armingJointVisit => exact .next (by simp)
  | _ => exact execRequest_keepsQueue rfl s

/-- Settles O2: command by command, the events in their branches and the requests through their owners. -/
theorem everyCommandIsCarriedOut : Obligations.EveryCommandIsCarriedOut :=
  exec_keepsQueue

/-- Settles O1: the front command is what `step` matches on, so each part is its definition. -/
theorem stepRunsTheFrontCommand : Obligations.StepRunsTheFrontCommand := by
  refine ⟨fun c s => rfl, fun c rest s hs => ?_, fun s hs => ?_⟩
  · rw [step, hs]
  · rw [step, hs]

end Sys2Proof.Machine
end

section
/-! Proofs. The link controller keeps its capacities and its standing rules at every step (R165, R168,
R169, R172 to R174). -/

namespace Sys2Proof.Machine

open Sys2Proof

/-! ### What keeps the link controller sound -/

/-- The soundness of the link concerns its queues, its framer and its mask alone. -/
theorem Link.Sound.congr {l m : Link} (h : l.Sound) (hn : m.notices = l.notices)
    (hr : m.refusals.length ≤ Config.refusalListSize) (hf : m.framer.count ≤ Config.frameMax)
    (hp : m.pending = l.pending) (hm : m.mask = l.mask) : m.Sound := by
  obtain ⟨hnotices, -, -, ⟨hwf, hkind, hcount⟩, hdrained⟩ := h
  refine ⟨hn ▸ hnotices, hr, hf, ⟨hp ▸ hwf, hp ▸ hkind, hp ▸ hcount⟩, ?_⟩
  simpa only [Link.Drained, Link.masked, hn, hp, hm] using hdrained

/-- What the soundness of the link concerns is as it was. -/
theorem Link.Sound.of_same {l m : Link} (h : l.Sound) (hn : m.notices = l.notices)
    (hr : m.refusals = l.refusals) (hf : m.framer = l.framer) (hp : m.pending = l.pending)
    (hm : m.mask = l.mask) : m.Sound :=
  h.congr hn (hr ▸ h.refusals) (hf ▸ h.framer) hp hm

/-- With no notice in the queue and none pending, the queue is drained. -/
theorem Link.Sound.emptied {l m : Link} (h : l.Sound) (hn : m.notices = [])
    (hr : m.refusals = l.refusals) (hf : m.framer = l.framer) (hp : m.pending = []) : m.Sound := by
  refine ⟨by simp [hn], hr ▸ h.refusals, hf ▸ h.framer, ⟨?_, ?_, ?_⟩, Or.inr fun k hk => ?_⟩
  · exact hp ▸ List.Pairwise.nil
  · simp [hp]
  · simp [hp]
  · simp [hp, mapGet]

/-- A new mask leaves the queue to be drained (R175). -/
theorem Link.Sound.masked {l : Link} (h : l.Sound) (m : Byte) : (Link.drain { l with mask := m }).Sound :=
  Link.Bounded.drain ⟨h.notices, h.refusals, h.framer,
    ⟨h.pending.wf, h.pending.kind, h.pending.count⟩⟩

theorem Link.initial_ok : Link.initial.Ok :=
  ⟨by decide, by decide, by decide, ⟨List.Pairwise.nil, by simp [Link.initial], by simp [Link.initial]⟩,
    Or.inr fun _ _ => rfl, fun _ => ⟨rfl, rfl, rfl⟩⟩

/-- Whatever byte it takes, the framer counts no more than 1,030 decoded bytes (R165, R168). -/
theorem Framer.append_count (f : Framer) (held : Bool) (b : Byte) :
    (f.append held b).1.count ≤ Config.frameMax := by
  unfold Framer.append
  split
  · decide
  · split
    · simp only [Framer.count] at *; omega
    · simp only [Framer.count, List.length_append, List.length_cons, List.length_nil] at *; omega

theorem Framer.take_count {f : Framer} (held : Bool) (b : Byte) (stop : Bool)
    (h : f.count ≤ Config.frameMax) : (f.take held b stop).1.count ≤ Config.frameMax := by
  have hempty (st : FramerState) : (Framer.empty st).count ≤ Config.frameMax := Nat.zero_le _
  cases hst : f.state with
  | hunt =>
    simp only [Framer.take, hst, Framer.inHunt]
    repeat' split
    · exact hempty _
    · exact h
    · exact h
  | frame =>
    simp only [Framer.take, hst, Framer.inFrame]
    repeat' split
    · exact hempty _
    · exact hempty _
    · exact h
    · exact append_count f held b
    · exact hempty _
  | escape =>
    simp only [Framer.take, hst, Framer.inEscape]
    repeat' split
    · exact append_count f held _
    · exact append_count f held _
    · exact hempty _
    · exact hempty _
    · exact hempty _

/-! ### Requests keep the link sound -/

/-- Notices raised and then a reply formed. -/
theorem Link.Sound.raised_reply {l m : Link} (h : l.Sound) (hr : l.Raises m) (st : Status)
    (b : List Byte) : (m.reply st b).Sound :=
  (h.raises hr).reply st b

theorem State.setMode_raises (s : State) (drain : Bool) : s.link.Raises (s.setMode drain).link := by
  dsimp only [State.setMode]
  repeat' split
  · exact s.changeStation_raises _ _
  · exact s.changeStation_raises _ _
  · exact s.changeStation_raises _ _
  · exact s.changeStation_raises _ _
  · exact .refl _

theorem State.completeRelease_raises (s : State) (c : CtxId) :
    s.link.Raises (s.completeRelease c).link :=
  State.freeContext_raises (s.modFlow _) c

theorem State.beginLoad_raises (s : State) (k : SlotId) (h : Header) :
    s.link.Raises (s.beginLoad k h).link := by
  rw [State.beginLoad, State.driveEntry_link, State.modMonitor_link]
  exact State.unprimeRun_raises (s.modSlot k _) k 0 64

section Owners

variable {s : State} (h : s.link.Sound) (b : List Byte)
include h

theorem State.serveConfigure_sound : (s.serveConfigure b).link.Sound := by
  dsimp only [State.serveConfigure, State.configure]
  repeat' split
  · exact h.reply _ _
  · exact h.reply _ _
  · exact h.raised_reply (State.changeStation_raises _ _ _) _ _
  · exact h.reply _ _

theorem State.serveSetMode_sound : (s.serveSetMode b).link.Sound := by
  dsimp only [State.serveSetMode]
  repeat' split
  · exact h.reply _ _
  · exact h.reply _ _
  · exact h.raised_reply (by simpa using s.setMode_raises (u8 b 0 == 1)) _ _

theorem State.serveProgramBegin_sound : (s.serveProgramBegin b).link.Sound := by
  dsimp only [State.serveProgramBegin]
  repeat' split
  · exact h.reply _ _
  · exact h.reply _ _
  · exact h.reply _ _
  · exact h.reply _ _
  · rw [State.reply_link]
    exact h.raised_reply (s.beginLoad_raises _ _) _ _
  · exact h.reply _ _

theorem State.serveProgramData_sound : (s.serveProgramData b).link.Sound := by
  dsimp only [State.serveProgramData, State.appendRecords, State.replyFill]
  repeat' split
  all_goals exact h.reply _ _

theorem State.serveProgramEnd_sound : (s.serveProgramEnd b).link.Sound := by
  dsimp only [State.serveProgramEnd]
  repeat' split
  · exact h.reply _ _
  · exact h.reply _ _
  · exact h

theorem State.serveProgramErase_sound : (s.serveProgramErase b).link.Sound := by
  dsimp only [State.serveProgramErase]
  repeat' split
  all_goals exact h.reply _ _

theorem State.serveProgramStatus_sound : (s.serveProgramStatus b).link.Sound := by
  dsimp only [State.serveProgramStatus]
  split
  all_goals exact h.reply _ _

theorem State.serveQueuePanel_sound : (s.serveQueuePanel b).link.Sound := by
  dsimp only [State.serveQueuePanel]
  repeat' split
  all_goals exact h.reply _ _

theorem State.serveCancelQueue_sound : s.serveCancelQueue.link.Sound := by
  have hunpin : (s.flow.queue.foldl (fun s d => s.unpin d.slot) s).link = s.link :=
    foldl_keeps State.link _ _ s (fun _ _ => rfl)
  dsimp only [State.serveCancelQueue]
  split
  · exact h.reply _ _
  · simpa [hunpin] using h.reply _ _

theorem State.serveClearStop_sound : s.serveClearStop.link.Sound := by
  dsimp only [State.serveClearStop]
  split
  · exact h.reply _ _
  · exact h.raised_reply (by simpa using s.changeStation_raises _ _) _ _

theorem State.serveClearFault_sound : s.serveClearFault.link.Sound := by
  dsimp only [State.serveClearFault]
  repeat' split
  · exact h.reply _ _
  · refine h.raised_reply ?_ _ _
    simpa using (State.freeContext_raises (s.modFlow _) _).trans (State.changeStation_raises _ _ _)
  · exact h.raised_reply (by simpa using s.changeStation_raises _ _) _ _

theorem State.servePanelStatus_sound : (s.servePanelStatus b).link.Sound := by
  dsimp only [State.servePanelStatus]
  split
  all_goals exact h.reply _ _

theorem State.serveReadVerdicts_sound : (s.serveReadVerdicts b).link.Sound := by
  dsimp only [State.serveReadVerdicts]
  repeat' split
  all_goals exact h.reply _ _

theorem State.serveReadLog_sound : (s.serveReadLog b).link.Sound := by
  dsimp only [State.serveReadLog]
  repeat' split
  all_goals exact h.reply _ _

theorem State.serveReleaseSegment_sound : (s.serveReleaseSegment b).link.Sound := by
  dsimp only [State.serveReleaseSegment]
  split
  all_goals exact h.reply _ _

theorem State.serveReadDrift_sound : (s.serveReadDrift b).link.Sound := by
  dsimp only [State.serveReadDrift]
  repeat' split
  all_goals exact h.reply _ _

theorem State.serveResetDrift_sound : (s.serveResetDrift b).link.Sound := by
  dsimp only [State.serveResetDrift]
  repeat' split
  · exact h.reply _ _
  · exact h.reply _ _
  · exact h.reply _ _
  · exact h.raised_reply (s.unprimeRun_raises _ _ _) _ _

theorem State.serveReadRepeat_sound : (s.serveReadRepeat b).link.Sound := by
  dsimp only [State.serveReadRepeat]
  split
  · exact h.reply _ _
  · split
    all_goals exact h.reply _ _

theorem State.serveClearRepeat_sound : (s.serveClearRepeat b).link.Sound := by
  dsimp only [State.serveClearRepeat]
  repeat' split
  all_goals exact h.reply _ _

theorem State.serveResetStation_sound : s.serveResetStation.link.Sound := by
  dsimp only [State.serveResetStation]
  split
  · exact h.reply _ _
  · exact h.of_same rfl rfl rfl rfl rfl

theorem State.serveClearCounters_sound : s.serveClearCounters.link.Sound :=
  Link.Sound.reply (l := s.clearCounters.link) (h.of_same rfl rfl rfl rfl rfl) _ _

theorem State.serve_sound (k : ReqKind) : (s.serve k b).link.Sound := by
  cases k with
  | identify => exact h.reply _ _
  | configureStation => exact serveConfigure_sound h b
  | setMode => exact serveSetMode_sound h b
  | programBegin => exact serveProgramBegin_sound h b
  | programData => exact serveProgramData_sound h b
  | programEnd => exact serveProgramEnd_sound h b
  | programErase => exact serveProgramErase_sound h b
  | programStatus => exact serveProgramStatus_sound h b
  | queuePanel => exact serveQueuePanel_sound h b
  | cancelQueue => exact serveCancelQueue_sound h
  | panelStatus => exact servePanelStatus_sound h b
  | readVerdicts => exact serveReadVerdicts_sound h b
  | readLog => exact serveReadLog_sound h b
  | releaseSegment => exact serveReleaseSegment_sound h b
  | readDrift => exact serveReadDrift_sound h b
  | resetDrift => exact serveResetDrift_sound h b
  | readRepeat => exact serveReadRepeat_sound h b
  | clearRepeat => exact serveClearRepeat_sound h b
  | readOvenCodes => exact h.reply _ _
  | setNoticeMask => exact (h.reply _ _).masked _
  | clearStop => exact serveClearStop_sound h
  | clearFault => exact serveClearFault_sound h
  | resetStation => exact serveResetStation_sound h
  | readCounters => exact h.reply _ _
  | clearCounters => exact serveClearCounters_sound h

omit b

theorem State.serveFrame_sound (f : Frame) : (s.serveFrame f).link.Sound := by
  unfold State.serveFrame
  repeat' split
  · exact Link.Sound.reply (l := s.countUnknownKind.link) (h.of_same rfl rfl rfl rfl rfl) _ _
  · exact serve_sound h _ _
  · exact h.reply _ _

/-- An answer joins a refusal list that has room for it (R168). -/
theorem State.turnAway_sound (f : Frame) (hroom : s.link.refusals.length < Config.refusalListSize) :
    (s.turnAway f).link.Sound := by
  have hlen (a : Answer) : (s.link.refusals ++ [a]).length ≤ Config.refusalListSize := by
    simpa using hroom
  unfold State.turnAway
  split
  · exact h.congr rfl (hlen _) h.framer rfl rfl
  · exact h.congr rfl (hlen _) h.framer rfl rfl

theorem State.takeFrame_sound (f : Frame) : (s.takeFrame f).link.Sound := by
  unfold State.takeFrame
  repeat' split
  · exact State.serveFrame_sound (s := s.modLink _) (h.of_same rfl rfl rfl rfl rfl) f
  · exact turnAway_sound h f (by assumption)
  · exact h.of_same rfl rfl rfl rfl rfl

theorem State.deliver_sound (f : Frame) : (s.deliver f).link.Sound := by
  unfold State.deliver
  split
  · exact h.of_same rfl rfl rfl rfl rfl
  · exact State.takeFrame_sound (s := s.modLink _) (h.of_same rfl rfl rfl rfl rfl) f

theorem State.completeFrame_sound (d : List Byte) : (s.completeFrame d).link.Sound := by
  unfold State.completeFrame
  repeat' split
  · exact h.of_same rfl rfl rfl rfl rfl
  · exact h.of_same rfl rfl rfl rfl rfl
  · exact h.of_same rfl rfl rfl rfl rfl
  · exact h.of_same rfl rfl rfl rfl rfl
  · exact deliver_sound h _

theorem State.framerEvent_sound (e : FramerEvent) : (s.framerEvent e).link.Sound := by
  cases e with
  | none => exact h
  | formatError => exact h.of_same rfl rfl rfl rfl rfl
  | complete d unstored =>
    dsimp only [State.framerEvent]
    split
    · exact h.of_same rfl rfl rfl rfl rfl
    · exact completeFrame_sound h d

end Owners

/-! ### Events keep the link sound -/

/-- The result is a next state whose link controller is sound and settled. -/
abbrev LinkOk (r : Result) : Prop := Yields r (fun t => t.link.Ok)

/-- An event that raises notices ends with the transmitter's choice (R169). -/
theorem Link.Ok.raised {l m : Link} (h : l.Ok) (hr : l.Raises m) : m.pump.Ok :=
  (h.sound.raises hr).pump

section Events

variable {s : State} (h : s.link.Ok)
include h

theorem execHostFrameReceived_linkOk (d : List Byte) : LinkOk (execHostFrameReceived d s) := by
  unfold execHostFrameReceived
  repeat' split
  · exact .next h
  · have hsound : s.countFormatError.link.Sound := h.sound.of_same rfl rfl rfl rfl rfl
    exact .next (hsound.ok h.settled)
  · exact .next (State.completeFrame_sound h.sound d).pump

theorem execHostByteReceived_linkOk (b : Byte) (stop : Bool) :
    LinkOk (execHostByteReceived b stop s) := by
  have hcount := Framer.take_count s.link.held.isSome b stop h.framer
  have hsound : (s.modLink (fun l => { l with
      framer := (l.framer.take s.link.held.isSome b stop).1 })).link.Sound :=
    h.sound.congr rfl h.refusals hcount rfl rfl
  exact .next (State.framerEvent_sound hsound _).pump

theorem execHeldFrameTaken_linkOk : LinkOk (execHeldFrameTaken s) := by
  unfold execHeldFrameTaken
  repeat' split
  · exact .next h
  · exact .next (State.takeFrame_sound (s := s.modLink _)
      (h.sound.of_same rfl rfl rfl rfl rfl) _).pump
  · exact .next h

theorem execTransmitComplete_linkOk : LinkOk (execTransmitComplete s) := by
  unfold execTransmitComplete
  split
  · exact .next h
  · refine .next ?_
    rw [State.pump_link]
    exact Link.Sound.pump (h.sound.of_same rfl rfl rfl rfl rfl)

theorem execStationResetComplete_linkOk : LinkOk (execStationResetComplete s) := by
  unfold execStationResetComplete
  split
  · exact .next h
  · refine .next (Link.Sound.pump (Link.Sound.reply ?_ _ _))
    exact h.sound.emptied rfl rfl rfl rfl

theorem execValidationComplete_linkOk : LinkOk (execValidationComplete s) := by
  unfold execValidationComplete
  repeat' split
  · exact .next h
  · refine .next ?_
    dsimp only [State.settleValidation]
    split
    all_goals exact (h.sound.reply _ _).pump
  · exact .next h

theorem execMeasureOccRise_linkOk : LinkOk (execMeasureOccRise s) := by
  dsimp only [execMeasureOccRise]
  split
  · exact .next (h.raised (by simpa using State.arrive_raises (s.modPins _) _ _))
  · exact .next (h.raised (.of_eq (by simp)))

theorem execMeasureOccFall_linkOk : LinkOk (execMeasureOccFall s) := by
  refine .next (h.raised ?_)
  repeat' split
  · exact .of_eq (by simp)
  · simpa using State.removeBoard_raises ((s.modPins _).modFlow _) _
  · exact .of_eq (by simp)

theorem execExitOccRise_linkOk : LinkOk (execExitOccRise s) := by
  refine .next (h.raised ?_)
  split
  · exact .of_eq (by simp)
  · exact .of_eq (by simp)

theorem execExitOccFall_linkOk : LinkOk (execExitOccFall s) := by
  refine .next (h.raised ?_)
  rw [State.driveLines_link]
  repeat' split
  · exact State.completeRelease_raises ((s.modPins _).modFlow _) _
  · exact State.removeBoard_raises ((s.modPins _).modFlow _) _
  · exact .refl _

theorem execStopRise_linkOk : LinkOk (execStopRise s) := by
  dsimp only [execStopRise]
  split
  · exact .next (h.raised (by simpa using State.enterHeld_raises ((s.modPins _).modFlow _) _ _))
  · exact .next h

theorem execExitTimerExpiry_linkOk : LinkOk (execExitTimerExpiry s) := by
  dsimp only [execExitTimerExpiry]
  split
  · exact .next (h.raised (by simpa using State.enterHeld_raises (s.modFlow _) _ _))
  · exact .next h

theorem execTaktDeadlineExpiry_linkOk (c : CtxId) : LinkOk (execTaktDeadlineExpiry c s) := by
  unfold execTaktDeadlineExpiry
  split
  · exact .next (h.raised (s.lateDecision_raises c))
  · exact .next h

/-- What the alignment unit takes of a frame: the resolution of a locate, or a stale frame (R46). -/
theorem State.locateFrame_linkOk (p : PortId) (good : Bool) (b : List Byte) :
    (s.locateFrame p good b).link.Ok := by
  unfold State.locateFrame
  repeat' split
  · exact h.raised (s.resolveLocate_raises _ _ _)
  · exact h.raised (s.resolveLocate_raises _ _ _)
  · exact h
  · exact h

theorem execLocateResult_linkOk (p : PortId) (good : Bool) (b : List Byte) :
    LinkOk (execLocateResult p good b s) := by
  dsimp only [execLocateResult]
  split
  · refine .next ?_
    split
    · exact State.locateFrame_linkOk (s := s.heard p) h p good b
    · exact State.locateFrame_linkOk (s := (s.heard p).countFrameError p) h p good b
  · exact .next h

theorem execLocateTimerExpiry_linkOk (p : PortId) : LinkOk (execLocateTimerExpiry p s) := by
  dsimp only [execLocateTimerExpiry]
  split
  · exact .next (h.raised (State.resolveLocate_raises (s.modAlign _) _ _ _))
  · exact .next h

theorem execHeadReady_linkOk (p : PortId) (good : Bool) (b : List Byte) :
    LinkOk (execHeadReady p good b s) := by
  dsimp only [execHeadReady]
  repeat' split
  · exact .next (by simpa using h)
  · exact .next h
  · exact .next h

theorem execQueryTimerExpiry_linkOk (p : PortId) : LinkOk (execQueryTimerExpiry p s) := by
  unfold execQueryTimerExpiry
  split
  · exact .next h
  · exact .next h

theorem execStartTimerExpiry_linkOk (p : PortId) : LinkOk (execStartTimerExpiry p s) := by
  dsimp only [execStartTimerExpiry]
  split
  · refine .next (h.raised ?_)
    exact ((State.faultHead_raises (s.modPort p _) p _ _).trans (State.closingTest_raises _)).trans
      (State.scanEndTest_raises _)
  · exact .next h

theorem execTileHeader_linkOk (p : PortId) (seq : Byte) (row col : U16) :
    LinkOk (execTileHeader p seq row col s) := by
  dsimp only [execTileHeader]
  split
  · exact .next h
  · exact .next h

theorem execTile_linkOk (p : PortId) (good : Bool) (data : List Byte) :
    LinkOk (execTile p good data s) := by
  dsimp only [execTile]
  split
  · exact .next (h.raised (State.grant_raises ((s.heard p).modPort p _)))
  · exact .next h

theorem execTileLost_linkOk (p : PortId) (good : Bool) (b : List Byte) :
    LinkOk (execTileLost p good b s) := by
  dsimp only [execTileLost]
  repeat' split
  · exact .next (h.raised (State.grant_raises ((s.heard p).modPort p _)))
  · exact .next h
  · exact .next h

theorem execScanEnd_linkOk (p : PortId) (good : Bool) (b : List Byte) :
    LinkOk (execScanEnd p good b s) := by
  dsimp only [execScanEnd]
  repeat' split
  · exact .next (h.raised (State.grant_raises ((s.heard p).modPort p _)))
  · exact .next h
  · exact .next h

theorem execHeadUnknownFrame_linkOk (p : PortId) : LinkOk (execHeadUnknownFrame p s) := by
  unfold execHeadUnknownFrame
  split
  · exact .next h
  · exact .next h

theorem execTileTimerExpiry_linkOk (p : PortId) : LinkOk (execTileTimerExpiry p s) := by
  dsimp only [execTileTimerExpiry]
  split
  · refine .next (h.raised ?_)
    exact (State.faultHead_raises (s.modPort p _) p _ _).trans (State.grant_raises _)
  · exact .next h

theorem execIntakeComplete_linkOk : LinkOk (execIntakeComplete s) := by
  unfold execIntakeComplete
  split
  · exact .next h
  · refine .next (h.raised (.trans ?_ ((State.releaseIntake_raises _).trans (State.grant_raises _))))
    split
    · exact s.intakeSteps_raises _ _ _
    · exact .refl _

theorem execEvaluationComplete_linkOk : LinkOk (execEvaluationComplete s) := by
  unfold execEvaluationComplete
  split
  · exact .next (h.raised (s.completeEvaluation_raises _))
  · exact .next h

theorem exec_linkOk (c : Instr) : LinkOk (exec c s) := by
  cases c with
  | coldReset => exact .next Link.initial_ok
  | hostFrameReceived d => exact execHostFrameReceived_linkOk h d
  | heldFrameTaken => exact execHeldFrameTaken_linkOk h
  | transmitComplete => exact execTransmitComplete_linkOk h
  | validationComplete => exact execValidationComplete_linkOk h
  | stationResetComplete => exact execStationResetComplete_linkOk h
  | measureOccRise => exact execMeasureOccRise_linkOk h
  | measureOccFall => exact execMeasureOccFall_linkOk h
  | exitOccRise => exact execExitOccRise_linkOk h
  | exitOccFall => exact execExitOccFall_linkOk h
  | downstreamReadyRise => exact .next (h.raised (.of_eq (by simp)))
  | stopFall => exact .next h
  | stopRise => exact execStopRise_linkOk h
  | exitTimerExpiry => exact execExitTimerExpiry_linkOk h
  | taktDeadlineExpiry ctx => exact execTaktDeadlineExpiry_linkOk h ctx
  | locateResult p good b => exact execLocateResult_linkOk h p good b
  | locateTimerExpiry p => exact execLocateTimerExpiry_linkOk h p
  | armingComplete => exact .next (h.raised ((s.visitJoints_raises _).trans (State.completeArming_raises _)))
  | headReady p good b => exact execHeadReady_linkOk h p good b
  | queryTimerExpiry p => exact execQueryTimerExpiry_linkOk h p
  | startTimerExpiry p => exact execStartTimerExpiry_linkOk h p
  | tileHeader p seq row col => exact execTileHeader_linkOk h p seq row col
  | tile p good data => exact execTile_linkOk h p good data
  | tileLost p good b => exact execTileLost_linkOk h p good b
  | scanEnd p good b => exact execScanEnd_linkOk h p good b
  | headUnknownFrame p => exact execHeadUnknownFrame_linkOk h p
  | tileTimerExpiry p => exact execTileTimerExpiry_linkOk h p
  | intakeComplete => exact execIntakeComplete_linkOk h
  | evaluationComplete => exact execEvaluationComplete_linkOk h
  | repeatSiteUpdate => exact .next (h.raised s.repeatSite_raises)
  | ovenRecognition code => exact .next (h.raised (s.sampleRun_raises code _))
  | ovenSample code ready => exact .next (h.raised (s.sampleOven_raises code))
  | hostByteReceived b stop => exact execHostByteReceived_linkOk h b stop
  | armingJointVisit => exact .next (h.raised s.visitJoint_raises)
  | _ => exact .next (State.deliver_sound h.sound _).pump

end Events

/-- A property every command keeps is kept by every step: an idle step changes nothing, and taking the
front command from the queue concerns the queue alone. -/
theorem step_keeps {P : State → Prop} (hexec : ∀ c s, P s → Yields (exec c s) P)
    (hqueue : ∀ s q, P s → P { s with pending := q }) {s t : State} (h : P s)
    (ht : step s = .next t) : P t := by
  cases hq : s.pending with
  | nil => rw [step, hq] at ht; exact Host.Outcome.next.inj ht ▸ h
  | cons c rest => rw [step, hq] at ht; exact (hexec c _ (hqueue s rest h)).of_next ht

/-- Settles O14: every command keeps the queues sound and ends with the transmitter's choice, where
something may have begun to wait. -/
theorem linkStaysSound : Obligations.LinkStaysSound := by
  intro s t h ht
  exact step_keeps (P := fun s => s.link.Ok) (fun c _ h => exec_linkOk h c) (fun _ _ h => h) h ht

end Sys2Proof.Machine
end

section
/-! Proofs. The verdict tables, the defect log, the process monitor and the accumulator pool are kept sound
by every step (R83, R111, R143, R149, R156). -/

namespace Sys2Proof.Machine

open Sys2Proof

/-! ### What requests keep, the delivery of frames keeps

A predicate that no change of the link controller disturbs and every served request keeps is kept by every
command that delivers or sends frames (R165 to R169). -/

section Delivery

variable {P : State → Prop} (hlink : ∀ (s : State) (l : Link), P s → P { s with link := l })
  (hserve : ∀ (s : State) (k : ReqKind) (b : List Byte), P s → P (s.serve k b)) {s : State} (h : P s)
include hlink h

theorem State.pump_keeps : P s.pump := hlink s _ h

theorem execTransmitComplete_keeps : Yields (execTransmitComplete s) P := by
  unfold execTransmitComplete
  split
  · exact .next h
  · refine .next ?_
    exact hlink s _ h

theorem execStationResetComplete_keeps : Yields (execStationResetComplete s) P := by
  unfold execStationResetComplete
  split
  · exact .next h
  · refine .next ?_
    exact hlink s _ h

include hserve

theorem State.takeFrame_keeps (f : Frame) : P (s.takeFrame f) := by
  dsimp only [State.takeFrame, State.serveFrame, State.turnAway]
  repeat' split
  · exact hlink s _ h
  · exact hserve _ _ _ (hlink s _ h)
  · exact hlink s _ h
  · exact hlink s _ h
  · exact hlink s _ h
  · exact hlink s _ h

theorem State.deliver_keeps (f : Frame) : P (s.deliver f) := by
  unfold State.deliver
  split
  · exact hlink s _ h
  · exact State.takeFrame_keeps hlink hserve (hlink s _ h) f

theorem State.completeFrame_keeps (d : List Byte) : P (s.completeFrame d) := by
  unfold State.completeFrame
  repeat' split
  · exact hlink s _ h
  · exact hlink s _ h
  · exact hlink s _ h
  · exact hlink s _ h
  · exact State.deliver_keeps hlink hserve h _

theorem State.framerEvent_keeps (e : FramerEvent) : P (s.framerEvent e) := by
  cases e with
  | none => exact h
  | formatError => exact hlink s _ h
  | complete d unstored =>
    dsimp only [State.framerEvent]
    split
    · exact hlink s _ h
    · exact State.completeFrame_keeps hlink hserve h d

theorem execHostFrameReceived_keeps (d : List Byte) : Yields (execHostFrameReceived d s) P := by
  unfold execHostFrameReceived
  repeat' split
  · exact .next h
  · refine .next ?_
    exact hlink s _ h
  · exact .next (State.pump_keeps hlink (State.completeFrame_keeps hlink hserve h d))

theorem execHostByteReceived_keeps (b : Byte) (stop : Bool) :
    Yields (execHostByteReceived b stop s) P := by
  refine .next (State.pump_keeps hlink (State.framerEvent_keeps hlink hserve ?_ _))
  exact hlink s _ h

theorem execHeldFrameTaken_keeps : Yields (execHeldFrameTaken s) P := by
  unfold execHeldFrameTaken
  repeat' split
  · exact .next h
  · refine .next (State.pump_keeps hlink (State.takeFrame_keeps hlink hserve ?_ _))
    exact hlink s _ h
  · exact .next h

/-- A request command delivers its frame. -/
theorem exec_request_keeps {c : Instr} {f : Frame} (hc : requestFrame c = some f) :
    Yields (exec c s) P := by
  rw [exec_request hc]
  exact .next (State.pump_keeps hlink (State.deliver_keeps hlink hserve h f))

end Delivery

/-! ### The blocks together -/

/-- The verdict tables are tallied, and the log, the monitor and the pool are in their standing form. -/
structure State.BlocksOk (s : State) : Prop where
  tallied : s.flow.Tallied
  buffers : s.BuffersOk

theorem State.BlocksOk.of_same {s t : State} (h : s.BlocksOk) (hc : t.flow.ctxs = s.flow.ctxs)
    (hl : t.log = s.log) (hm : t.monitor = s.monitor) (he : t.engine = s.engine) : t.BlocksOk :=
  ⟨h.tallied.of_ctxs hc, h.buffers.of_eq hl hm he⟩

theorem State.BlocksOk.modMonitor {s : State} (h : s.BlocksOk) {f : Monitor → Monitor}
    (hf : (f s.monitor).Ok) : (s.modMonitor f).BlocksOk :=
  ⟨h.tallied, s.modMonitor_buffers f h.buffers hf⟩

theorem State.BlocksOk.modSlot {s : State} (h : s.BlocksOk) (k : SlotId) (f : Slot → Slot) :
    (s.modSlot k f).BlocksOk := h.of_same rfl rfl rfl rfl

theorem State.BlocksOk.modFlow {s : State} (h : s.BlocksOk) {f : Flow → Flow}
    (hf : (f s.flow).ctxs = s.flow.ctxs) : (s.modFlow f).BlocksOk := h.of_same hf rfl rfl rfl

theorem State.BlocksOk.modPins {s : State} (h : s.BlocksOk) (f : Pins → Pins) :
    (s.modPins f).BlocksOk := h.of_same rfl rfl rfl rfl

theorem State.BlocksOk.modCtx {s : State} (h : s.BlocksOk) (c : CtxId) {f : Context → Context}
    (hf : ∀ x : Context, (f x).table = x.table) : (s.modCtx c f).BlocksOk :=
  ⟨s.modCtx_tallied_of c f hf h.tallied, h.buffers.of_eq rfl rfl rfl⟩

theorem State.BlocksOk.clearRepeats {s : State} (h : s.BlocksOk) (k : SlotId) :
    (s.modMonitor (fun m => (m.discardRequests k).zeroRepeats k)).BlocksOk :=
  h.modMonitor ((h.buffers.monitor.discardRequests k).zeroRepeats k)

theorem State.BlocksOk.driveLines {s : State} (h : s.BlocksOk) : s.driveLines.BlocksOk :=
  ⟨s.driveLines_tallied h.tallied, s.driveLines_buffers h.buffers⟩

theorem State.BlocksOk.driveEntry {s : State} (h : s.BlocksOk) : s.driveEntry.BlocksOk :=
  h.of_same rfl rfl rfl rfl

theorem State.BlocksOk.changeStation {s : State} (h : s.BlocksOk) (st : StationState)
    (cause : StationCause) : (s.changeStation st cause).BlocksOk :=
  h.of_same rfl rfl rfl rfl

theorem State.BlocksOk.freeContext {s : State} (h : s.BlocksOk) (c : CtxId) :
    (s.freeContext c).BlocksOk :=
  ⟨s.freeContext_tallied c h.tallied, s.freeContext_buffers c h.buffers⟩

theorem State.BlocksOk.unprimeRun {s : State} (h : s.BlocksOk) (k : SlotId) (i n : Nat) :
    (s.unprimeRun k i n).BlocksOk :=
  ⟨h.tallied.of_ctxs (by rw [State.unprimeRun_flow]), s.unprimeRun_buffers k i n h.buffers⟩

theorem State.BlocksOk.grant {s : State} (h : s.BlocksOk) : s.grant.BlocksOk :=
  ⟨s.grant_tallied h.tallied, s.grant_buffers h.buffers⟩

theorem State.BlocksOk.closingTest {s : State} (h : s.BlocksOk) : s.closingTest.BlocksOk :=
  ⟨s.closingTest_tallied h.tallied, s.closingTest_buffers h.buffers⟩

theorem State.BlocksOk.scanEndTest {s : State} (h : s.BlocksOk) : s.scanEndTest.BlocksOk :=
  ⟨s.scanEndTest_tallied h.tallied, s.scanEndTest_buffers h.buffers⟩

theorem State.BlocksOk.releaseIntake {s : State} (h : s.BlocksOk) : s.releaseIntake.BlocksOk :=
  State.BlocksOk.scanEndTest ⟨h.tallied.of_ctxs (by rw [State.abandonIntake_flow]),
    s.abandonIntake_buffers h.buffers⟩

theorem State.BlocksOk.intakeSteps {s : State} (h : s.BlocksOk) (j : Served) (p : PortId)
    (item : IntakeItem) : (s.intakeSteps j p item).BlocksOk :=
  ⟨s.intakeSteps_tallied j p item h.tallied, s.intakeSteps_buffers j p item h.buffers⟩

theorem State.BlocksOk.removeBoard {s : State} (h : s.BlocksOk) (c : CtxId) :
    (s.removeBoard c).BlocksOk :=
  ⟨s.removeBoard_tallied c h.tallied, s.removeBoard_buffers c h.buffers⟩

theorem State.BlocksOk.enterHeld {s : State} (h : s.BlocksOk) (st : StationState)
    (cause : StationCause) : (s.enterHeld st cause).BlocksOk :=
  ⟨s.enterHeld_tallied st cause h.tallied, s.enterHeld_buffers st cause h.buffers⟩

theorem State.BlocksOk.arrive {s : State} (h : s.BlocksOk) (c : CtxId) (d : Descriptor) :
    (s.arrive c d).BlocksOk :=
  ⟨s.arrive_tallied c d h.tallied, s.arrive_buffers c d h.buffers⟩

theorem State.BlocksOk.resolveLocate {s : State} (h : s.BlocksOk) (p : PortId) (o : FidOutcome)
    (r : MarkReading) : (s.resolveLocate p o r).BlocksOk :=
  ⟨s.resolveLocate_tallied p o r h.tallied, s.resolveLocate_buffers p o r h.buffers⟩

theorem State.BlocksOk.locateFrame {s : State} (h : s.BlocksOk) (p : PortId) (good : Bool)
    (b : List Byte) : (s.locateFrame p good b).BlocksOk :=
  ⟨s.locateFrame_tallied p good b h.tallied, s.locateFrame_buffers p good b h.buffers⟩

theorem State.BlocksOk.visitJoints {s : State} (h : s.BlocksOk) (n : Nat) :
    (s.visitJoints n).BlocksOk :=
  ⟨s.visitJoints_tallied n h.tallied, s.visitJoints_buffers n h.buffers⟩

theorem State.BlocksOk.completeArming {s : State} (h : s.BlocksOk) : s.completeArming.BlocksOk :=
  ⟨s.completeArming_tallied h.tallied, s.completeArming_buffers h.buffers⟩

/-- Freed segments are empty, and the write position is as it was (R161). -/
theorem DefectLog.Ok.released {g : DefectLog} (h : g.Ok) (set : Byte) :
    DefectLog.Ok { g with
      segments := g.segments.mapIdx (fun k x => if g.freedBy set k then Segment.empty else x) } := by
  refine ⟨fun k => ?_, fun k hk => h.filling k ?_⟩
  · rw [Quad.get_mapIdx]
    split
    · rfl
    · exact h.segments k
  · rw [Quad.get_mapIdx] at hk
    split at hk
    · cases hk
    · exact hk

theorem DefectLog.initial_ok : DefectLog.initial.Ok :=
  ⟨fun k => by rw [DefectLog.initial, Quad.get_all]; rfl,
    fun k hk => by rw [DefectLog.initial, Quad.get_all] at hk; cases hk⟩

theorem DefectLog.Ok.stationReset (g : DefectLog) : g.stationReset.Ok :=
  ⟨DefectLog.initial_ok.segments, DefectLog.initial_ok.filling⟩

theorem Monitor.initial_ok : Monitor.initial.Ok :=
  ⟨.nil, .nil, by simp [Monitor.initial], by decide, fun _ => rfl, by decide⟩

theorem Monitor.Ok.stationReset {m : Monitor} (h : m.Ok) : m.stationReset.Ok :=
  ⟨h.drift, h.repeats, h.values, by simp [Monitor.stationReset], fun _ => rfl,
    by simp [Monitor.stationReset]⟩

theorem Engine.PoolOk.stationReset (e : Engine) : e.stationReset.PoolOk :=
  ⟨.nil, by simp [Engine.stationReset], Nat.zero_le _⟩

theorem Engine.initial_poolOk : Engine.initial.PoolOk :=
  ⟨.nil, by simp [Engine.initial], Nat.le_refl _⟩

theorem State.BlocksOk.resetBlocks {s : State} (h : s.BlocksOk) : s.resetBlocks.BlocksOk :=
  ⟨Flow.allFreed_tallied rfl, .stationReset _, h.buffers.monitor.stationReset, .stationReset _⟩

theorem State.BlocksOk.clearCounters {s : State} (h : s.BlocksOk) : s.clearCounters.BlocksOk :=
  ⟨h.tallied, ⟨h.buffers.log.segments, h.buffers.log.filling⟩,
    h.buffers.monitor.of_eq rfl rfl rfl rfl rfl,
    ⟨h.buffers.pool.wf, h.buffers.pool.numbers, Nat.le_refl _⟩⟩

/-! ### Requests keep the blocks -/

section Owners

variable {s : State} (h : s.BlocksOk) (b : List Byte)
include h

/-- A reply concerns the link alone. -/
theorem State.BlocksOk.reply (st : Status) (r : List Byte) : (s.reply st r).BlocksOk :=
  h.of_same rfl rfl rfl rfl

theorem State.serveConfigure_blocks : (s.serveConfigure b).BlocksOk := by
  dsimp only [State.serveConfigure, State.configure]
  repeat' split
  all_goals exact h.of_same rfl rfl rfl rfl

theorem State.setMode_blocks (drain : Bool) : (s.setMode drain).BlocksOk := by
  dsimp only [State.setMode]
  repeat' split
  all_goals exact h.of_same rfl rfl rfl rfl

theorem State.serveSetMode_blocks : (s.serveSetMode b).BlocksOk := by
  dsimp only [State.serveSetMode]
  repeat' split
  · exact h.reply _ _
  · exact h.reply _ _
  · exact (State.setMode_blocks h _).driveLines.reply _ _

theorem State.beginLoad_blocks (k : SlotId) (header : Header) : (s.beginLoad k header).BlocksOk := by
  dsimp only [State.beginLoad]
  exact State.BlocksOk.driveEntry (State.BlocksOk.clearRepeats ((h.modSlot _ _).unprimeRun _ _ _) _)

theorem State.serveProgramBegin_blocks : (s.serveProgramBegin b).BlocksOk := by
  dsimp only [State.serveProgramBegin]
  repeat' split
  · exact h.reply _ _
  · exact h.reply _ _
  · exact h.reply _ _
  · exact h.reply _ _
  · exact (State.beginLoad_blocks h _ _).reply _ _
  · exact h.reply _ _

theorem State.serveProgramData_blocks : (s.serveProgramData b).BlocksOk := by
  dsimp only [State.serveProgramData, State.appendRecords, State.replyFill]
  repeat' split
  all_goals exact h.of_same rfl rfl rfl rfl

theorem State.serveProgramEnd_blocks : (s.serveProgramEnd b).BlocksOk := by
  dsimp only [State.serveProgramEnd]
  repeat' split
  all_goals exact h.of_same rfl rfl rfl rfl

theorem State.serveProgramErase_blocks : (s.serveProgramErase b).BlocksOk := by
  dsimp only [State.serveProgramErase]
  repeat' split
  all_goals exact h.of_same rfl rfl rfl rfl

theorem State.serveProgramStatus_blocks : (s.serveProgramStatus b).BlocksOk := by
  dsimp only [State.serveProgramStatus]
  split
  all_goals exact h.of_same rfl rfl rfl rfl

theorem State.serveQueuePanel_blocks : (s.serveQueuePanel b).BlocksOk := by
  dsimp only [State.serveQueuePanel]
  repeat' split
  all_goals exact h.of_same rfl rfl rfl rfl

theorem State.serveCancelQueue_blocks : s.serveCancelQueue.BlocksOk := by
  have hunpin : (s.flow.queue.foldl (fun s d => s.unpin d.slot) s).BlocksOk :=
    foldl_inv State.BlocksOk _ _ s h (fun _ _ ht => ht.of_same rfl rfl rfl rfl)
  dsimp only [State.serveCancelQueue]
  split
  · exact h.reply _ _
  · exact hunpin.of_same rfl rfl rfl rfl

theorem State.serveClearStop_blocks : s.serveClearStop.BlocksOk := by
  dsimp only [State.serveClearStop]
  split
  · exact h.reply _ _
  · exact (h.changeStation _ _).driveLines.reply _ _

theorem State.serveClearFault_blocks : s.serveClearFault.BlocksOk := by
  dsimp only [State.serveClearFault]
  repeat' split
  · exact h.reply _ _
  · refine State.BlocksOk.reply (State.BlocksOk.driveLines (State.BlocksOk.changeStation ?_ _ _)) _ _
    exact State.BlocksOk.freeContext (h.modFlow rfl) _
  · exact (h.changeStation _ _).driveLines.reply _ _

theorem State.servePanelStatus_blocks : (s.servePanelStatus b).BlocksOk := by
  dsimp only [State.servePanelStatus]
  split
  all_goals exact h.of_same rfl rfl rfl rfl

theorem State.serveReadVerdicts_blocks : (s.serveReadVerdicts b).BlocksOk := by
  dsimp only [State.serveReadVerdicts]
  repeat' split
  all_goals exact h.of_same rfl rfl rfl rfl

theorem State.serveReadLog_blocks : (s.serveReadLog b).BlocksOk := by
  dsimp only [State.serveReadLog]
  repeat' split
  all_goals exact h.of_same rfl rfl rfl rfl

theorem State.serveReleaseSegment_blocks : (s.serveReleaseSegment b).BlocksOk := by
  dsimp only [State.serveReleaseSegment]
  split
  · exact h.reply _ _
  · exact ⟨h.tallied, h.buffers.log.released _, h.buffers.monitor, h.buffers.pool⟩

theorem State.serveReadDrift_blocks : (s.serveReadDrift b).BlocksOk := by
  dsimp only [State.serveReadDrift]
  repeat' split
  all_goals exact h.of_same rfl rfl rfl rfl

theorem State.serveResetDrift_blocks : (s.serveResetDrift b).BlocksOk := by
  dsimp only [State.serveResetDrift]
  repeat' split
  · exact h.reply _ _
  · exact h.reply _ _
  · exact h.reply _ _
  · exact (h.unprimeRun _ _ _).reply _ _

theorem State.serveReadRepeat_blocks : (s.serveReadRepeat b).BlocksOk := by
  dsimp only [State.serveReadRepeat]
  split
  · exact h.reply _ _
  · split
    all_goals exact h.of_same rfl rfl rfl rfl

theorem State.serveClearRepeat_blocks : (s.serveClearRepeat b).BlocksOk := by
  dsimp only [State.serveClearRepeat]
  repeat' split
  · exact h.reply _ _
  · exact h.reply _ _
  · exact (h.clearRepeats _).reply _ _

theorem State.serveReadOvenCodes_blocks : s.serveReadOvenCodes.BlocksOk := by
  have hm := h.buffers.monitor
  exact (h.modMonitor ⟨hm.drift, hm.repeats, hm.values, hm.requests, hm.idle, Nat.zero_le _⟩).reply _ _

theorem State.serveResetStation_blocks : s.serveResetStation.BlocksOk := by
  dsimp only [State.serveResetStation]
  split
  · exact h.reply _ _
  · exact h.resetBlocks.of_same rfl rfl rfl rfl

theorem State.serve_blocks (k : ReqKind) : (s.serve k b).BlocksOk := by
  cases k with
  | identify => exact h.reply _ _
  | configureStation => exact serveConfigure_blocks h b
  | setMode => exact serveSetMode_blocks h b
  | programBegin => exact serveProgramBegin_blocks h b
  | programData => exact serveProgramData_blocks h b
  | programEnd => exact serveProgramEnd_blocks h b
  | programErase => exact serveProgramErase_blocks h b
  | programStatus => exact serveProgramStatus_blocks h b
  | queuePanel => exact serveQueuePanel_blocks h b
  | cancelQueue => exact serveCancelQueue_blocks h
  | panelStatus => exact servePanelStatus_blocks h b
  | readVerdicts => exact serveReadVerdicts_blocks h b
  | readLog => exact serveReadLog_blocks h b
  | releaseSegment => exact serveReleaseSegment_blocks h b
  | readDrift => exact serveReadDrift_blocks h b
  | resetDrift => exact serveResetDrift_blocks h b
  | readRepeat => exact serveReadRepeat_blocks h b
  | clearRepeat => exact serveClearRepeat_blocks h b
  | readOvenCodes => exact serveReadOvenCodes_blocks h
  | setNoticeMask => exact h.of_same rfl rfl rfl rfl
  | clearStop => exact serveClearStop_blocks h
  | clearFault => exact serveClearFault_blocks h
  | resetStation => exact serveResetStation_blocks h
  | readCounters => exact h.reply _ _
  | clearCounters => exact h.clearCounters.reply _ _

end Owners

/-! ### Events keep the blocks -/

/-- The result is a next state whose blocks are sound. -/
abbrev BlocksKept (r : Result) : Prop := Yields r State.BlocksOk

theorem State.BlocksOk.pump {s : State} (h : s.BlocksOk) : s.pump.BlocksOk := h.of_same rfl rfl rfl rfl

section Events

variable {s : State} (h : s.BlocksOk)
include h

/-- An operation on the ports, the link or the inputs, or on the flow controller's other fields, concerns
no block of the statement. -/
theorem State.BlocksOk.same {t : State} (hc : t.flow.ctxs = s.flow.ctxs)
    (hl : t.log = s.log) (hm : t.monitor = s.monitor) (he : t.engine = s.engine) :
    BlocksKept (.next t) :=
  .next (h.of_same hc hl hm he)

theorem execValidationComplete_blocks : BlocksKept (execValidationComplete s) := by
  unfold execValidationComplete
  repeat' split
  · exact .next h
  · dsimp only [State.settleValidation]
    split
    all_goals exact h.same rfl rfl rfl rfl
  · exact .next h

theorem execMeasureOccRise_blocks : BlocksKept (execMeasureOccRise s) := by
  have hpins (g : Pins → Pins) : (s.modPins g).BlocksOk := h.of_same rfl rfl rfl rfl
  dsimp only [execMeasureOccRise]
  split
  · exact .next ((hpins _).arrive _ _).driveLines.pump
  · refine .next (State.BlocksOk.pump (State.BlocksOk.driveLines ?_))
    exact (hpins _).modFlow rfl

theorem execMeasureOccFall_blocks : BlocksKept (execMeasureOccFall s) := by
  have hin (g : Pins → Pins) (w : Bool) :
      ((s.modPins g).modFlow (fun f => { f with untrackedMeasure := w })).BlocksOk :=
    h.of_same rfl rfl rfl rfl
  refine .next (State.BlocksOk.pump (State.BlocksOk.driveLines ?_))
  repeat' split
  · exact (hin _ _).modCtx _ (fun _ => rfl)
  · exact (hin _ _).removeBoard _
  · exact hin _ _

theorem execExitOccRise_blocks : BlocksKept (execExitOccRise s) := by
  refine .next (State.BlocksOk.pump (State.BlocksOk.driveLines ?_))
  split
  · exact (h.modPins _).modCtx _ (fun _ => rfl)
  · exact h.of_same rfl rfl rfl rfl

theorem State.completeRelease_blocks (c : CtxId) : (s.completeRelease c).BlocksOk := by
  have hflow (g : Flow → Flow) (hg : (g s.flow).ctxs = s.flow.ctxs) : (s.modFlow g).BlocksOk :=
    h.of_same hg rfl rfl rfl
  exact (hflow _ rfl).freeContext c

theorem execExitOccFall_blocks : BlocksKept (execExitOccFall s) := by
  have hin (g : Pins → Pins) (w : Bool) :
      ((s.modPins g).modFlow (fun f => { f with untrackedExit := w })).BlocksOk :=
    h.of_same rfl rfl rfl rfl
  refine .next (State.BlocksOk.pump (State.BlocksOk.driveLines ?_))
  repeat' split
  · exact State.completeRelease_blocks (hin _ _) _
  · exact (hin _ _).removeBoard _
  · exact hin _ _

theorem execStopRise_blocks : BlocksKept (execStopRise s) := by
  have hin (g : Pins → Pins) (w : Option Nat) :
      ((s.modPins g).modFlow (fun f => { f with stopLowSince := w })).BlocksOk :=
    h.of_same rfl rfl rfl rfl
  dsimp only [execStopRise]
  split
  · exact .next ((hin _ _).enterHeld _ _).driveLines.pump
  · exact .next (hin _ _)

theorem execExitTimerExpiry_blocks : BlocksKept (execExitTimerExpiry s) := by
  have hflow (g : FlowCounters → FlowCounters) : (s.modFlow (Flow.count g)).BlocksOk :=
    h.of_same rfl rfl rfl rfl
  dsimp only [execExitTimerExpiry]
  split
  · exact .next ((hflow _).enterHeld _ _).driveLines.pump
  · exact .next h

theorem execTaktDeadlineExpiry_blocks (c : CtxId) : BlocksKept (execTaktDeadlineExpiry c s) := by
  unfold execTaktDeadlineExpiry
  split
  · exact .next (State.BlocksOk.pump ⟨s.lateDecision_tallied c h.tallied, s.lateDecision_buffers c h.buffers⟩)
  · exact .next h

theorem execLocateResult_blocks (p : PortId) (good : Bool) (b : List Byte) :
    BlocksKept (execLocateResult p good b s) := by
  have hport (g : Port → Port) : (s.modPort p g).BlocksOk := h.of_same rfl rfl rfl rfl
  dsimp only [execLocateResult]
  split
  · refine .next (State.BlocksOk.locateFrame ?_ p good b)
    split
    · exact hport _
    · exact h.of_same rfl rfl rfl rfl
  · exact .next (hport _)

theorem execLocateTimerExpiry_blocks (p : PortId) : BlocksKept (execLocateTimerExpiry p s) := by
  have halign (g : Align → Align) : (s.modAlign g).BlocksOk := h.of_same rfl rfl rfl rfl
  dsimp only [execLocateTimerExpiry]
  split
  · exact .next ((halign _).resolveLocate _ _ _).pump
  · exact .next h

theorem execHeadReady_blocks (p : PortId) (good : Bool) (b : List Byte) :
    BlocksKept (execHeadReady p good b s) := by
  dsimp only [execHeadReady]
  repeat' split
  · exact .next (h.of_same (by simp) (by simp) (by simp) (by simp))
  · exact h.same rfl rfl rfl rfl
  · exact h.same rfl rfl rfl rfl

theorem execQueryTimerExpiry_blocks (p : PortId) : BlocksKept (execQueryTimerExpiry p s) := by
  unfold execQueryTimerExpiry
  split
  · exact h.same rfl rfl rfl rfl
  · exact .next h

theorem State.faultHead_blocks (p : PortId) (cause : HeadFaultCause) (mark : Option Int) :
    (s.faultHead p cause mark).BlocksOk :=
  h.of_same rfl rfl rfl rfl

theorem execStartTimerExpiry_blocks (p : PortId) : BlocksKept (execStartTimerExpiry p s) := by
  have hport (g : Port → Port) : (s.modPort p g).BlocksOk := h.of_same rfl rfl rfl rfl
  dsimp only [execStartTimerExpiry]
  split
  · exact .next (State.faultHead_blocks (hport _) p _ _).closingTest.scanEndTest.pump
  · exact .next h

theorem execTileHeader_blocks (p : PortId) (seq : Byte) (row col : U16) :
    BlocksKept (execTileHeader p seq row col s) := by
  dsimp only [execTileHeader]
  split
  · exact h.same rfl rfl rfl rfl
  · exact h.same rfl rfl rfl rfl

theorem execTile_blocks (p : PortId) (good : Bool) (data : List Byte) :
    BlocksKept (execTile p good data s) := by
  have hheard (g : Port → Port) : ((s.heard p).modPort p g).BlocksOk := h.of_same rfl rfl rfl rfl
  dsimp only [execTile]
  split
  · exact .next (hheard _).grant.pump
  · exact h.same rfl rfl rfl rfl

theorem execTileLost_blocks (p : PortId) (good : Bool) (b : List Byte) :
    BlocksKept (execTileLost p good b s) := by
  have hheard (g : Port → Port) : ((s.heard p).modPort p g).BlocksOk := h.of_same rfl rfl rfl rfl
  dsimp only [execTileLost]
  repeat' split
  · exact .next (hheard _).grant.pump
  · exact h.same rfl rfl rfl rfl
  · exact h.same rfl rfl rfl rfl

theorem execScanEnd_blocks (p : PortId) (good : Bool) (b : List Byte) :
    BlocksKept (execScanEnd p good b s) := by
  have hheard (g : Port → Port) : ((s.heard p).modPort p g).BlocksOk := h.of_same rfl rfl rfl rfl
  dsimp only [execScanEnd]
  repeat' split
  · exact .next (hheard _).grant.pump
  · exact h.same rfl rfl rfl rfl
  · exact h.same rfl rfl rfl rfl

theorem execHeadUnknownFrame_blocks (p : PortId) : BlocksKept (execHeadUnknownFrame p s) := by
  unfold execHeadUnknownFrame
  split
  · exact h.same rfl rfl rfl rfl
  · exact h.same rfl rfl rfl rfl

theorem execTileTimerExpiry_blocks (p : PortId) : BlocksKept (execTileTimerExpiry p s) := by
  have hport (g : Port → Port) : (s.modPort p g).BlocksOk := h.of_same rfl rfl rfl rfl
  dsimp only [execTileTimerExpiry]
  split
  · exact .next (State.faultHead_blocks (hport _) p _ _).grant.pump
  · exact .next h

theorem execIntakeComplete_blocks : BlocksKept (execIntakeComplete s) := by
  unfold execIntakeComplete
  split
  · exact .next h
  · refine .next (State.BlocksOk.releaseIntake ?_).grant.pump
    split
    · exact h.intakeSteps _ _ _
    · exact h

theorem execEvaluationComplete_blocks : BlocksKept (execEvaluationComplete s) := by
  unfold execEvaluationComplete
  split
  · exact .next (State.BlocksOk.pump ⟨s.completeEvaluation_tallied _ h.tallied,
      s.completeEvaluation_buffers _ h.buffers⟩)
  · exact .next h

omit h in
theorem State.sampleRun_flow (code : BitVec 4) (n : Nat) : (s.sampleRun code n).flow = s.flow := by
  induction n generalizing s with
  | zero => rfl
  | succ n ih => exact ih.trans (s.sampleOven_flow code)

theorem exec_blocks (c : Instr) : BlocksKept (exec c s) := by
  have hlink (s : State) (l : Link) (h : s.BlocksOk) : State.BlocksOk { s with link := l } :=
    h.of_same rfl rfl rfl rfl
  have hserve (s : State) (k : ReqKind) (b : List Byte) (h : s.BlocksOk) : (s.serve k b).BlocksOk :=
    State.serve_blocks h b k
  cases c with
  | coldReset =>
    exact .next ⟨Flow.allFreed_tallied rfl, DefectLog.initial_ok, Monitor.initial_ok,
      Engine.initial_poolOk⟩
  | hostFrameReceived d => exact execHostFrameReceived_keeps hlink hserve h d
  | heldFrameTaken => exact execHeldFrameTaken_keeps hlink hserve h
  | transmitComplete => exact execTransmitComplete_keeps hlink h
  | validationComplete => exact execValidationComplete_blocks h
  | stationResetComplete => exact execStationResetComplete_keeps hlink h
  | measureOccRise => exact execMeasureOccRise_blocks h
  | measureOccFall => exact execMeasureOccFall_blocks h
  | exitOccRise => exact execExitOccRise_blocks h
  | exitOccFall => exact execExitOccFall_blocks h
  | downstreamReadyRise => exact .next (State.BlocksOk.driveLines (h.modPins _)).pump
  | stopFall => exact h.same rfl rfl rfl rfl
  | stopRise => exact execStopRise_blocks h
  | exitTimerExpiry => exact execExitTimerExpiry_blocks h
  | taktDeadlineExpiry ctx => exact execTaktDeadlineExpiry_blocks h ctx
  | locateResult p good b => exact execLocateResult_blocks h p good b
  | locateTimerExpiry p => exact execLocateTimerExpiry_blocks h p
  | armingComplete => exact .next (h.visitJoints _).completeArming.pump
  | headReady p good b => exact execHeadReady_blocks h p good b
  | queryTimerExpiry p => exact execQueryTimerExpiry_blocks h p
  | startTimerExpiry p => exact execStartTimerExpiry_blocks h p
  | tileHeader p seq row col => exact execTileHeader_blocks h p seq row col
  | tile p good data => exact execTile_blocks h p good data
  | tileLost p good b => exact execTileLost_blocks h p good b
  | scanEnd p good b => exact execScanEnd_blocks h p good b
  | headUnknownFrame p => exact execHeadUnknownFrame_blocks h p
  | tileTimerExpiry p => exact execTileTimerExpiry_blocks h p
  | intakeComplete => exact execIntakeComplete_blocks h
  | evaluationComplete => exact execEvaluationComplete_blocks h
  | repeatSiteUpdate =>
    exact .next (State.BlocksOk.pump ⟨h.tallied.of_ctxs (by rw [State.repeatSite_flow]),
      s.repeatSite_buffers h.buffers⟩)
  | ovenRecognition code =>
    exact .next (State.BlocksOk.pump ⟨h.tallied.of_ctxs (by rw [State.sampleRun_flow]),
      s.sampleRun_buffers code _ h.buffers⟩)
  | ovenSample code ready =>
    exact .next (State.BlocksOk.pump ⟨h.tallied.of_ctxs (by simp),
      (s.sampleOven_buffers code h.buffers).of_eq rfl rfl rfl⟩)
  | hostByteReceived b stop => exact execHostByteReceived_keeps hlink hserve h b stop
  | armingJointVisit =>
    exact .next (State.BlocksOk.pump ⟨s.visitJoint_tallied h.tallied, s.visitJoint_buffers h.buffers⟩)
  | _ => exact exec_request_keeps hlink hserve h rfl

end Events

/-- Settles O60: every command keeps the blocks, and a step is a command or nothing. -/
theorem blocksStaySound : Obligations.BlocksStaySound := by
  intro s t htallied hbuffers ht
  have hkept : t.BlocksOk := step_keeps (fun c _ h => exec_blocks h c)
    (fun _ _ h => h.of_same rfl rfl rfl rfl) ⟨htallied, hbuffers⟩ ht
  exact ⟨hkept.tallied, hkept.buffers⟩

end Sys2Proof.Machine
end

section
/-! Proofs. The output lines follow their terms, and the contexts being aligned and armed stay in their
phases, at every step (R25, R29, R31, R34 to R36). -/

namespace Sys2Proof.Machine

open Sys2Proof

/-! ### Operations beside the lines -/

/-- An operation on what neither the lines' terms nor the phases read. -/
theorem State.Driven.modLink {s : State} (h : s.Driven) (l : Link) :
    State.Driven { s with link := l } := h.of_flow rfl rfl rfl rfl rfl rfl

theorem State.Driven.reply {s : State} (h : s.Driven) (st : Status) (b : List Byte) :
    (s.reply st b).Driven := h.of_flow rfl rfl rfl rfl rfl rfl

theorem State.Driven.modMonitor {s : State} (h : s.Driven) (f : Monitor → Monitor) :
    (s.modMonitor f).Driven := h.of_flow rfl rfl rfl rfl rfl rfl

/-- Driving ENTRY_ENABLE brings it into agreement where the terms of the other lines are as they were:
the positions and states of the contexts, the exit buffer, and whether panels move. -/
theorem State.Driven.driveEntry {s t : State} (h : s.Driven) (hctxs : t.flow.ctxs = s.flow.ctxs)
    (hexit : t.flow.untrackedExit = s.flow.untrackedExit) (hpins : t.pins = s.pins)
    (hmoving : t.flow.moving = s.flow.moving)
    (hlines : (t.flow.shift, t.flow.release, t.flow.exitTimer) =
      (s.flow.shift, s.flow.release, s.flow.exitTimer))
    (ha : t.align.aligning = s.align.aligning) (hv : t.engine.service = s.engine.service)
    (hj : t.engine.served = s.engine.served) : t.driveEntry.Driven := by
  simp only [Prod.mk.injEq] at hlines
  obtain ⟨hshift, hrelease, htimer⟩ := hlines
  have hfind (p : Context → Bool) : t.flow.findCtx p = s.flow.findCtx p := by
    rw [Flow.findCtx, Flow.findCtx, hctxs]
  have hterms : t.shiftCondition = s.shiftCondition := by
    simp only [State.shiftCondition, Flow.nobodyAt, hfind, hctxs, hexit, hpins, hmoving]
  refine ⟨State.driveEntry_follows t ?_ ?_ ?_, h.phases.of ha hv hj fun d => State.Keeps.of_state ?_⟩
  · rw [hshift, h.follows.shift, hterms]
  · rw [hrelease, h.follows.release, hmoving, hfind]
  · rw [Flow.TimerOk, htimer, hrelease]
    exact h.follows.timer
  · exact congrArg (fun x => (Pair.get x d).state) hctxs

theorem State.Ready.changeStation {s : State} (h : s.Ready) (st : StationState) (cause : StationCause) :
    (s.changeStation st cause).Ready :=
  ⟨h.phases.of rfl rfl rfl fun _ => State.Keeps.of_state rfl, h.timer⟩

theorem State.unprimeRun_driven {s : State} (h : s.Driven) (k : SlotId) (i n : Nat) :
    (s.unprimeRun k i n).Driven :=
  h.of_flow (by simp) (by simp) (by simp) (by simp) (by simp) (by simp)

/-- The slots agree in which hold a usable program (R29). -/
theorem State.defaultUsable_modSlot (s : State) (k : SlotId) (f : Slot → Slot)
    (hold : (s.slots.get k).state ≠ .valid) (hnew : (f (s.slots.get k)).state ≠ .valid) :
    (s.modSlot k f).defaultUsable = s.defaultUsable := by
  unfold State.defaultUsable
  simp only [State.modSlot_flow, State.modSlot_slots]
  split
  · rfl
  split
  · rfl
  next d hd =>
    by_cases hk : d = k
    · subst hk
      simp only [Quad.get_set, hold, hnew, false_and, if_true, if_false]
      split <;> split <;> rfl
    · simp only [Quad.get_set, hk, if_false]

/-- A slot that is VALID neither before nor after an update makes no difference to the lines. -/
theorem State.Driven.modSlot {s : State} (h : s.Driven) (k : SlotId) (f : Slot → Slot)
    (hold : (s.slots.get k).state ≠ .valid) (hnew : (f (s.slots.get k)).state ≠ .valid) :
    (s.modSlot k f).Driven := by
  have hentry : (s.modSlot k f).entryCondition = s.entryCondition := by
    simp only [State.entryCondition, State.modSlot_flow, s.defaultUsable_modSlot k f hold hnew]
  exact ⟨⟨h.follows.entry.trans hentry.symm, h.follows.shift, h.follows.release, h.follows.timer⟩,
    h.phases.of rfl rfl rfl fun _ => State.Keeps.of_state rfl⟩

/-- A run of records leaves the slot's state (R10). -/
theorem Slot.appendRun_state (header : Header) (sect size count : Nat) (b : List Byte) (x : Slot) :
    (Slot.appendRun header sect size count b x).1.state = x.state := by
  obtain ⟨n, y, hran⟩ := Slot.exists_ran header sect size count b x
  rw [hran.run]
  exact hran.grown.state

/-- Unpinning the slots of a list of descriptors lowers the pin counts and does no more (R27). -/
theorem State.foldl_unpin (s : State) (l : List Descriptor) :
    ∃ q, l.foldl (fun s d => s.unpin d.slot) s = { s with slots := q } ∧
      ∀ k, q.get k = { s.slots.get k with pins := (s.slots.get k).pins - l.countP (fun d => d.slot == k) } := by
  induction l generalizing s with
  | nil => exact ⟨s.slots, rfl, fun _ => rfl⟩
  | cons d l ih =>
    obtain ⟨q, hfold, hq⟩ := ih (s.unpin d.slot)
    refine ⟨q, hfold, fun k => ?_⟩
    rw [hq k, State.unpin, State.modSlot_slots, Quad.get_set, List.countP_cons]
    by_cases hk : k = d.slot
    · subst hk
      simp [Nat.sub_sub, Nat.add_comm]
    · simp [hk, Ne.symm hk]

/-- A station that does not move, drives no line, and neither aligns nor arms, as a reset leaves it. -/
theorem State.Driven.of_reset {s : State} (hstation : s.flow.moving = false) (hentry : s.flow.entryEnable = false)
    (hlines : (s.flow.shift, s.flow.release, s.flow.exitTimer) = (false, false, none))
    (ha : s.align.aligning = none) (hv : s.engine.service = .idle) : s.Driven := by
  simp only [Prod.mk.injEq] at hlines
  obtain ⟨hshift, hrelease, htimer⟩ := hlines
  have hnot : s.entryCondition = false := by
    unfold Flow.moving at hstation
    unfold State.entryCondition
    cases hs : s.flow.station == .running <;> simp_all
  refine ⟨⟨?_, ?_, ?_, ?_⟩, ⟨?_, ?_⟩⟩
  · rw [hentry, hnot]
  · rw [hshift, State.shiftCondition, hstation, Bool.and_false]
  · rw [hrelease, hstation, Bool.false_and]
  · rw [Flow.TimerOk, hrelease, htimer]
    rfl
  · intro c hc
    rw [ha] at hc
    cases hc
  · intro hc
    rw [hv] at hc
    cases hc

/-! ### Requests -/

section Owners

variable {s : State} (h : s.Driven) (b : List Byte)
include h

theorem State.serveConfigure_driven : (s.serveConfigure b).Driven := by
  dsimp only [State.serveConfigure, State.configure]
  split
  · exact h.reply _ _
  split
  · exact h.reply _ _
  refine State.Driven.reply ?_ _ _
  split
  next hoff =>
    refine h.driveEntry rfl rfl rfl ?_ rfl rfl rfl rfl
    have hstill : s.flow.moving = false := by rw [Flow.moving, hoff]; rfl
    rw [hstill]
    rfl
  · exact h.driveEntry rfl rfl rfl rfl rfl rfl rfl rfl

theorem State.setMode_ready (drain : Bool) : (s.setMode drain).Ready := by
  dsimp only [State.setMode]
  repeat' split
  · exact h.ready.changeStation _ _
  · exact h.ready.changeStation _ _
  · exact h.ready.changeStation _ _
  · exact h.ready.changeStation _ _
  · exact h.ready

theorem State.serveSetMode_driven : (s.serveSetMode b).Driven := by
  dsimp only [State.serveSetMode]
  repeat' split
  · exact h.reply _ _
  · exact h.reply _ _
  · exact (State.setMode_ready h _).driveLines.reply _ _

theorem State.serveProgramBegin_driven : (s.serveProgramBegin b).Driven := by
  dsimp only [State.serveProgramBegin]
  repeat' split
  · exact h.reply _ _
  · exact h.reply _ _
  · exact h.reply _ _
  · exact h.reply _ _
  · refine State.Driven.reply ?_ _ _
    dsimp only [State.beginLoad]
    exact h.driveEntry (by simp) (by simp) (by simp) (by simp) (by simp) (by simp) (by simp) (by simp)
  · exact h.reply _ _

theorem State.serveProgramData_driven : (s.serveProgramData b).Driven := by
  dsimp only [State.serveProgramData]
  repeat' split
  · exact h.reply _ _
  · exact h.reply _ _
  · exact h.reply _ _
  · exact h.reply _ _
  · exact h.reply _ _
  · exact h.reply _ _
  · next hload _ _ _ _ _ _ _ _ _ =>
    have hloading := Decidable.not_not.mp hload
    dsimp only [State.appendRecords, State.replyFill]
    split
    all_goals
      refine State.Driven.reply (h.modSlot _ _ (by rw [hloading]; decide) ?_) _ _
      rw [Slot.appendRun_state, hloading]
      decide
  · exact h.reply _ _

theorem State.serveProgramEnd_driven : (s.serveProgramEnd b).Driven := by
  dsimp only [State.serveProgramEnd]
  repeat' split
  · exact h.reply _ _
  · exact h.reply _ _
  · next hload =>
    obtain ⟨-, hloading⟩ := not_or.mp hload
    exact h.modSlot _ _ (by rw [Decidable.not_not.mp hloading]; decide) nofun

theorem State.serveProgramErase_driven : (s.serveProgramErase b).Driven := by
  dsimp only [State.serveProgramErase]
  repeat' split
  · exact h.reply _ _
  · exact h.reply _ _
  · exact h.reply _ _
  · refine State.Driven.reply ?_ _ _
    exact h.driveEntry rfl rfl rfl rfl rfl rfl rfl rfl

theorem State.serveProgramStatus_driven : (s.serveProgramStatus b).Driven := by
  dsimp only [State.serveProgramStatus]
  split
  all_goals exact h.reply _ _

theorem State.serveQueuePanel_driven : (s.serveQueuePanel b).Driven := by
  dsimp only [State.serveQueuePanel]
  repeat' split
  · exact h.reply _ _
  · exact h.reply _ _
  · exact h.reply _ _
  · exact h.reply _ _
  · exact h.reply _ _
  · exact h.reply _ _
  · refine State.Driven.reply ?_ _ _
    exact h.driveEntry rfl rfl rfl rfl rfl rfl rfl rfl

theorem State.serveCancelQueue_driven : s.serveCancelQueue.Driven := by
  obtain ⟨q, hunpin, -⟩ := s.foldl_unpin s.flow.queue
  dsimp only [State.serveCancelQueue]
  split
  · exact h.reply _ _
  · rw [hunpin]
    refine State.Driven.reply ?_ _ _
    exact h.driveEntry rfl rfl rfl rfl rfl rfl rfl rfl

theorem State.serveClearStop_driven : s.serveClearStop.Driven := by
  dsimp only [State.serveClearStop]
  split
  · exact h.reply _ _
  · exact (h.ready.changeStation _ _).driveLines.reply _ _

theorem State.serveClearFault_driven : s.serveClearFault.Driven := by
  dsimp only [State.serveClearFault]
  repeat' split
  · exact h.reply _ _
  · next hfind =>
    refine State.Driven.reply (State.Ready.driveLines (State.Ready.changeStation ?_ _ _)) _ _
    have hstate : (s.ctx _).state = .releasing := beq_iff_eq.mp (Flow.findCtx_get hfind :)
    refine State.freeContext_ready _ (h.ready.of rfl rfl rfl rfl fun _ => rfl) ?_
    exact h.phases.other (fun ha => by cases hstate.symm.trans ha) (fun ha => by cases hstate.symm.trans ha)
  · exact (h.ready.changeStation _ _).driveLines.reply _ _

theorem State.servePanelStatus_driven : (s.servePanelStatus b).Driven := by
  dsimp only [State.servePanelStatus]
  split
  all_goals exact h.reply _ _

theorem State.serveReadVerdicts_driven : (s.serveReadVerdicts b).Driven := by
  dsimp only [State.serveReadVerdicts]
  repeat' split
  all_goals exact h.reply _ _

theorem State.serveReadLog_driven : (s.serveReadLog b).Driven := by
  dsimp only [State.serveReadLog]
  repeat' split
  all_goals exact h.reply _ _

theorem State.serveReleaseSegment_driven : (s.serveReleaseSegment b).Driven := by
  dsimp only [State.serveReleaseSegment]
  split
  · exact h.reply _ _
  · exact h.of_flow rfl rfl rfl rfl rfl rfl

theorem State.serveReadDrift_driven : (s.serveReadDrift b).Driven := by
  dsimp only [State.serveReadDrift]
  repeat' split
  all_goals exact h.reply _ _

theorem State.serveResetDrift_driven : (s.serveResetDrift b).Driven := by
  dsimp only [State.serveResetDrift]
  repeat' split
  · exact h.reply _ _
  · exact h.reply _ _
  · exact h.reply _ _
  · exact (State.unprimeRun_driven h _ _ _).reply _ _

theorem State.serveReadRepeat_driven : (s.serveReadRepeat b).Driven := by
  dsimp only [State.serveReadRepeat]
  split
  · exact h.reply _ _
  · split
    all_goals exact h.reply _ _

theorem State.serveClearRepeat_driven : (s.serveClearRepeat b).Driven := by
  dsimp only [State.serveClearRepeat]
  repeat' split
  · exact h.reply _ _
  · exact h.reply _ _
  · exact (h.modMonitor _).reply _ _

theorem State.serveResetStation_driven : s.serveResetStation.Driven := by
  dsimp only [State.serveResetStation]
  split
  · exact h.reply _ _
  · exact State.Driven.of_reset rfl rfl rfl rfl rfl

theorem State.serve_driven (k : ReqKind) : (s.serve k b).Driven := by
  cases k with
  | identify => exact h.reply _ _
  | configureStation => exact serveConfigure_driven h b
  | setMode => exact serveSetMode_driven h b
  | programBegin => exact serveProgramBegin_driven h b
  | programData => exact serveProgramData_driven h b
  | programEnd => exact serveProgramEnd_driven h b
  | programErase => exact serveProgramErase_driven h b
  | programStatus => exact serveProgramStatus_driven h b
  | queuePanel => exact serveQueuePanel_driven h b
  | cancelQueue => exact serveCancelQueue_driven h
  | panelStatus => exact servePanelStatus_driven h b
  | readVerdicts => exact serveReadVerdicts_driven h b
  | readLog => exact serveReadLog_driven h b
  | releaseSegment => exact serveReleaseSegment_driven h b
  | readDrift => exact serveReadDrift_driven h b
  | resetDrift => exact serveResetDrift_driven h b
  | readRepeat => exact serveReadRepeat_driven h b
  | clearRepeat => exact serveClearRepeat_driven h b
  | readOvenCodes => exact (h.modMonitor _).reply _ _
  | setNoticeMask => exact h.modLink _
  | clearStop => exact serveClearStop_driven h
  | clearFault => exact serveClearFault_driven h
  | resetStation => exact serveResetStation_driven h
  | readCounters => exact h.reply _ _
  | clearCounters =>
    refine State.Driven.reply (s := s.clearCounters) ?_ _ _
    exact h.of ⟨rfl, rfl, rfl, rfl, rfl, rfl, fun _ => rfl, fun _ => rfl⟩ rfl rfl rfl
      fun _ => State.Keeps.of_state rfl

end Owners

/-! ### Events -/

/-- The result is a next state whose lines and phases are as they should be. -/
abbrev DrivenKept (r : Result) : Prop := Yields r State.Driven

section Events

variable {s : State} (h : s.Driven)
include h

theorem State.Driven.same {t : State} (hf : t.flow = s.flow) (hs : t.slots = s.slots)
    (hp : t.pins = s.pins) (ha : t.align.aligning = s.align.aligning)
    (hv : t.engine.service = s.engine.service) (hj : t.engine.served = s.engine.served) :
    DrivenKept (.next t) := .next (h.of_flow hf hs hp ha hv hj)

omit h in
/-- Once the phases and the exit timer are right, driving the lines and pumping the link ends the event. -/
theorem DrivenKept.of_ready {t : State} (ht : t.Ready) : DrivenKept (.next t.driveLines.pump) :=
  .next (State.pump_driven ht.driveLines)

omit h in
/-- A context found in neither ALIGNING nor ARMING is not the one aligned or armed. -/
theorem State.Ready.apart {t : State} (ht : t.Ready) {c : CtxId} {st : CtxState}
    (hc : (t.ctx c).state = st) (ha : st ≠ .aligning) (hr : st ≠ .arming) :
    t.align.aligning ≠ some c ∧ t.engine.NotArming c :=
  ht.phases.other (hc ▸ ha) (hc ▸ hr)

theorem execValidationComplete_driven : DrivenKept (execValidationComplete s) := by
  unfold execValidationComplete
  repeat' split
  · exact .next h
  · refine .next (State.pump_driven ?_)
    dsimp only [State.settleValidation]
    split
    all_goals
      refine State.Driven.reply ?_ _ _
      exact h.driveEntry rfl rfl rfl rfl rfl rfl rfl rfl
  · exact .next h

omit h in
theorem State.Ready.modPins {t : State} (ht : t.Ready) (f : Pins → Pins) : (t.modPins f).Ready :=
  ht.of rfl rfl rfl rfl fun _ => rfl

theorem execMeasureOccRise_driven : DrivenKept (execMeasureOccRise s) := by
  dsimp only [execMeasureOccRise]
  split
  next c d _ hfree _ =>
    exact .of_ready (State.arrive_ready (h.ready.modPins _) c d (Flow.freeCtx_get hfree))
  · refine .of_ready ?_
    exact h.ready.of rfl rfl rfl rfl fun _ => rfl

theorem execMeasureOccFall_driven : DrivenKept (execMeasureOccFall s) := by
  dsimp only [execMeasureOccFall]
  generalize hin : (s.modPins _).modFlow _ = t
  have ht : t.Ready := hin ▸ h.ready.of rfl rfl rfl rfl fun _ => rfl
  refine .of_ready ?_
  repeat' split
  · exact ht.of rfl rfl rfl rfl fun d => State.modCtx_state t _ d _ fun _ => rfl
  · exact State.removeBoard_ready _ ht
  · exact ht

theorem execExitOccRise_driven : DrivenKept (execExitOccRise s) := by
  dsimp only [execExitOccRise]
  generalize hin : s.modPins _ = t
  have ht : t.Ready := hin ▸ h.ready.modPins _
  refine .of_ready ?_
  split
  · exact ht.of rfl rfl rfl rfl fun d => State.modCtx_state t _ d _ fun _ => rfl
  · exact ht.of rfl rfl rfl rfl fun _ => rfl

theorem execExitOccFall_driven : DrivenKept (execExitOccFall s) := by
  dsimp only [execExitOccFall]
  generalize hin : (s.modPins _).modFlow _ = t
  have ht : t.Ready := hin ▸ h.ready.of rfl rfl rfl rfl fun _ => rfl
  refine .of_ready ?_
  split
  next c hfind =>
    have hstate : (t.ctx c).state = .releasing := beq_iff_eq.mp (Flow.findCtx_get hfind :)
    exact State.completeRelease_ready c ht.phases (ht.apart hstate nofun nofun)
  · split
    · exact State.removeBoard_ready _ ht
    · exact ht

theorem execStopFall_driven : DrivenKept (execStopFall s) :=
  .next (h.of ⟨rfl, rfl, rfl, rfl, rfl, rfl, fun _ => rfl, fun _ => rfl⟩ rfl rfl rfl
    fun _ => State.Keeps.of_state rfl)

theorem execStopRise_driven : DrivenKept (execStopRise s) := by
  dsimp only [execStopRise]
  generalize hin : (s.modPins _).modFlow _ = t
  have ht : t.Driven := hin ▸
    h.of ⟨rfl, rfl, rfl, rfl, rfl, rfl, fun _ => rfl, fun _ => rfl⟩ rfl rfl rfl
      fun _ => State.Keeps.of_state rfl
  split
  · exact .of_ready (State.enterHeld_ready ht.phases _ _)
  · exact .next ht

theorem execExitTimerExpiry_driven : DrivenKept (execExitTimerExpiry s) := by
  dsimp only [execExitTimerExpiry]
  split
  · refine .of_ready (State.enterHeld_ready ?_ _ _)
    exact h.phases.of rfl rfl rfl fun _ => State.Keeps.of_state rfl
  · exact .next h

theorem execTaktDeadlineExpiry_driven (c : CtxId) : DrivenKept (execTaktDeadlineExpiry c s) := by
  unfold execTaktDeadlineExpiry
  split
  · exact .next (State.pump_driven (State.lateDecision_driven h c))
  · exact .next h

/-! The alignment and the ports read the contexts and leave the lines' terms alone. -/

theorem State.Driven.modPort (p : PortId) (f : Port → Port) : (s.modPort p f).Driven :=
  h.of_flow rfl rfl rfl rfl rfl rfl

theorem State.Driven.heard (p : PortId) : (s.heard p).Driven := h.modPort p _

theorem execLocateResult_driven (p : PortId) (good : Bool) (b : List Byte) :
    DrivenKept (execLocateResult p good b s) := by
  dsimp only [execLocateResult]
  split
  · refine .next (State.locateFrame_driven ?_ p good b)
    split
    · exact h.heard p
    · exact (h.heard p).modPort p _
  · exact .next (h.modPort p _)

theorem execLocateTimerExpiry_driven (p : PortId) : DrivenKept (execLocateTimerExpiry p s) := by
  dsimp only [execLocateTimerExpiry]
  split
  · refine .next (State.pump_driven (State.resolveLocate_driven ?_ _ _ _))
    exact h.of_flow rfl rfl rfl rfl rfl rfl
  · exact .next h

theorem execHeadReady_driven (p : PortId) (good : Bool) (b : List Byte) :
    DrivenKept (execHeadReady p good b s) := by
  dsimp only [execHeadReady]
  repeat' split
  · exact .next (h.of_flow (by simp) (by simp) (by simp) (by simp) (by simp) (by simp))
  · exact h.same rfl rfl rfl rfl rfl rfl
  · exact h.same rfl rfl rfl rfl rfl rfl

theorem execQueryTimerExpiry_driven (p : PortId) : DrivenKept (execQueryTimerExpiry p s) := by
  unfold execQueryTimerExpiry
  split
  · exact h.same rfl rfl rfl rfl rfl rfl
  · exact .next h

theorem State.faultHead_driven (p : PortId) (cause : HeadFaultCause) (mark : Option Int) :
    (s.faultHead p cause mark).Driven := h.of_flow rfl rfl rfl rfl rfl rfl

theorem execStartTimerExpiry_driven (p : PortId) : DrivenKept (execStartTimerExpiry p s) := by
  dsimp only [execStartTimerExpiry]
  split
  · exact .next (State.pump_driven (State.scanEndTest_driven (State.closingTest_driven
      (State.faultHead_driven (h.modPort p _) p _ _))))
  · exact .next h

theorem execTileHeader_driven (p : PortId) (seq : Byte) (row col : U16) :
    DrivenKept (execTileHeader p seq row col s) := by
  dsimp only [execTileHeader]
  split
  · exact h.same rfl rfl rfl rfl rfl rfl
  · exact h.same rfl rfl rfl rfl rfl rfl

/-- A port updated, the intake granted and the link pumped (R73). -/
theorem State.Driven.granted (p : PortId) (f : Port → Port) :
    DrivenKept (.next ((s.modPort p f).grant).pump) :=
  .next (State.pump_driven (State.grant_driven (h.modPort p f)))

theorem execTile_driven (p : PortId) (good : Bool) (data : List Byte) :
    DrivenKept (execTile p good data s) := by
  dsimp only [execTile]
  split
  · exact (h.heard p).granted p _
  · exact h.same rfl rfl rfl rfl rfl rfl

theorem execTileLost_driven (p : PortId) (good : Bool) (b : List Byte) :
    DrivenKept (execTileLost p good b s) := by
  dsimp only [execTileLost]
  repeat' split
  · exact (h.heard p).granted p _
  · exact h.same rfl rfl rfl rfl rfl rfl
  · exact h.same rfl rfl rfl rfl rfl rfl

theorem execScanEnd_driven (p : PortId) (good : Bool) (b : List Byte) :
    DrivenKept (execScanEnd p good b s) := by
  dsimp only [execScanEnd]
  repeat' split
  · exact (h.heard p).granted p _
  · exact h.same rfl rfl rfl rfl rfl rfl
  · exact h.same rfl rfl rfl rfl rfl rfl

theorem execHeadUnknownFrame_driven (p : PortId) : DrivenKept (execHeadUnknownFrame p s) := by
  unfold execHeadUnknownFrame
  split
  · exact h.same rfl rfl rfl rfl rfl rfl
  · exact h.same rfl rfl rfl rfl rfl rfl

theorem execTileTimerExpiry_driven (p : PortId) : DrivenKept (execTileTimerExpiry p s) := by
  dsimp only [execTileTimerExpiry]
  split
  · exact .next (State.pump_driven (State.grant_driven (State.faultHead_driven (h.modPort p _) p _ _)))
  · exact .next h

theorem execIntakeComplete_driven : DrivenKept (execIntakeComplete s) := by
  unfold execIntakeComplete
  split
  · exact .next h
  · refine .next (State.pump_driven (State.grant_driven (State.releaseIntake_driven ?_)))
    split
    · exact State.intakeSteps_driven h _ _ _
    · exact h

theorem execEvaluationComplete_driven : DrivenKept (execEvaluationComplete s) := by
  unfold execEvaluationComplete
  split
  · exact .next (State.pump_driven (State.completeEvaluation_driven h _))
  · exact .next h

/-- A sample reaches the oven pins, the monitor, the link and the clock. -/
theorem State.sampleOven_driven (code : BitVec 4) : (s.sampleOven code).Driven := by
  have ht : State.Driven { s with
      now := s.now + 1, pins := { s.pins with oven := code }, monitor := s.monitor.sampled code } :=
    h.of ⟨rfl, rfl, rfl, rfl, rfl, rfl, fun _ => rfl, fun _ => rfl⟩ rfl rfl rfl
      fun _ => State.Keeps.of_state rfl
  dsimp only [State.sampleOven]
  split
  · exact ht.of_flow (by simp) (by simp) (by simp) (by simp) (by simp) (by simp)
  · exact ht

theorem State.sampleRun_driven (code : BitVec 4) (n : Nat) : (s.sampleRun code n).Driven := by
  induction n generalizing s with
  | zero => exact h
  | succ n ih => exact ih (State.sampleOven_driven h code)

theorem exec_driven (c : Instr) : DrivenKept (exec c s) := by
  have hlink (s : State) (l : Link) (h : s.Driven) : State.Driven { s with link := l } := h.modLink l
  have hserve (s : State) (k : ReqKind) (b : List Byte) (h : s.Driven) : (s.serve k b).Driven :=
    State.serve_driven h b k
  cases c with
  | coldReset => exact .next (State.Driven.of_reset rfl rfl rfl rfl rfl)
  | hostFrameReceived d => exact execHostFrameReceived_keeps hlink hserve h d
  | heldFrameTaken => exact execHeldFrameTaken_keeps hlink hserve h
  | transmitComplete => exact execTransmitComplete_keeps hlink h
  | validationComplete => exact execValidationComplete_driven h
  | stationResetComplete => exact execStationResetComplete_keeps hlink h
  | measureOccRise => exact execMeasureOccRise_driven h
  | measureOccFall => exact execMeasureOccFall_driven h
  | exitOccRise => exact execExitOccRise_driven h
  | exitOccFall => exact execExitOccFall_driven h
  | downstreamReadyRise => exact .of_ready (h.ready.modPins _)
  | stopFall => exact execStopFall_driven h
  | stopRise => exact execStopRise_driven h
  | exitTimerExpiry => exact execExitTimerExpiry_driven h
  | taktDeadlineExpiry ctx => exact execTaktDeadlineExpiry_driven h ctx
  | locateResult p good b => exact execLocateResult_driven h p good b
  | locateTimerExpiry p => exact execLocateTimerExpiry_driven h p
  | armingComplete =>
    exact .next (State.pump_driven (State.completeArming_driven (State.visitJoints_driven h _)))
  | headReady p good b => exact execHeadReady_driven h p good b
  | queryTimerExpiry p => exact execQueryTimerExpiry_driven h p
  | startTimerExpiry p => exact execStartTimerExpiry_driven h p
  | tileHeader p seq row col => exact execTileHeader_driven h p seq row col
  | tile p good data => exact execTile_driven h p good data
  | tileLost p good b => exact execTileLost_driven h p good b
  | scanEnd p good b => exact execScanEnd_driven h p good b
  | headUnknownFrame p => exact execHeadUnknownFrame_driven h p
  | tileTimerExpiry p => exact execTileTimerExpiry_driven h p
  | intakeComplete => exact execIntakeComplete_driven h
  | evaluationComplete => exact execEvaluationComplete_driven h
  | repeatSiteUpdate =>
    exact .next (State.pump_driven
      (h.of_flow (by simp) (by simp) (by simp) (by simp) (by simp) (by simp)))
  | ovenRecognition code => exact .next (State.pump_driven (State.sampleRun_driven h code _))
  | ovenSample code ready =>
    exact .next (State.pump_driven ((State.sampleOven_driven h code).of
      ⟨rfl, rfl, rfl, rfl, rfl, rfl, fun _ => rfl, fun _ => rfl⟩ rfl rfl rfl
      fun _ => State.Keeps.of_state rfl))
  | hostByteReceived b stop => exact execHostByteReceived_keeps hlink hserve h b stop
  | armingJointVisit => exact .next (State.pump_driven (State.visitJoint_driven h))
  | _ => exact exec_request_keeps hlink hserve h rfl

end Events

/-- Settles O15: every command keeps both, and a step is a command or nothing. -/
theorem linesFollowTheirTerms : Obligations.LinesFollowTheirTerms := by
  intro s t hlines hphases ht
  have hkept : t.Driven := step_keeps (fun c _ h => exec_driven h c)
    (fun _ _ h => h.of_flow rfl rfl rfl rfl rfl rfl) ⟨s.follows_iff.mpr hlines, hphases⟩ ht
  exact ⟨t.follows_iff.mp hkept.follows, hkept.phases⟩

end Sys2Proof.Machine
end

section
/-! Proofs. The host link: frames encoded, reassembled and checked (R164 to R166), requests taken and
refused (R167, R168), the transmitter's choice (R169), and the raising of notices (R172, R173). -/

namespace Sys2Proof.Machine

open Sys2Proof

/-! ### A frame as sent, received whole (R164 to R166) -/

theorem Frame.content_length (f : Frame) : f.content.length = f.body.length + 4 := by
  simp [Frame.content, be16]

theorem Frame.decoded_take (f : Frame) : f.decoded.take (f.decoded.length - 2) = f.content := by
  rw [Frame.decoded_length, Frame.decoded]
  exact List.take_left' (by rw [Frame.content_length]; rfl)

theorem Frame.decoded_drop (f : Frame) :
    f.decoded.drop (f.decoded.length - 2) = be16 (crc16 f.content).toNat := by
  rw [Frame.decoded_length, Frame.decoded]
  exact List.drop_left' (by rw [Frame.content_length]; rfl)

/-- The length field of a frame holds the length of its body (R185). -/
theorem Frame.decoded_field (f : Frame) (hbody : f.body.length ≤ 1024) :
    u16 f.decoded 2 = f.body.length := by
  have hlayout : f.decoded = f.kind :: f.tag :: (be16 f.body.length
      ++ (f.body ++ be16 (crc16 f.content).toNat)) := by
    simp [Frame.decoded, Frame.content, be16]
  rw [hlayout, u16_be16 _ (by omega)]

theorem Frame.decoded_body (f : Frame) :
    (f.decoded.drop 4).take (f.decoded.length - 6) = f.body := by
  have hlayout : f.decoded.drop 4 = f.body ++ be16 (crc16 f.content).toNat := by
    simp [Frame.decoded, Frame.content, be16]
  rw [hlayout, Frame.decoded_length]
  exact List.take_left' rfl

theorem Frame.decoded_le (f : Frame) (hbody : f.body.length ≤ 1024) : f.decoded.length ≤ 1030 := by
  rw [Frame.decoded_length]; omega

/-- Settles O3: the CRC and the length field of a frame are those of its contents. -/
theorem hostFrameRoundTrip : Obligations.HostFrameRoundTrip := by
  intro f hbody
  have hsize : 6 ≤ f.decoded.length := by rw [Frame.decoded_length]; omega
  have hcrc : be16 (crc16 (f.decoded.take (f.decoded.length - 2))).toNat
      = f.decoded.drop (f.decoded.length - 2) := by
    rw [Frame.decoded_take, Frame.decoded_drop]
  have hfield : u16 f.decoded 2 = f.decoded.length - 6 := by
    rw [f.decoded_field hbody, Frame.decoded_length, Nat.add_sub_cancel]
  have hcheck := checkFrame_of_field_eq hsize hcrc (f.decoded_le hbody) hfield
  rw [Frame.decoded_body] at hcheck
  exact hcheck

/-- A frame received whole is delivered (R166). -/
theorem State.completeFrame_decoded (s : State) (f : Frame) (hbody : f.body.length ≤ 1024) :
    s.completeFrame f.decoded = s.deliver f := by
  cases hheld : s.link.held with
  | none =>
    rw [State.completeFrame_of_valid hheld (hostFrameRoundTrip f hbody), State.deliver, hheld]
    rfl
  | some g => rw [State.completeFrame, State.deliver, hheld]; rfl

theorem exec_decoded (s : State) (f : Frame) (hbody : f.body.length ≤ 1024) :
    exec (.hostFrameReceived f.decoded) s = .next (s.deliver f).pump := by
  rw [exec_hostFrameReceived f.decoded_ne (f.decoded_le hbody), s.completeFrame_decoded f hbody]

/-- Settles O5: both deliver the frame. -/
theorem requestIsItsFrame : Obligations.RequestIsItsFrame := by
  intro c f s hc hbody
  rw [exec_request hc, exec_decoded s f hbody]

/-! ### The framer's table (R165, R168) -/

section Table

variable (held : Bool) (b : List Byte) (u : Nat) {x : Byte}

theorem Framer.take_hunt_delimiter :
    Framer.take held 0xC5 true ⟨.hunt, b, u⟩ = (.empty .frame, .none) := rfl

theorem Framer.take_hunt_other (hx : x ≠ 0xC5) :
    Framer.take held x true ⟨.hunt, b, u⟩ = (⟨.hunt, b, u⟩, .none) := if_neg hx

theorem Framer.take_hunt_noStop :
    Framer.take held x false ⟨.hunt, b, u⟩ = (⟨.hunt, b, u⟩, .none) := rfl

theorem Framer.take_noStop {st : FramerState} (hst : st ≠ .hunt) :
    Framer.take held x false ⟨st, b, u⟩ = (.empty .hunt, .formatError) := by
  cases st with
  | hunt => exact absurd rfl hst
  | frame => rfl
  | escape => rfl

theorem Framer.take_frame_idle (hcount : b.length + u = 0) :
    Framer.take held 0xC5 true ⟨.frame, b, u⟩ = (.empty .frame, .none) := if_pos hcount

theorem Framer.take_frame_close (hcount : b.length + u ≠ 0) :
    Framer.take held 0xC5 true ⟨.frame, b, u⟩ = (.empty .frame, .complete b u) := if_neg hcount

theorem Framer.take_frame_escape :
    Framer.take held 0xCA true ⟨.frame, b, u⟩ = (⟨.escape, b, u⟩, .none) := rfl

/-- A decoded byte is stored, or counted only while a frame is held (R168). -/
theorem Framer.append_of_room (st : FramerState) (hroom : b.length + u < 1030) :
    Framer.append held x ⟨st, b, u⟩
      = (if held then ⟨.frame, b, u + 1⟩ else ⟨.frame, b ++ [x], u⟩, .none) := by
  have hcount : ¬ Config.frameMax ≤ Framer.count ⟨st, b, u⟩ := Nat.not_le.mpr hroom
  rw [Framer.append, if_neg hcount]
  split <;> rfl

theorem Framer.append_of_full (st : FramerState) (hfull : b.length + u = 1030) :
    Framer.append held x ⟨st, b, u⟩ = (.empty .hunt, .formatError) := if_pos hfull.ge

theorem Framer.take_frame_other (hd : x ≠ 0xC5) (he : x ≠ 0xCA) :
    Framer.take held x true ⟨.frame, b, u⟩ = Framer.append held x ⟨.frame, b, u⟩ :=
  (if_neg hd).trans (if_neg he)

theorem Framer.take_escape_delimiter :
    Framer.take held 0x85 true ⟨.escape, b, u⟩ = Framer.append held 0xC5 ⟨.escape, b, u⟩ := rfl

theorem Framer.take_escape_escape :
    Framer.take held 0x8A true ⟨.escape, b, u⟩ = Framer.append held 0xCA ⟨.escape, b, u⟩ := rfl

theorem Framer.take_escape_error :
    Framer.take held 0xC5 true ⟨.escape, b, u⟩ = (.empty .frame, .formatError) := rfl

theorem Framer.take_escape_other (hd : x ≠ 0xC5) (h5 : x ≠ 0x85) (hA : x ≠ 0x8A) :
    Framer.take held x true ⟨.escape, b, u⟩ = (.empty .hunt, .formatError) :=
  (if_neg h5).trans ((if_neg hA).trans (if_neg hd))

end Table

/-! ### A byte taken by a settled link (R165, R168) -/

section Taken

variable {s : State} {st : FramerState} {b : List Byte} {u : Nat} (x : Byte) (stop : Bool)
  (hsettled : s.link.Settled) (hframer : s.link.framer = ⟨st, b, u⟩)
include hsettled hframer

theorem exec_byte_moves {f : Framer}
    (htake : Framer.take s.link.held.isSome x stop ⟨st, b, u⟩ = (f, .none)) :
    exec (.hostByteReceived x stop) s = .next { s with link := { s.link with framer := f } } :=
  execHostByteReceived_moves s x stop f hsettled (hframer ▸ htake)

/-- A byte that leaves the framer as it was changes nothing. -/
theorem exec_byte_ignored
    (htake : Framer.take s.link.held.isSome x stop ⟨st, b, u⟩ = (⟨st, b, u⟩, .none)) :
    exec (.hostByteReceived x stop) s = .next s := by
  rw [exec_byte_moves x stop hsettled hframer htake, ← hframer]

theorem exec_byte_error {f : Framer}
    (htake : Framer.take s.link.held.isSome x stop ⟨st, b, u⟩ = (f, .formatError)) :
    exec (.hostByteReceived x stop) s = .next { s with link := { s.link with
      framer := f
      counters := { s.link.counters with formatErrors := bump s.link.counters.formatErrors 1 } } } :=
  execHostByteReceived_error s x stop f hsettled (hframer ▸ htake)

omit hsettled in
/-- A closing delimiter with every byte stored completes the frame (R165, R166). -/
theorem exec_byte_completes (hb : b ≠ []) (hlen : b.length ≤ 1030) (hu : u = 0) (hst : st = .frame) :
    exec (.hostByteReceived 0xC5 true) s = exec (.hostFrameReceived b)
      { s with link := { s.link with framer := ⟨.frame, [], 0⟩ } } := by
  subst hu hst
  have hcount : b.length + 0 ≠ 0 := by simpa using hb
  rw [exec_hostFrameReceived hb hlen]
  show execHostByteReceived 0xC5 true s = _
  rw [execHostByteReceived, hframer, Framer.take_frame_close _ _ _ hcount]
  rfl

end Taken

/-- A decoded byte that finds room, or does not (R165). -/
theorem exec_byte_appends {s : State} {st st' : FramerState} {b : List Byte} {u : Nat} (x : Byte) {y : Byte}
    {f : Framer}
    (hsettled : s.link.Settled) (hframer : s.link.framer = ⟨st, b, u⟩)
    (hf : (if s.link.held = none then ⟨.frame, b ++ [y], u⟩ else ⟨.frame, b, u + 1⟩) = f)
    (htake : Framer.take s.link.held.isSome x true ⟨st, b, u⟩
      = Framer.append s.link.held.isSome y ⟨st', b, u⟩) :
    (b.length + u < 1030 →
      exec (.hostByteReceived x true) s = .next { s with link := { s.link with framer := f } }) ∧
    (b.length + u = 1030 → exec (.hostByteReceived x true) s = .next { s with link := { s.link with
      framer := ⟨.hunt, [], 0⟩
      counters := { s.link.counters with formatErrors := bump s.link.counters.formatErrors 1 } } }) := by
  refine ⟨fun hroom => ?_, fun hfull => ?_⟩
  · refine exec_byte_moves x true hsettled hframer (htake.trans ?_)
    rw [Framer.append_of_room _ _ _ _ hroom, ← hf]
    cases s.link.held with
    | none => rfl
    | some g => rfl
  · exact exec_byte_error x true hsettled hframer (htake.trans (Framer.append_of_full _ _ _ _ hfull))

/-! ### The framer beside the frames -/

theorem Link.reply_framer (l : Link) (st : Status) (b : List Byte) :
    (l.reply st b).framer = l.framer := by
  unfold Link.reply
  split <;> rfl

theorem Link.pump_framer (l : Link) : l.pump.framer = l.framer := by
  unfold Link.pump
  repeat' split
  · rfl
  · rfl
  · rfl
  · exact (Link.drain_rest _).1
  · rfl

theorem State.serveResetStation_framer (s : State) :
    s.serveResetStation.link.framer = s.link.framer := by
  unfold State.serveResetStation
  split
  · exact Link.reply_framer _ _ _
  · rfl

/-- A RESET_STATION, taken, turned away or held, leaves the framer as it is (R181). -/
theorem State.deliver_reset_framer (s : State) (tag : Byte) :
    (s.deliver ⟨0x3B, tag, []⟩).link.framer = s.link.framer := by
  unfold State.deliver
  split
  · rfl
  · unfold State.takeFrame
    split
    · exact State.serveResetStation_framer _
    · split <;> rfl

/-- Settles O7: the table of the framer, with every byte stored. -/
theorem framerTakesAByte : Obligations.FramerTakesAByte := by
  refine ⟨?_, fun s => ⟨_, rfl, rfl⟩, fun s tag => ?_, fun s => ?_⟩
  · intro s st b x hheld hsettled hframer hlen moves error
    have hmoves {x : Byte} {stop : Bool} {f : Framer} :=
      exec_byte_moves (f := f) x stop hsettled hframer
    have herror {x : Byte} {stop : Bool} {f : Framer} :=
      exec_byte_error (f := f) x stop hsettled hframer
    have happends {x y : Byte} {st' : FramerState} :=
      exec_byte_appends (st' := st') (y := y) x hsettled hframer (if_pos hheld)
    refine ⟨?_, ?_, ?_, ?_, ?_, ?_, ?_, ?_, ?_, ?_, ?_, ?_, ?_, ?_⟩
    · rintro rfl rfl
      exact hmoves (Framer.take_hunt_delimiter _ _ _)
    · rintro rfl hx
      exact exec_byte_ignored x true hsettled hframer (Framer.take_hunt_other _ _ _ hx)
    · rintro rfl rfl rfl
      exact hmoves (Framer.take_frame_idle _ _ _ rfl)
    · rintro rfl rfl hb
      exact exec_byte_completes hframer hb hlen rfl rfl
    · rintro rfl rfl
      exact hmoves (Framer.take_frame_escape _ _ _)
    · intro hst hd he hroom
      subst hst
      exact (happends (Framer.take_frame_other _ _ _ hd he)).1 hroom
    · intro hst hd he hfull
      subst hst
      exact (happends (Framer.take_frame_other _ _ _ hd he)).2 hfull
    · rintro rfl rfl hroom
      exact (happends (Framer.take_escape_delimiter _ _ _)).1 hroom
    · rintro rfl rfl hroom
      exact (happends (Framer.take_escape_escape _ _ _)).1 hroom
    · rintro rfl (rfl | rfl) hfull
      · exact (happends (Framer.take_escape_delimiter _ _ _)).2 hfull
      · exact (happends (Framer.take_escape_escape _ _ _)).2 hfull
    · rintro rfl rfl
      exact herror (Framer.take_escape_error _ _ _)
    · rintro rfl hd h5 hA
      exact herror (Framer.take_escape_other _ _ _ hd h5 hA)
    · rintro rfl
      exact exec_byte_ignored x false hsettled hframer (Framer.take_hunt_noStop _ _ _)
    · intro hst
      exact herror (Framer.take_noStop _ _ _ hst)
  · exact ⟨_, exec_request rfl s, (Link.pump_framer _).trans (s.deliver_reset_framer tag)⟩
  · dsimp only [exec, execStationResetComplete]
    split
    · exact ⟨_, rfl, rfl⟩
    · exact ⟨_, rfl, (Link.pump_framer _).trans (Link.reply_framer _ _ _)⟩

/-! ### Requests taken, turned away and held (R167, R168, R186) -/

/-- The kind bytes of R186. -/
def requestKinds : List Byte := [0x01, 0x02, 0x03, 0x10, 0x11, 0x12, 0x13, 0x14, 0x20, 0x21, 0x22, 0x23,
  0x28, 0x29, 0x30, 0x31, 0x32, 0x33, 0x34, 0x38, 0x39, 0x3A, 0x3B, 0x3C, 0x3D]

theorem ReqKind.byte_mem (k : ReqKind) : k.byte ∈ requestKinds := by
  cases k <;> decide

theorem ReqKind.ofByte_eq_none {b : Byte} : b ∉ requestKinds ↔ ReqKind.ofByte b = none := by
  constructor
  · intro hb
    cases hk : ReqKind.ofByte b with
    | none => rfl
    | some k => exact absurd (ReqKind.ofByte_some hk ▸ k.byte_mem) hb
  · intro hnone hb
    have hknown : ∀ b ∈ requestKinds, (ReqKind.ofByte b).isSome := by decide
    have hsome := hknown b hb
    rw [hnone] at hsome
    cases hsome

/-- A frame that arrives while another is held is counted and discarded (R168). -/
theorem exec_received_of_held {s : State} {f : Frame} {d : List Byte} (hheld : s.link.held = some f)
    (hsettled : s.link.Settled) (hne : d ≠ []) (hmax : d.length ≤ 1030) :
    exec (.hostFrameReceived d) s = .next (s.modLink (Link.count (fun k =>
      { k with overruns := bump k.overruns 1 }))) := by
  refine exec_hostFrameReceived_of_discarded hne hmax hsettled ?_
  rw [State.completeFrame, hheld]
  rfl

/-- A valid frame while none is held is counted and taken (R166). -/
theorem State.deliver_of_free {s : State} (hheld : s.link.held = none) (f : Frame) :
    s.deliver f = (s.modLink (Link.count (fun k =>
      { k with framesValid := bump k.framesValid 1 }))).takeFrame f := by
  rw [State.deliver, hheld]
  rfl

section InService

variable {s : State} {r : Byte × Byte} (hserved : s.link.inService = some r)
include hserved

theorem State.takeFrame_unknown (f : Frame) (hroom : s.link.refusals.length < 4)
    (hkind : ReqKind.ofByte f.kind = none) :
    s.takeFrame f = { s with link := { s.link with
      refusals := s.link.refusals ++ [⟨f.kind + 0x80, f.tag, .badKind⟩]
      counters := { s.link.counters with
        unknownKinds := bump s.link.counters.unknownKinds 1 } } } := by
  rw [State.takeFrame, hserved]
  refine (if_pos hroom).trans ?_
  rw [State.turnAway, hkind]
  rfl

theorem State.takeFrame_busy (f : Frame) {k : ReqKind} (hroom : s.link.refusals.length < 4)
    (hkind : ReqKind.ofByte f.kind = some k) :
    s.takeFrame f = { s with link := { s.link with
      refusals := s.link.refusals ++ [⟨f.kind + 0x80, f.tag, .busy⟩]
      counters := { s.link.counters with busyReplies := bump s.link.counters.busyReplies 1 } } } := by
  rw [State.takeFrame, hserved]
  refine (if_pos hroom).trans ?_
  rw [State.turnAway, hkind]
  rfl

theorem State.takeFrame_held (f : Frame) (hfull : 4 ≤ s.link.refusals.length) :
    s.takeFrame f = { s with link := { s.link with held := some f } } := by
  rw [State.takeFrame, hserved]
  exact if_neg (Nat.not_lt.mpr hfull)

end InService

/-- A closing delimiter of a frame with bytes counted and not stored, or beside a held frame, discards it
(R168; assumption log 14). -/
theorem exec_byte_overruns {s : State} {b : List Byte} {u : Nat} (hsettled : s.link.Settled)
    (hframer : s.link.framer = ⟨.frame, b, u⟩) (hlost : s.link.held ≠ none ∨ 0 < u)
    (hcount : b.length + u ≠ 0) :
    exec (.hostByteReceived 0xC5 true) s = .next { s with link := { s.link with
      framer := ⟨.frame, [], 0⟩
      counters := { s.link.counters with overruns := bump s.link.counters.overruns 1 } } } := by
  have hevent : (s.modLink (fun l => { l with framer := .empty .frame })).framerEvent (.complete b u)
      = (s.modLink (fun l => { l with framer := .empty .frame })).countOverrun := by
    rw [State.framerEvent]
    split
    · rfl
    next hu =>
      have hheld : s.link.held.isSome = true := Option.isSome_iff_ne_none.mpr (hlost.resolve_right hu)
      exact if_pos hheld
  show execHostByteReceived 0xC5 true s = _
  rw [execHostByteReceived, hframer, Framer.take_frame_close _ _ _ hcount, hevent]
  exact congrArg _ (State.pump_settled hsettled)

/-- Settles O9: frames turned away or held, bytes beside a held frame, and the held frame taken. -/
theorem refusedWhileInService : Obligations.RefusedWhileInService := by
  refine ⟨?_, fun s f d hheld hsettled hne hmax => exec_received_of_held hheld hsettled hne hmax,
    ?_, ?_, ?_⟩
  · intro s f r hserved hheld hbody n
    have hcounted : (s.modLink (Link.count (fun k =>
        { k with framesValid := bump k.framesValid 1 }))).link.inService = some r := hserved
    rw [exec_decoded s f hbody, State.deliver_of_free hheld]
    refine ⟨fun hroom hkind => ?_, fun hroom hkind => ?_, fun hfull => ?_⟩
    · rw [State.takeFrame_unknown hcounted f hroom (ReqKind.ofByte_eq_none.mp hkind)]
      rfl
    · obtain ⟨k, hk⟩ := Option.ne_none_iff_exists'.mp (mt ReqKind.ofByte_eq_none.mpr (not_not_intro hkind))
      rw [State.takeFrame_busy hcounted f hroom hk]
      rfl
    · rw [State.takeFrame_held hcounted f hfull]
      rfl
  · intro s st b u x hsettled hframer hlen hlost moves grows error
    have hmoves {x : Byte} {stop : Bool} {f : Framer} :=
      exec_byte_moves (f := f) x stop hsettled hframer
    have herror {x : Byte} {stop : Bool} {f : Framer} :=
      exec_byte_error (f := f) x stop hsettled hframer
    have happends {x y : Byte} {st' : FramerState} :=
      exec_byte_appends (st' := st') (y := y) x hsettled hframer rfl
    refine ⟨?_, ?_, ?_, ?_, ?_, ?_, ?_, ?_, ?_, ?_, ?_, ?_, ?_, ?_⟩
    · rintro rfl rfl
      exact hmoves (Framer.take_hunt_delimiter _ _ _)
    · rintro rfl hx
      exact exec_byte_ignored x true hsettled hframer (Framer.take_hunt_other _ _ _ hx)
    · rintro rfl rfl hcount
      exact hmoves (Framer.take_frame_idle _ _ _ hcount)
    · rintro rfl rfl hcount
      exact exec_byte_overruns hsettled hframer hlost hcount
    · rintro rfl rfl
      exact hmoves (Framer.take_frame_escape _ _ _)
    · intro hst hd he hroom
      subst hst
      exact (happends (Framer.take_frame_other _ _ _ hd he)).1 hroom
    · intro hst hd he hfull
      subst hst
      exact (happends (Framer.take_frame_other _ _ _ hd he)).2 hfull
    · rintro rfl rfl hroom
      exact (happends (Framer.take_escape_delimiter _ _ _)).1 hroom
    · rintro rfl rfl hroom
      exact (happends (Framer.take_escape_escape _ _ _)).1 hroom
    · rintro rfl (rfl | rfl) hfull
      · exact (happends (Framer.take_escape_delimiter _ _ _)).2 hfull
      · exact (happends (Framer.take_escape_escape _ _ _)).2 hfull
    · rintro rfl rfl
      exact herror (Framer.take_escape_error _ _ _)
    · rintro rfl hd h5 hA
      exact herror (Framer.take_escape_other _ _ _ hd h5 hA)
    · rintro rfl
      exact exec_byte_ignored x false hsettled hframer (Framer.take_hunt_noStop _ _ _)
    · intro hst
      exact herror (Framer.take_noStop _ _ _ hst)
  · intro s f hheld hfree
    show execHeldFrameTaken s = _
    rw [execHeldFrameTaken, hheld]
    refine if_pos ?_
    rw [Bool.or_eq_true, decide_eq_true_eq, Option.isNone_iff_eq_none]
    exact hfree
  · intro s f hheld hserved hfull
    show execHeldFrameTaken s = _
    rw [execHeldFrameTaken, hheld]
    refine if_neg ?_
    rw [Bool.or_eq_true, decide_eq_true_eq, Option.isNone_iff_eq_none]
    exact not_or_intro hserved (Nat.not_lt.mpr hfull)

/-! ### A request taken (R167, R186) -/

/-- A frame of no known kind is answered BAD_KIND (R167). -/
theorem State.deliver_unknown {s : State} {f : Frame} (htakes : s.Takes)
    (hkind : ReqKind.ofByte f.kind = none) :
    (s.deliver f).pump = { s with
      link := (s.link.count (fun k => { k with unknownKinds := bump k.unknownKinds 1 })).answered
        f.kind f.tag .badKind [] } := by
  rw [s.deliver_takes f htakes, State.serveFrame, hkind]
  exact State.served_reply { s with link := s.link.count (fun k =>
    { k with unknownKinds := bump k.unknownKinds 1 }) } f.kind f.tag .badKind []

/-- A body of the wrong length is answered BAD_ARG (R167). -/
theorem State.deliver_misfit {s : State} {f : Frame} {k : ReqKind} (htakes : s.Takes)
    (hkind : ReqKind.ofByte f.kind = some k) (hfits : k.bodyFits f.body.length ≠ true) :
    (s.deliver f).pump = { s with link := s.link.answered f.kind f.tag .badArg [] } := by
  rw [s.deliver_takes f htakes, State.serveFrame, hkind]
  dsimp only
  rw [if_neg hfits]
  exact State.served_reply s f.kind f.tag .badArg []

/-- The rows of R186: the kind byte, the request it names, and the least and greatest body. -/
def requestRows : List (Byte × ReqKind × Nat × Nat) := [
  (0x01, .identify, 0, 0), (0x02, .configureStation, 38, 38), (0x03, .setMode, 1, 1),
  (0x10, .programBegin, 38, 38), (0x11, .programData, 24, 1024), (0x12, .programEnd, 1, 1),
  (0x13, .programErase, 1, 1), (0x14, .programStatus, 1, 1), (0x20, .queuePanel, 38, 38),
  (0x21, .cancelQueue, 0, 0), (0x22, .panelStatus, 1, 1), (0x23, .readVerdicts, 5, 5),
  (0x28, .readLog, 4, 4), (0x29, .releaseSegment, 1, 1), (0x30, .readDrift, 3, 3),
  (0x31, .resetDrift, 3, 3), (0x32, .readRepeat, 5, 5), (0x33, .clearRepeat, 1, 1),
  (0x34, .readOvenCodes, 0, 0), (0x38, .setNoticeMask, 1, 1), (0x39, .clearStop, 0, 0),
  (0x3A, .clearFault, 0, 0), (0x3B, .resetStation, 0, 0), (0x3C, .readCounters, 0, 0),
  (0x3D, .clearCounters, 0, 0)]

/-- A row names its request and the range of its body. -/
theorem requestRows_known :
    ∀ r ∈ requestRows, ReqKind.ofByte r.1 = some r.2.1 ∧ r.2.1.bodyRange = r.2.2 := by decide

theorem requestRows_all : ∀ b ∈ requestKinds, ∃ r ∈ requestRows, r.1 = b := by decide

/-- Settles O8: the kinds and lengths of R186, and the service of a frame that has them. -/
theorem requestIsTaken : Obligations.RequestIsTaken := by
  intro s f htakes hbody
  rw [exec_decoded s f hbody]
  refine ⟨fun hunknown => ?_, fun k least greatest hrow => ?_⟩
  · refine congrArg _ (State.deliver_unknown htakes (ReqKind.ofByte_eq_none.mp fun hmem => ?_))
    obtain ⟨r, hr, hkind⟩ := requestRows_all _ hmem
    exact hunknown r hr hkind
  · obtain ⟨hkind, hrange⟩ := requestRows_known _ hrow
    have hfits : k.bodyFits f.body.length = true ↔
        least ≤ f.body.length ∧ f.body.length ≤ greatest := by
      rw [ReqKind.bodyFits, hrange, Bool.and_eq_true, decide_eq_true_eq, decide_eq_true_eq]
    refine ⟨fun hout => ?_, fun hmin hmax => ?_⟩
    · refine congrArg _ (State.deliver_misfit htakes hkind fun hfit => ?_)
      have := hfits.mp hfit
      omega
    · rw [s.deliver_known f k htakes hkind (hfits.mpr ⟨hmin, hmax⟩)]
      rfl

/-! ### The transmitter's choice (R167, R169) -/

section Choice

variable {l : Link}

theorem Link.pump_of_busy {x : Sending} (hbusy : l.sending = some x) : l.pump = l := by
  rw [Link.pump, hbusy]

variable (hfree : l.sending = none)
include hfree

theorem Link.pump_reply {f : Frame} (hreply : l.replySlot = some f) :
    l.pump = { l with sending := some (.reply f), replySlot := none } := by
  rw [Link.pump, hfree, hreply]

variable (hreply : l.replySlot = none)
include hreply

theorem Link.pump_answer {a : Answer} {rest : List Answer} (hanswers : l.refusals = a :: rest) :
    l.pump = { l with sending := some (.answer a), refusals := rest } := by
  rw [Link.pump, hfree, hreply, hanswers]

variable (hanswers : l.refusals = [])
include hanswers

theorem Link.pump_notice {n : Notice} {rest : List Notice} (hnotices : l.notices = n :: rest) :
    l.pump = ({ l with
      sending := some (.notice n)
      notices := rest
      counters := { l.counters with noticesSent := bump l.counters.noticesSent 1 } } : Link).drain := by
  rw [Link.pump, hfree, hreply, hanswers, hnotices]

theorem Link.pump_nothing (hnotices : l.notices = []) : l.pump = l := by
  rw [Link.pump, hfree, hreply, hanswers, hnotices]

end Choice

/-- The link at the end of a transmission, before the transmitter chooses (R167). -/
def Link.sent (x : Sending) (l : Link) : Link :=
  { l with
    sending := none
    inService := match x with
      | .reply _ => none
      | _ => l.inService }

theorem exec_transmitComplete {s : State} {x : Sending} (hbusy : s.link.sending = some x) :
    exec .transmitComplete s = .next { s with link := (s.link.sent x).pump } := by
  show execTransmitComplete s = _
  rw [execTransmitComplete, hbusy]
  cases x with
  | reply f => rfl
  | answer a => rfl
  | notice n => rfl

/-- Settles O10: what the transmitter chooses at the end of a transmission, and when it chooses nothing. -/
theorem transmitterChooses : Obligations.TransmitterChooses := by
  refine ⟨?_, fun s hfree => ?_, fun l x hbusy => Link.pump_of_busy hbusy⟩
  · intro s x hbusy l
    have hchoice : exec .transmitComplete s = .next { s with link := l.pump } :=
      exec_transmitComplete hbusy
    have hfree : l.sending = none := rfl
    rw [hchoice]
    refine ⟨fun f hreply => ?_, fun a rest hreply hanswers => ?_,
      fun n rest hreply hanswers hnotices => ?_, fun hreply hanswers hnotices => ?_⟩
    · rw [Link.pump_reply hfree hreply]
    · rw [Link.pump_answer hfree hreply hanswers]
    · rw [Link.pump_notice hfree hreply hanswers hnotices]
    · rw [Link.pump_nothing hfree hreply hanswers hnotices]
  · show execTransmitComplete s = _
    rw [execTransmitComplete, hfree]

/-! ### Notices (R172, R173, R188) -/

theorem Link.raise_of_pending {l : Link} {d : NoticeData} {n : Notice}
    (hslot : mapGet d.kind l.pending = some n) :
    l.raise d = { l with
      pending := mapPut d.kind ⟨d, min (n.count + 1) 65535⟩ l.pending
      counters := { l.counters with coalesced := bump l.counters.coalesced 1 } } := by
  rw [Link.raise, hslot]

theorem Link.raise_of_room {l : Link} {d : NoticeData} (hslot : mapGet d.kind l.pending = none)
    (hmask : l.masked d.kind = false) (hroom : l.notices.length < 16) :
    l.raise d = { l with notices := l.notices ++ [⟨d, 1⟩] } := by
  rw [Link.raise, hslot]
  refine if_pos ?_
  rw [hmask, Bool.not_false, Bool.true_and, decide_eq_true_eq]
  exact hroom

theorem Link.raise_of_barred {l : Link} {d : NoticeData} (hslot : mapGet d.kind l.pending = none)
    (hbar : l.masked d.kind = true ∨ 16 ≤ l.notices.length) :
    l.raise d = { l with pending := mapPut d.kind ⟨d, 1⟩ l.pending } := by
  rw [Link.raise, hslot]
  refine if_neg ?_
  rw [Bool.and_eq_true, Bool.not_eq_true', decide_eq_true_eq]
  rintro ⟨hmask, hroom⟩
  rcases hbar with hmasked | hfull
  · rw [hmask] at hmasked
    cases hmasked
  · exact absurd hroom (Nat.not_lt.mpr hfull)

/-- Settles O12: what a raise does to the queue and the pending slots, the link after a cold reset, and
the bytes of what the link sends. -/
theorem noticeIsRaised : Obligations.NoticeIsRaised := by
  refine ⟨fun l d => ⟨fun hmask hroom hslot => Link.raise_of_room hslot hmask hroom,
      fun hbar hslot => Link.raise_of_barred hslot hbar, fun n hslot => Link.raise_of_pending hslot⟩,
    fun s => ⟨_, rfl, rfl, rfl, fun k => ?_⟩, fun f => rfl, fun a => rfl, fun n => rfl, ?_⟩
  · exact BitVec.getLsbD_zero
  · refine ⟨fun x => ⟨rfl, rfl⟩, fun g n => ⟨rfl, rfl⟩, fun c q g => ⟨rfl, rfl⟩,
      fun k c before after => ⟨⟨rfl, rfl⟩, fun e => ⟨rfl, rfl⟩⟩, fun k i v q => ⟨rfl, rfl⟩,
      fun new previous time deviating hold => ⟨rfl, rfl⟩,
      fun p q l => ⟨⟨rfl, rfl⟩, fun m => ⟨rfl, rfl⟩⟩, fun new previous cause => ⟨rfl, rfl⟩⟩

/-! ### A frame reassembled byte by byte (R164, R165) -/

theorem stepMany_cons {s t : State} {c : Instr} {rest : List Instr} (n : Nat)
    (hqueue : s.pending = c :: rest) (hc : exec c { s with pending := rest } = .next t) :
    stepMany (n + 1) s = stepMany n t := by
  rw [stepMany, stepRunsTheFrontCommand.2.1 c rest s hqueue, hc]

/-- The state while a settled link receives a frame: the framer's progress and the bytes to come. -/
def State.receiving (s : State) (framer : Framer) (bytes : List Byte) : State :=
  { s with
    link := { s.link with framer := framer }
    pending := bytes.map (fun b => Instr.hostByteReceived b true) ++ s.pending }

section Reassembly

variable {s : State} (hheld : s.link.held = none) (hsettled : s.link.Settled)
include hheld hsettled

/-- A byte that moves the framer alone. -/
theorem State.receiving_moves {f g : Framer} {x : Byte} (bytes : List Byte) (n : Nat)
    (htake : f.take false x true = (g, .none)) :
    stepMany (n + 1) (s.receiving f (x :: bytes)) = stepMany n (s.receiving g bytes) := by
  refine stepMany_cons n rfl (execHostByteReceived_moves _ x true g hsettled ?_)
  show f.take s.link.held.isSome x true = _
  rw [hheld]
  exact htake

/-- The encoding of one decoded byte stores that byte (R164, R165). -/
theorem State.receiving_escaped (b : List Byte) (x : Byte) (bytes : List Byte) (n : Nat)
    (hroom : b.length < 1030) :
    stepMany (n + (escaped x).length) (s.receiving ⟨.frame, b, 0⟩ (escaped x ++ bytes))
      = stepMany n (s.receiving ⟨.frame, b ++ [x], 0⟩ bytes) := by
  have hstore (y : Byte) (st : FramerState) :
      Framer.append false y ⟨st, b, 0⟩ = (⟨.frame, b ++ [y], 0⟩, .none) :=
    Framer.append_of_room false b 0 st hroom
  by_cases hd : x = 0xC5
  · subst hd
    exact (receiving_moves hheld hsettled _ _ (Framer.take_frame_escape _ _ _)).trans
      (receiving_moves hheld hsettled _ _ ((Framer.take_escape_delimiter _ _ _).trans (hstore _ _)))
  by_cases he : x = 0xCA
  · subst he
    exact (receiving_moves hheld hsettled _ _ (Framer.take_frame_escape _ _ _)).trans
      (receiving_moves hheld hsettled _ _ ((Framer.take_escape_escape _ _ _).trans (hstore _ _)))
  have hplain : escaped x = [x] := if_neg (not_or_intro hd he)
  rw [hplain]
  exact receiving_moves hheld hsettled _ _ ((Framer.take_frame_other _ _ _ hd he).trans (hstore _ _))

/-- The encoding of a run of decoded bytes stores them in their order. -/
theorem State.receiving_run (b d bytes : List Byte) (n : Nat) (hroom : b.length + d.length ≤ 1030) :
    stepMany (n + (d.flatMap escaped).length)
        (s.receiving ⟨.frame, b, 0⟩ (d.flatMap escaped ++ bytes))
      = stepMany n (s.receiving ⟨.frame, b ++ d, 0⟩ bytes) := by
  induction d generalizing b with
  | nil => rw [List.append_nil]; rfl
  | cons x d ih =>
    rw [List.length_cons] at hroom
    rw [List.flatMap_cons, List.length_append, Nat.add_comm (escaped x).length, ← Nat.add_assoc,
      List.append_assoc, receiving_escaped hheld hsettled _ _ _ _ (by omega),
      ih _ (by rw [List.length_append, List.length_singleton]; omega), List.append_assoc]
    rfl

end Reassembly

/-- Settles O4: the opening delimiter begins the frame, its encoded bytes are stored in their order, and
the closing delimiter completes it. -/
theorem framerReassemblesTheFrame : Obligations.FramerReassemblesTheFrame := by
  intro s f hbody hheld hsettled hstate
  have hopen : s.link.framer.take false 0xC5 true = (⟨.frame, [], 0⟩, .none) := by
    rcases hstate with hhunt | hframe
    · rw [Framer.take, hhunt]; rfl
    · rw [hframe]; rfl
  have hstart : { s with pending := f.wire.map (fun b => Instr.hostByteReceived b true) ++ s.pending }
      = s.receiving s.link.framer (0xC5 :: (f.decoded.flatMap escaped ++ [0xC5])) := rfl
  have hlen : f.wire.length = 1 + (f.decoded.flatMap escaped).length + 1 := by
    simp [Frame.wire, onLane, Nat.add_comm]
  have hmax := f.decoded_le hbody
  obtain ⟨t, ht, -⟩ := everyCommandIsCarriedOut (.hostFrameReceived f.decoded)
    { s with link := { s.link with framer := ⟨.frame, [], 0⟩ } }
  have hclose : exec (.hostByteReceived 0xC5 true)
      { s with link := { s.link with framer := ⟨.frame, f.decoded, 0⟩ } } = .next t :=
    (exec_byte_completes rfl f.decoded_ne hmax rfl rfl).trans ht
  rw [hstart, hlen, State.receiving_moves hheld hsettled _ _ hopen,
    State.receiving_run hheld hsettled [] f.decoded [0xC5] 1 (by simpa using hmax), List.nil_append,
    stepMany_cons 0 rfl hclose, ht]
  rfl

end Sys2Proof.Machine
end

section
/-! Proofs. Requests that are refused in a station state (R171), and requests that report: the slots, the
verdict tables, the log's segments and the oven codes (R17, R151, R161, R178). -/

namespace Sys2Proof.Machine

open Sys2Proof

/-! ### Requests refused in a station state (R171) -/

theorem ReqKind.byte_injective {k j : ReqKind} (h : k.byte = j.byte) : k = j := by
  have hk := ReqKind.ofByte_byte k
  rw [h, ReqKind.ofByte_byte] at hk
  exact (Option.some.inj hk).symm

/-- A request whose owner refuses it is answered with that status and changes nothing else. -/
theorem exec_refused {c : Instr} {s : State} {k : ReqKind} {tag : Byte} {body : List Byte} {st : Status}
    (hc : requestFrame c = some ⟨k.byte, tag, body⟩) (htakes : s.Takes)
    (hfits : k.bodyFits body.length = true)
    (hserve : (s.served k.byte tag).serve k body = (s.served k.byte tag).refuse st) :
    exec c s = .next (s.answered k tag st []) := by
  rw [exec_request hc, s.deliver_known _ k htakes (ReqKind.ofByte_byte k) hfits, hserve]
  exact congrArg _ (s.served_reply_kind k tag st [])

section Unavailable

variable {s : State}

theorem State.serveConfigure_unavailable (b : List Byte)
    (hbar : s.flow.station = .running ∨ s.flow.station = .draining ∨ s.flow.station = .stopped
      ∨ s.flow.station = .fault ∨ (s.flow.station = .idle ∧ s.flow.bothFree = false)) :
    s.serveConfigure b = s.refuse .badState := by
  refine if_pos ?_
  rw [State.configureBarred]
  rcases hbar with h | h | h | h | ⟨h, hbusy⟩
  · rw [h]; rfl
  · rw [h]; rfl
  · rw [h]; rfl
  · rw [h]; rfl
  · rw [h, hbusy]; rfl

theorem State.serveSetMode_unavailable (b : List Byte)
    (hbar : s.flow.station = .offline ∨ s.flow.station = .stopped ∨ s.flow.station = .fault) :
    s.serveSetMode b = s.refuse .badState := by
  refine if_pos ?_
  rw [Flow.takesMode]
  rcases hbar with h | h | h
  · rw [h]; rfl
  · rw [h]; rfl
  · rw [h]; rfl

theorem State.serveReadVerdicts_free {c : CtxId} {b : List Byte} (hc : u8 b 0 = c.val)
    (hlo : 1 ≤ u16 b 3) (hhi : u16 b 3 ≤ 256) (hfree : (s.ctx c).state = .free) :
    s.serveReadVerdicts b = s.refuse .badState := by
  rw [State.serveReadVerdicts, hc, pairIndex_val]
  dsimp only
  rw [if_neg (by omega), if_pos hfree]

variable (hoff : s.flow.station = .offline)
include hoff

theorem State.offline_of : s.offline = true := by rw [State.offline, hoff]; rfl

theorem State.serveProgramBegin_offline {b : List Byte} (hslot : u8 b 0 < 4) :
    s.serveProgramBegin b = s.refuse .badState := by
  have hk : u8 b 0 = (⟨u8 b 0, hslot⟩ : SlotId).val := rfl
  rw [State.serveProgramBegin, hk, quadIndex_val]
  exact if_pos (offline_of hoff)

theorem State.serveProgramEnd_offline {b : List Byte} (hslot : u8 b 0 < 4) :
    s.serveProgramEnd b = s.refuse .badState := by
  have hk : u8 b 0 = (⟨u8 b 0, hslot⟩ : SlotId).val := rfl
  rw [State.serveProgramEnd, hk, quadIndex_val]
  exact if_pos (.inl (offline_of hoff))

theorem State.serveProgramErase_offline {b : List Byte} (hslot : u8 b 0 < 4) :
    s.serveProgramErase b = s.refuse .badState := by
  have hk : u8 b 0 = (⟨u8 b 0, hslot⟩ : SlotId).val := rfl
  rw [State.serveProgramErase, hk, quadIndex_val]
  exact if_pos (offline_of hoff)

end Unavailable

/-- The body of a request for a run of numbered things: whose they are, the first and how many (R186). -/
def rangeBody (context : Byte) (first count : U16) : List Byte :=
  context :: (fieldOf first ++ fieldOf count)

theorem rangeBody_first (context : Byte) (first count : U16) :
    u16 (rangeBody context first count) 1 = first.toNat := by
  rw [rangeBody, fieldOf, u16_succ, u16_of_be16]

theorem rangeBody_count (context : Byte) (first count : U16) :
    u16 (rangeBody context first count) 3 = count.toNat := by
  rw [rangeBody, fieldOf, fieldOf, u16_succ, u16_after_field]
  simpa using u16_of_be16 count []

/-- The frame of a command names its kind, so the kind that refuses it is the one that serves it. -/
theorem exec_unavailable {c : Instr} {s : State} {j k : ReqKind} {t tag : Byte} {b body : List Byte}
    (hj : requestFrame c = some ⟨j.byte, t, b⟩) (hc : requestFrame c = some ⟨k.byte, tag, body⟩)
    (htakes : s.Takes) (hfits : j.bodyFits b.length = true)
    (hserve : (s.served j.byte t).serve j b = (s.served j.byte t).refuse .badState) :
    exec c s = .next (s.answered k tag .badState []) := by
  have hframe := Option.some.inj (hj.symm.trans hc)
  rw [Frame.mk.injEq] at hframe
  obtain ⟨hkind, rfl, rfl⟩ := hframe
  cases ReqKind.byte_injective hkind
  exact exec_refused hc htakes hfits hserve

theorem ReqKind.bodyFits_iff {k : ReqKind} {n : Nat} :
    k.bodyFits n = true ↔ k.bodyRange.1 ≤ n ∧ n ≤ k.bodyRange.2 := by
  rw [ReqKind.bodyFits, Bool.and_eq_true, decide_eq_true_eq, decide_eq_true_eq]

/-- Settles O11: each owner refuses the request before it does anything. -/
theorem unavailableRequestIsRefused : Obligations.UnavailableRequestIsRefused := by
  intro c k tag body s hc htakes hbar
  cases c with
  | configureStation t record =>
    obtain ⟨hlen, hbar⟩ := hbar
    exact exec_unavailable (j := .configureStation) rfl hc htakes
      (ReqKind.bodyFits_iff.mpr ⟨hlen.ge, hlen.le⟩) (State.serveConfigure_unavailable _ hbar)
  | setMode t mode =>
    exact exec_unavailable (j := .setMode) rfl hc htakes rfl (State.serveSetMode_unavailable _ hbar)
  | programBegin t slot header =>
    obtain ⟨hslot, hlen, hoff⟩ := hbar
    refine exec_unavailable (j := .programBegin) rfl hc htakes (ReqKind.bodyFits_iff.mpr ?_)
      (State.serveProgramBegin_offline (s := s.served _ t) (b := slot :: header) hoff hslot)
    rw [List.length_cons, hlen]
    exact ⟨le_rfl, le_rfl⟩
  | programData t slot sect first count records =>
    obtain ⟨hslot, hmin, hmax, hoff⟩ := hbar
    refine exec_unavailable (j := .programData) (b := dataBody slot sect first count records) rfl hc
      htakes (ReqKind.bodyFits_iff.mpr ?_)
      (serveProgramData_notLoading (k := ⟨slot.toNat, hslot⟩) rfl (.inl hoff))
    rw [dataBody_length]
    constructor
    · exact Nat.add_le_add_left hmin 5
    · exact Nat.add_le_add_left hmax 5
  | programEnd t slot =>
    obtain ⟨hslot, hoff⟩ := hbar
    exact exec_unavailable (j := .programEnd) rfl hc htakes rfl
      (State.serveProgramEnd_offline (s := s.served _ t) (b := [slot]) hoff hslot)
  | programErase t slot =>
    obtain ⟨hslot, hoff⟩ := hbar
    exact exec_unavailable (j := .programErase) rfl hc htakes rfl
      (State.serveProgramErase_offline (s := s.served _ t) (b := [slot]) hoff hslot)
  | queuePanel t descriptor =>
    obtain ⟨hlen, hoff⟩ := hbar
    exact exec_unavailable (j := .queuePanel) rfl hc htakes
      (ReqKind.bodyFits_iff.mpr ⟨hlen.ge, hlen.le⟩) (if_pos (State.offline_of hoff))
  | cancelQueue t =>
    exact exec_unavailable (j := .cancelQueue) rfl hc htakes rfl (if_pos (State.offline_of hbar))
  | resetStation t =>
    exact exec_unavailable (j := .resetStation) rfl hc htakes rfl (if_pos (State.offline_of hbar))
  | clearRepeat t slot =>
    exact exec_unavailable (j := .clearRepeat) rfl hc htakes rfl (if_pos (State.offline_of hbar))
  | resetDrift t slot first last =>
    exact exec_unavailable (j := .resetDrift) rfl hc htakes rfl (if_pos (State.offline_of hbar))
  | readVerdicts t context first count =>
    obtain ⟨g, hg, hlo, hhi, hfree⟩ := hbar
    have hcount := rangeBody_count context first count
    exact exec_unavailable (j := .readVerdicts) (b := rangeBody context first count) rfl hc htakes
      rfl (State.serveReadVerdicts_free hg (by omega) (by omega) hfree)
  | readLog t segment first count =>
    obtain ⟨g, hg, hlo, hhi, hstate⟩ := hbar
    exact exec_unavailable (j := .readLog) (b := logBody segment first count) rfl hc htakes rfl
      (serveReadLog_notReady hg hlo hhi hstate)
  | clearStop t =>
    exact exec_unavailable (j := .clearStop) rfl hc htakes rfl (if_pos hbar)
  | clearFault t =>
    exact exec_unavailable (j := .clearFault) rfl hc htakes rfl (if_pos hbar)
  | _ => exact hbar.elim

/-! ### PROGRAM_STATUS (R17) -/

section Status

variable {x : Slot}

theorem Slot.statusBytes_empty (hx : x.state = .empty) :
    x.statusBytes = [0, 0, byteOf x.pins] ++ List.replicate 45 0 := by
  rw [Slot.statusBytes, if_pos hx, hx]
  rfl

theorem Slot.statusBytes_header {h : Header} (hx : x.state ≠ .empty) (hh : x.header = some h) :
    x.statusBytes = [1, x.state.code, byteOf x.pins] ++ h.bytes ++ be16 x.classes.length
      ++ be16 x.sites.length ++ be16 x.placements.length ++ be16 x.fiducials.length := by
  rw [Slot.statusBytes, if_neg hx, hh]
  show [1] ++ [x.state.code, byteOf x.pins] ++ (h.bytes ++ _) = _
  simp [Slot.fill]

end Status

/-- Settles O18: a slot number above 3 is refused, any other reports its slot. -/
theorem slotStatusIsReported : Obligations.SlotStatusIsReported := by
  intro s tag slot htakes
  have answered {st : Status} {r : List Byte}
      (hserve : (s.served 0x14 tag).serveProgramStatus [slot] = (s.served 0x14 tag).reply st r) :
      exec (.programStatus tag slot) s = .next (s.answered .programStatus tag st r) :=
    State.request_answered s s .programStatus tag [slot] htakes rfl st r hserve
  refine ⟨fun hslot => answered ?_, ?_⟩
  · rw [State.serveProgramStatus, u8_cons, quadIndex_lt hslot]
    rfl
  · intro k hk x
    have hstatus : exec (.programStatus tag slot) s
        = .next (s.answered .programStatus tag .ok x.statusBytes) := by
      refine answered ?_
      rw [State.serveProgramStatus, u8_cons, hk, quadIndex_val]
      rfl
    rw [hstatus]
    exact ⟨fun hx => by rw [Slot.statusBytes_empty hx],
      fun h hx hh => by rw [Slot.statusBytes_header hx hh]⟩

/-! ### READ_VERDICTS (R178) -/

section Verdicts

variable {s : State} {context : Byte} {first count : U16}

/-- The checks of a READ_VERDICTS that names a context, in their order (R178). -/
theorem serveReadVerdicts_context {c : CtxId} (hc : context.toNat = c.val) :
    s.serveReadVerdicts (rangeBody context first count) =
      if count.toNat < 1 ∨ 256 < count.toNat then s.refuse .badArg
      else if (s.ctx c).state = .free then s.refuse .badState
      else if (s.ctx c).verdicts.length < first.toNat + count.toNat then s.refuse .badArg
      else s.reply .ok
        ((((s.ctx c).verdicts.drop first.toNat).take count.toNat).flatMap VerdictEntry.bytes) := by
  have hcontext : u8 (rangeBody context first count) 0 = c.val := hc
  simp only [State.serveReadVerdicts, hcontext, pairIndex_val, rangeBody_first, rangeBody_count]

theorem serveReadVerdicts_badArg
    (hbad : 1 < context.toNat ∨ count.toNat < 1 ∨ 256 < count.toNat) :
    s.serveReadVerdicts (rangeBody context first count) = s.refuse .badArg := by
  by_cases hcontext : 1 < context.toNat
  · rw [State.serveReadVerdicts, rangeBody, u8_cons, pairIndex_lt hcontext]
  · rw [serveReadVerdicts_context (c := ⟨context.toNat, by omega⟩) rfl,
      if_pos (hbad.resolve_left hcontext)]

end Verdicts

/-- Settles O20: the three checks of READ_VERDICTS in their order, and the entries it answers. -/
theorem verdictsAreRead : Obligations.VerdictsAreRead := by
  intro s tag context first count htakes ask
  have answered {st : Status} {r : List Byte}
      (hserve : (s.served 0x23 tag).serveReadVerdicts (rangeBody context first count)
        = (s.served 0x23 tag).reply st r) :
      ask = .next (s.answered .readVerdicts tag st r) :=
    State.request_answered s s .readVerdicts tag _ htakes rfl st r hserve
  refine ⟨fun hbad => answered (serveReadVerdicts_badArg hbad), fun c hc hlo hhi => ?_⟩
  refine ⟨fun hfree => answered ?_, fun hheld hend => answered ?_, fun hheld hend => answered ?_⟩
  · rw [serveReadVerdicts_context hc, if_neg (by omega)]
    exact if_pos hfree
  · rw [serveReadVerdicts_context hc, if_neg (by omega)]
    exact (if_neg hheld).trans (if_pos hend)
  · rw [serveReadVerdicts_context hc, if_neg (by omega)]
    exact (if_neg hheld).trans (if_neg (Nat.not_lt.mpr hend))

/-! ### RELEASE_SEGMENT (R161) -/

/-- A set of four as its mask holds each of them. -/
theorem maskOfFour_getLsbD (p : SegId → Bool) (g : SegId) :
    (byteOf (portIds.foldl (fun n k => if p k then n + 2 ^ k.val else n) 0)).getLsbD g.val = p g := by
  have hbits : ∀ a b c d : Bool, ∀ i : Fin 4,
      (byteOf (portIds.foldl (fun n k => if [a, b, c, d].getD k.val false then n + 2 ^ k.val else n) 0)
        ).getLsbD i.val = [a, b, c, d].getD i.val false := by decide
  have hlist : ∀ k : SegId, [p 0, p 1, p 2, p 3].getD k.val false = p k := by
    intro k
    match k with
    | 0 => rfl
    | 1 => rfl
    | 2 => rfl
    | 3 => rfl
  have hg := hbits (p 0) (p 1) (p 2) (p 3) g
  simp only [hlist] at hg
  exact hg

theorem DefectLog.freedBy_iff {l : DefectLog} {set : Byte} {g : SegId} :
    l.freedBy set g = true ↔ set.getLsbD g.val = true ∧ (l.segments.get g).state = .ready := by
  rw [DefectLog.freedBy, Bool.and_eq_true, beq_iff_eq]

/-- Settles O22: a set above 15 is refused; any other frees the READY segments it names. -/
theorem segmentsAreReleased : Obligations.SegmentsAreReleased := by
  intro s tag set htakes
  have answered {t : State} {st : Status} {r : List Byte}
      (hserve : (s.served 0x29 tag).serveReleaseSegment [set] = (t.served 0x29 tag).reply st r) :
      exec (.releaseSegment tag set) s = .next (t.answered .releaseSegment tag st r) :=
    State.request_answered s t .releaseSegment tag [set] htakes rfl st r hserve
  refine ⟨fun hbad => answered (if_pos hbad), fun hgood => ?_⟩
  refine ⟨s.log.segments.mapIdx (fun k x => if s.log.freedBy set k then Segment.empty else x), _,
    answered (if_neg (Nat.not_lt.mpr hgood)), fun g => ⟨fun hfreed => ?_, fun hkept => ?_⟩⟩
  · have hby := DefectLog.freedBy_iff.mpr hfreed
    exact ⟨by rw [Quad.get_mapIdx, hby]; rfl, (maskOfFour_getLsbD _ g).trans hby⟩
  · have hby := Bool.eq_false_iff.mpr (mt DefectLog.freedBy_iff.mp hkept)
    exact ⟨by rw [Quad.get_mapIdx, hby]; rfl, (maskOfFour_getLsbD _ g).trans hby⟩

/-! ### READ_OVEN_CODES (R151) -/

theorem presence_two (a b : Bool) : presence [a, b] = [byteOf (a.toNat + 2 * b.toNat)] := rfl

/-- Two optional parts between fixed ones, behind their presence byte (R183). -/
theorem layOut_twoOptional (a z : List Byte) (w : Nat) (o p : Option (List Byte)) :
    layOut [.fixed a, .maybe w o, .maybe w p, .fixed z]
      = [byteOf (o.isSome.toNat + 2 * p.isSome.toNat)] ++ a ++ optionalPart w o ++ optionalPart w p
        ++ z := by
  show presence [o.isSome, p.isSome] ++ (a ++ (optionalPart w o ++ (optionalPart w p ++ (z ++ [])))) = _
  rw [presence_two, List.append_nil]
  simp only [List.append_assoc]

/-- Settles O25: the codes are reported and the buffer emptied. -/
theorem ovenCodesAreRead : Obligations.OvenCodesAreRead := by
  intro s tag htakes m pair
  have hpair (o : Option (BitVec 4 × Nat)) : optionalPart 7 (o.map changeBytes) = pair o := by
    cases o with
    | none => rfl
    | some c => rfl
  refine State.request_answered s { s with monitor := { m with changes := [], overwrites := 0 } }
    .readOvenCodes tag [] htakes rfl .ok _ ?_
  refine congrArg (State.reply _ .ok) ((layOut_twoOptional _ _ _ _ _).trans ?_)
  rw [hpair, hpair, Option.isSome_map, Option.isSome_map]
  rfl

end Sys2Proof.Machine
end

section
/-! Proofs. The process monitor's reports and resets (R141, R142, R146, R147), the notice mask (R174,
R175), and the counters (R179, R180). -/

namespace Sys2Proof.Machine

open Sys2Proof

/-! ### READ_DRIFT (R142, R183) -/

/-- Optional parts each between two fixed ones, behind the presence bytes of them all (R183). -/
theorem layOut_flatMap {α : Type} (l : List α) (w : Nat) (a z : α → List Byte)
    (o : α → Option (List Byte)) :
    layOut (l.flatMap (fun n => [.fixed (a n), .maybe w (o n), .fixed (z n)]))
      = presence (l.map (fun n => (o n).isSome))
        ++ l.flatMap (fun n => a n ++ optionalPart w (o n) ++ z n) := by
  rw [layOut]
  congr 1
  · refine congrArg presence ?_
    induction l with
    | nil => rfl
    | cons n l ih => exact congrArg ((o n).isSome :: ·) ih
  · induction l with
    | nil => rfl
    | cons n l ih =>
      rw [List.flatMap_cons, List.flatMap_cons, List.flatMap_append, ih]
      congr 1
      show a n ++ (optionalPart w (o n) ++ (z n ++ [])) = _
      rw [List.append_nil, List.append_assoc]

section ReadDrift

variable {s : State} {slot first count : Byte}

/-- The checks of a READ_DRIFT that names a slot, and its report (R142). -/
theorem serveReadDrift_slot {k : SlotId} (hk : slot.toNat = k.val) :
    s.serveReadDrift [slot, first, count] =
      if count.toNat < 1 ∨ 64 < count.toNat ∨ 64 < first.toNat + count.toNat then s.refuse .badArg
      else s.reply .ok (presence ((List.range count.toNat).map (fun n =>
          (s.monitor.driftOf k (first.toNat + n)).isSome))
        ++ (List.range count.toNat).flatMap (fun n => match s.monitor.driftOf k (first.toNat + n) with
          | some d => [1] ++ be24 d.e.toNat ++ [d.band.code]
          | none => [0, 0, 0, 0, 0])) := by
  have hslot : u8 [slot, first, count] 0 = k.val := hk
  have hfirst : u8 [slot, first, count] 1 = first.toNat := rfl
  have hcount : u8 [slot, first, count] 2 = count.toNat := rfl
  rw [State.serveReadDrift, hslot, quadIndex_val]
  dsimp only
  rw [hfirst, hcount]
  refine if_congr Iff.rfl rfl (congrArg (s.reply .ok) ((layOut_flatMap _ _ _ _ _).trans ?_))
  congr 1
  · simp only [Option.isSome_map]
  · refine List.flatMap_congr fun n _ => ?_
    cases s.monitor.driftOf k (first.toNat + n) with
    | none => rfl
    | some d => rfl

end ReadDrift

/-- The checks of READ_DRIFT and its report. -/
theorem driftIsRead (s : State) (tag slot first count : Byte) (htakes : s.Takes) :
    ((3 < slot.toNat ∨ count.toNat < 1 ∨ 64 < count.toNat ∨ 64 < first.toNat + count.toNat) →
      exec (.readDrift tag slot first count) s = .next (s.answered .readDrift tag .badArg [])) ∧
    ∀ k : SlotId, slot.toNat = k.val → 1 ≤ count.toNat → first.toNat + count.toNat ≤ 64 →
      exec (.readDrift tag slot first count) s = .next (s.answered .readDrift tag .ok
        (presence ((List.range count.toNat).map (fun n =>
            (s.monitor.driftOf k (first.toNat + n)).isSome))
          ++ (List.range count.toNat).flatMap (fun n => match s.monitor.driftOf k (first.toNat + n) with
            | some d => [1] ++ be24 d.e.toNat ++ [d.band.code]
            | none => [0, 0, 0, 0, 0]))) := by
  have answered {st : Status} {r : List Byte}
      (hserve : (s.served 0x30 tag).serveReadDrift [slot, first, count]
        = (s.served 0x30 tag).reply st r) :
      exec (.readDrift tag slot first count) s = .next (s.answered .readDrift tag st r) :=
    State.request_answered s s .readDrift tag [slot, first, count] htakes rfl st r hserve
  refine ⟨fun hbad => answered ?_, fun k hk hlo hend => answered ?_⟩
  · by_cases hslot : 3 < slot.toNat
    · rw [State.serveReadDrift, u8_cons, quadIndex_lt hslot]
      rfl
    · exact (serveReadDrift_slot (k := ⟨slot.toNat, by omega⟩) rfl).trans
        (if_pos (hbad.resolve_left hslot))
  · exact (serveReadDrift_slot hk).trans (if_neg (by omega))

/-! ### RESET_DRIFT (R141) -/

/-- The notice that unpriming a drift value raises, if its band state was not INSIDE (R141). -/
def Monitor.unprimeNotice (m : Monitor) (k : SlotId) (c : Nat) : Option NoticeData :=
  match m.driftOf k c with
  | some d => if d.band = .inside then none else some (.drift k c d.band .inside none)
  | none => none

/-- The link once the values of some classes have been unprimed in turn (R141). -/
def State.unprimedLink (s : State) (k : SlotId) (classes : List Nat) : Link :=
  (classes.filterMap (s.monitor.unprimeNotice k)).foldl (fun l d => l.raise d) s.link

/-- What unpriming a run of drift values changes: the monitor and the notices (R141). -/
theorem State.unprimeRun_eq (s : State) (k : SlotId) (first n : Nat) (hn : first + n ≤ 64) :
    s.unprimeRun k first n = { s with
      monitor := (s.unprimeRun k first n).monitor
      link := s.unprimedLink k ((List.range n).map (fun n => first + n)) } := by
  have hlink : (s.unprimeRun k first n).link
      = s.unprimedLink k ((List.range n).map (fun n => first + n)) :=
    State.unprimeRun_link s k first n hn
  rw [← hlink]
  exact (State.unprimeRun_changes s k first n hn).2.2.1

/-- The checks of a RESET_DRIFT that names a slot, and what it does (R141). -/
theorem serveResetDrift_slot {s : State} {slot first last : Byte} (hon : s.flow.station ≠ .offline)
    {k : SlotId} (hk : slot.toNat = k.val) :
    s.serveResetDrift [slot, first, last] =
      if 63 < last.toNat ∨ last.toNat < first.toNat then s.refuse .badArg
      else (s.unprimeRun k first.toNat (last.toNat + 1 - first.toNat)).reply .ok
        [byteOf ((List.range (last.toNat + 1 - first.toNat)).countP (fun i =>
          (s.monitor.driftOf k (first.toNat + i)).isSome))] := by
  have hslot : u8 [slot, first, last] 0 = k.val := hk
  have hnot : ¬ s.offline = true := fun h => hon (beq_iff_eq.mp h)
  rw [State.serveResetDrift, if_neg hnot, hslot, quadIndex_val]
  rfl

/-- Settles O23: the report of READ_DRIFT, and the values RESET_DRIFT unprimes with their notices. -/
theorem driftIsReadAndReset : Obligations.DriftIsReadAndReset := by
  refine ⟨fun s tag slot first count htakes => driftIsRead s tag slot first count htakes, ?_⟩
  intro s tag slot first last htakes hon ask
  have answered {t : State} {st : Status} {r : List Byte}
      (hserve : (s.served 0x31 tag).serveResetDrift [slot, first, last]
        = (t.served 0x31 tag).reply st r) :
      ask = .next (t.answered .resetDrift tag st r) :=
    State.request_answered s t .resetDrift tag [slot, first, last] htakes rfl st r hserve
  have hserved : (s.served 0x31 tag).flow.station ≠ .offline := hon
  refine ⟨fun hbad => answered ?_, ?_⟩
  · by_cases hslot : 3 < slot.toNat
    · have hnot : ¬ (s.served 0x31 tag).offline = true := fun h => hon (beq_iff_eq.mp h)
      rw [State.serveResetDrift, if_neg hnot, u8_cons, quadIndex_lt hslot]
      rfl
    · exact (serveResetDrift_slot hserved (k := ⟨slot.toNat, by omega⟩) rfl).trans
        (if_pos (hbad.resolve_left hslot))
  · intro k hk hlast hfirst named
    have hrun : first.toNat + (last.toNat + 1 - first.toNat) ≤ 64 := by omega
    obtain ⟨hvalues, hrest, -, -⟩ :=
      State.unprimeRun_changes s k first.toNat (last.toNat + 1 - first.toNat) hrun
    refine ⟨_, answered ?_, fun j c hc => (hvalues j c hc).trans (if_congr ?_ rfl rfl), hrest⟩
    · rw [serveResetDrift_slot hserved hk, if_neg (by omega), State.served_unprimeRun,
        State.unprimeRun_eq s k _ _ hrun, List.countP_map]
      rfl
    · exact and_congr_right fun _ => and_congr_right fun _ => by omega

/-! ### Repeat requests discarded (R146) -/

/-- The requests of the other slots, in their order (R146). -/
def Monitor.others (m : Monitor) (k : SlotId) : List RepeatRequest :=
  m.requests.filter (fun r => r.slot != k)

/-- The requests waiting for a slot are those that are not kept. -/
theorem Monitor.waiting_eq (m : Monitor) (k : SlotId) :
    m.requests.countP (fun r => r.slot == k) = m.requests.length - (m.others k).length := by
  have hsplit := List.length_eq_countP_add_countP (fun r : RepeatRequest => r.slot != k)
    (l := m.requests)
  have hwaiting : m.requests.countP (fun r => decide ¬(r.slot != k) = true)
      = m.requests.countP (fun r => r.slot == k) :=
    List.countP_congr fun r _ => by simp
  rw [Monitor.others, ← List.countP_eq_length_filter, hsplit, hwaiting, Nat.add_sub_cancel_left]

/-- An idle monitor begins the head of its list, if there is one (R145). -/
theorem Monitor.beginNext_of_idle {m : Monitor} (hm : m.work = none) :
    m.beginNext = { m with work := m.requests.head?.map (fun r => ⟨r, 0⟩), requests := m.requests.tail } := by
  obtain ⟨drift, repeats, requests, work⟩ := m
  subst hm
  cases requests with
  | nil => rfl
  | cons r rest => rfl

/-- With the slot's own request running, the next of the others begins (R146). -/
theorem Monitor.discardRequests_running {m : Monitor} {k : SlotId} {w : RepeatWork}
    (hw : m.work = some w) (hk : w.request.slot = k) :
    m.discardRequests k = { m with
      work := (m.others k).head?.map (fun r => ⟨r, 0⟩), requests := (m.others k).tail } ∧
    m.requestsFor k = m.requests.length - (m.others k).length + 1 := by
  refine ⟨?_, ?_⟩
  · simp only [Monitor.discardRequests, hw, hk, if_true]
    exact Monitor.beginNext_of_idle rfl
  · rw [Monitor.requestsFor, m.waiting_eq, hw]
    simp only [hk, if_true]

/-- With no request of the slot running, what runs goes on (R146). -/
theorem Monitor.discardRequests_waiting {m : Monitor} {k : SlotId}
    (hk : ∀ w, m.work = some w → w.request.slot ≠ k) :
    m.discardRequests k = { m with requests := m.others k } ∧
    m.requestsFor k = m.requests.length - (m.others k).length := by
  rw [Monitor.discardRequests, Monitor.requestsFor, m.waiting_eq]
  cases hw : m.work with
  | none => exact ⟨rfl, rfl⟩
  | some w => exact ⟨if_neg (hk w hw), congrArg (_ + ·) (if_neg (hk w hw))⟩

/-! ### READ_REPEAT and CLEAR_REPEAT (R146, R147) -/

/-- A fixed part and an optional one, behind its presence byte (R183). -/
theorem layOut_oneOptional (a : List Byte) (w : Nat) (o : Option (List Byte)) :
    layOut [.fixed a, .maybe w o] = [flagByte o.isSome] ++ a ++ optionalPart w o := by
  show presence [o.isSome] ++ (a ++ (optionalPart w o ++ [])) = _
  rw [List.append_nil, List.append_assoc]
  cases o with
  | none => rfl
  | some b => rfl

/-- The next site of a slot's running request (R147). -/
def Monitor.nextSite (m : Monitor) (k : SlotId) : Option Nat :=
  match m.work with
  | some w => if w.request.slot = k then some w.next else none
  | none => none

theorem Monitor.nextSite_running {m : Monitor} {k : SlotId} {w : RepeatWork} (hw : m.work = some w)
    (hk : w.request.slot = k) : m.nextSite k = some w.next := by
  rw [Monitor.nextSite, hw]
  exact if_pos hk

theorem Monitor.nextSite_waiting {m : Monitor} {k : SlotId}
    (hk : ∀ w, m.work = some w → w.request.slot ≠ k) : m.nextSite k = none := by
  rw [Monitor.nextSite]
  cases hw : m.work with
  | none => rfl
  | some w => exact if_neg (hk w hw)

/-- The checks of a READ_REPEAT that names a slot, and its report (R147). -/
theorem serveReadRepeat_slot {s : State} {slot : Byte} {first count : U16} {k : SlotId}
    (hk : slot.toNat = k.val) :
    s.serveReadRepeat (rangeBody slot first count) =
      if count.toNat < 1 ∨ 256 < count.toNat ∨ 8192 < first.toNat + count.toNat then s.refuse .badArg
      else s.reply .ok ([flagByte ((s.monitor.nextSite k).map be16).isSome]
        ++ ((List.range count.toNat).map (fun n => byteOf (s.monitor.repeatOf k (first.toNat + n)))
          ++ [byteOf (s.monitor.requests.countP (fun r => r.slot == k)),
            flagByte (s.monitor.nextSite k).isSome])
        ++ optionalPart 2 ((s.monitor.nextSite k).map be16)) := by
  have hslot : u8 (rangeBody slot first count) 0 = k.val := hk
  rw [State.serveReadRepeat, hslot, quadIndex_val]
  dsimp only
  rw [rangeBody_first, rangeBody_count]
  exact if_congr Iff.rfl rfl (congrArg (s.reply .ok) (layOut_oneOptional _ _ _))

/-- The checks of READ_REPEAT and its report. -/
theorem repeatCountersAreRead (s : State) (tag slot : Byte) (first count : U16) (htakes : s.Takes) :
    let ask := exec (.readRepeat tag slot first count) s
    ((3 < slot.toNat ∨ count.toNat < 1 ∨ 256 < count.toNat ∨ 8192 < first.toNat + count.toNat) →
      ask = .next (s.answered .readRepeat tag .badArg [])) ∧
    ∀ k : SlotId, slot.toNat = k.val → 1 ≤ count.toNat → count.toNat ≤ 256 →
      first.toNat + count.toNat ≤ 8192 →
      let counters := (List.range count.toNat).map (fun n =>
        byteOf (s.monitor.repeatOf k (first.toNat + n)))
      let waiting := byteOf (s.monitor.requests.countP (fun r => r.slot == k))
      (∀ w, s.monitor.work = some w → w.request.slot = k →
        ask = .next (s.answered .readRepeat tag .ok
          ([1] ++ counters ++ [waiting, 1] ++ be16 w.next))) ∧
      ((∀ w, s.monitor.work = some w → w.request.slot ≠ k) →
        ask = .next (s.answered .readRepeat tag .ok ([0] ++ counters ++ [waiting, 0, 0, 0]))) := by
  intro ask
  have answered {st : Status} {r : List Byte}
      (hserve : (s.served 0x32 tag).serveReadRepeat (rangeBody slot first count)
        = (s.served 0x32 tag).reply st r) :
      ask = .next (s.answered .readRepeat tag st r) :=
    State.request_answered s s .readRepeat tag _ htakes rfl st r hserve
  refine ⟨fun hbad => answered ?_, ?_⟩
  · by_cases hslot : 3 < slot.toNat
    · rw [State.serveReadRepeat, rangeBody, u8_cons, quadIndex_lt hslot]
      rfl
    · exact (serveReadRepeat_slot (k := ⟨slot.toNat, by omega⟩) rfl).trans
        (if_pos (hbad.resolve_left hslot))
  · intro k hk hlo hhi hend counters waiting
    have hreport := answered ((serveReadRepeat_slot hk).trans (if_neg (by omega)))
    rw [hreport]
    refine ⟨fun w hw hslot => ?_, fun hother => ?_⟩
    · have hnext : (s.served 0x32 tag).monitor.nextSite k = some w.next :=
        Monitor.nextSite_running hw hslot
      rw [hnext, ← List.append_assoc]
      rfl
    · have hnext : (s.served 0x32 tag).monitor.nextSite k = none := Monitor.nextSite_waiting hother
      rw [hnext, ← List.append_assoc, List.append_assoc]
      rfl

/-- What CLEAR_REPEAT does with a slot's counters and requests (R146). -/
theorem serveClearRepeat_slot {s : State} {slot : Byte} (hon : s.flow.station ≠ .offline) {k : SlotId}
    (hk : slot.toNat = k.val) :
    s.serveClearRepeat [slot] = ({ s with
      monitor := (s.monitor.discardRequests k).zeroRepeats k } : State).reply .ok
        [byteOf (s.monitor.requestsFor k)] := by
  have hnot : ¬ s.offline = true := fun h => hon (beq_iff_eq.mp h)
  rw [State.serveClearRepeat, if_neg hnot, u8_cons, hk, quadIndex_val]
  rfl

/-- Discarding requests and zeroing counters touches the counters and the requests alone (R146). -/
theorem Monitor.clearRepeats_rest (m : Monitor) (k : SlotId) :
    { (m.discardRequests k).zeroRepeats k with repeats := [], requests := [], work := none }
      = { m with repeats := [], requests := [], work := none } := by
  obtain ⟨-, -, -, -, hrest⟩ := m.discardRequests_changes k
  exact congrArg (fun q : Monitor => { q with repeats := [] }) hrest

/-- Settles O24: the report of READ_REPEAT, and the counters and requests CLEAR_REPEAT clears. -/
theorem repeatCountersAreReadAndCleared : Obligations.RepeatCountersAreReadAndCleared := by
  refine ⟨fun s tag slot first count htakes => repeatCountersAreRead s tag slot first count htakes, ?_⟩
  intro s tag slot htakes hon ask
  have answered {t : State} {st : Status} {r : List Byte}
      (hserve : (s.served 0x33 tag).serveClearRepeat [slot] = (t.served 0x33 tag).reply st r) :
      ask = .next (t.answered .clearRepeat tag st r) :=
    State.request_answered s t .clearRepeat tag [slot] htakes rfl st r hserve
  refine ⟨fun hslot => answered ?_, ?_⟩
  · have hnot : ¬ (s.served 0x33 tag).offline = true := fun h => hon (beq_iff_eq.mp h)
    rw [State.serveClearRepeat, if_neg hnot, u8_cons, quadIndex_lt hslot]
    rfl
  · intro k hk rest discarded
    have hserve := serveClearRepeat_slot (s := s.served 0x33 tag) hon hk
    have hdone (n : Nat) (hn : s.monitor.requestsFor k = n) :
        ask = .next (({ s with monitor := (s.monitor.discardRequests k).zeroRepeats k } : State).answered
          .clearRepeat tag .ok [byteOf n]) := by
      rw [← hn]
      exact answered hserve
    obtain ⟨-, -, hrepeats, -, -⟩ := s.monitor.discardRequests_changes k
    refine ⟨_, fun j i hi => ?_, s.monitor.clearRepeats_rest k, fun w hw hslot => ?_, fun hother => ?_⟩
    · rw [Monitor.zeroRepeats_repeatOf _ _ _ _ hi, Monitor.repeatOf_congr _ _ hrepeats]
    · obtain ⟨hkept, hcount⟩ := Monitor.discardRequests_running hw hslot
      exact ⟨hdone _ hcount, congrArg Monitor.work hkept, congrArg Monitor.requests hkept⟩
    · obtain ⟨hkept, hcount⟩ := Monitor.discardRequests_waiting hother
      have hwork : (s.monitor.discardRequests k).work = s.monitor.work := by rw [hkept]
      exact ⟨hdone _ hcount, hwork, congrArg Monitor.requests hkept⟩

/-! ### SET_NOTICE_MASK (R174, R175) -/

/-- The pending notice of a kind that is not masked. -/
def Link.openNotice (l : Link) (k : Nat) : Option Notice :=
  if l.mask.getLsbD k then none else mapGet k l.pending

/-- The pending notices of the kinds below a number that are not masked, in kind order. -/
def Link.openNotices (l : Link) (n : Nat) : List Notice := (List.range n).filterMap l.openNotice

theorem Link.openNotices_succ (l : Link) (n : Nat) :
    l.openNotices (n + 1) = l.openNotices n ++ (l.openNotice n).toList := by
  rw [Link.openNotices, List.range_succ, List.filterMap_append]
  cases h : l.openNotice n with
  | none => simp [Link.openNotices, h]
  | some x => simp [Link.openNotices, h]

/-- The kinds below a number drained: their open notices join the queue in kind order while there is room,
each leaving its slot (R174). -/
structure Link.DrainedTo (l m : Link) (n : Nat) : Prop where
  notices : m.notices = l.notices ++ (l.openNotices n).take (16 - l.notices.length)
  pending : ∀ k, mapGet k m.pending =
    if k < n ∧ (l.openNotices k).length + l.notices.length < 16 ∧ l.openNotice k ≠ none then none
    else mapGet k l.pending
  mask : m.mask = l.mask

section Drain

variable {l m : Link} {n : Nat} (hcap : l.notices.length ≤ 16) (h : l.DrainedTo m n)
include h

theorem Link.DrainedTo.slot : mapGet n m.pending = mapGet n l.pending := by
  rw [h.pending n]
  exact if_neg fun hn => Nat.lt_irrefl n hn.1

theorem Link.DrainedTo.masked : m.masked n = l.mask.getLsbD n := by rw [Link.masked, h.mask]

/-- The queue has room while fewer notices have joined than there was room for. -/
theorem Link.DrainedTo.room_iff :
    m.notices.length < 16 ↔ (l.openNotices n).length + l.notices.length < 16 := by
  rw [h.notices, List.length_append, List.length_take]
  omega

/-- A kind with no open notice, or without room, stays as it is. -/
theorem Link.DrainedTo.skip
    (hskip : l.openNotice n = none ∨ ¬ (l.openNotices n).length + l.notices.length < 16) :
    l.DrainedTo (m.drainKind n) (n + 1) := by
  have hsame : m.drainKind n = m := by
    rcases m.drainKind_cases n with ⟨hsame, -⟩ | ⟨x, hx, hmask, hroom, -⟩
    · exact hsame
    · rcases hskip with hnone | hfull
      · rw [h.slot] at hx
        rw [h.masked] at hmask
        rw [Link.openNotice, hmask, hx] at hnone
        cases hnone
      · exact absurd (h.room_iff.mp hroom) hfull
  rw [hsame]
  refine ⟨?_, fun k => ?_, h.mask⟩
  · rw [h.notices, Link.openNotices_succ]
    rcases hskip with hnone | hfull
    · rw [hnone]
      simp
    · rw [List.take_append_of_le_length (by omega)]
  · rw [h.pending k]
    refine if_congr ⟨fun ⟨hk, hrest⟩ => ⟨Nat.lt_succ_of_lt hk, hrest⟩, fun ⟨hk, hroom, hopen⟩ => ?_⟩
      rfl rfl
    refine ⟨lt_of_le_of_ne (Nat.le_of_lt_succ hk) ?_, hroom, hopen⟩
    rintro rfl
    rcases hskip with hnone | hfull
    · exact hopen hnone
    · exact hfull hroom

/-- A kind with an open notice moves it to a queue that has room. -/
theorem Link.DrainedTo.move {x : Notice} (hopen : l.openNotice n = some x)
    (hroom : (l.openNotices n).length + l.notices.length < 16) :
    l.DrainedTo (m.drainKind n) (n + 1) := by
  have hslot : l.mask.getLsbD n = false ∧ mapGet n l.pending = some x := by
    rw [Link.openNotice] at hopen
    split at hopen
    · cases hopen
    next hmask => exact ⟨Bool.eq_false_iff.mpr hmask, hopen⟩
  have hmove : m.drainKind n = { m with notices := m.notices ++ [x], pending := mapDel n m.pending } := by
    rw [Link.drainKind, h.slot, hslot.2]
    refine if_pos ?_
    rw [h.masked, hslot.1, Bool.not_false, Bool.true_and, decide_eq_true_eq]
    exact h.room_iff.mpr hroom
  rw [hmove]
  refine ⟨?_, fun k => ?_, h.mask⟩
  · show m.notices ++ [x] = _
    rw [h.notices, Link.openNotices_succ, hopen, List.take_of_length_le (by omega),
      List.take_of_length_le (by simp; omega), List.append_assoc]
    rfl
  · show mapGet k (mapDel n m.pending) = _
    by_cases hk : k = n
    · subst hk
      rw [mapGet_mapDel_self]
      exact (if_pos ⟨Nat.lt_succ_self k, hroom, by rw [hopen]; exact Option.some_ne_none x⟩).symm
    · rw [mapGet_mapDel_ne _ hk, h.pending k]
      exact if_congr (and_congr_left fun _ => by omega) rfl rfl

end Drain

/-- Draining the kinds below a number, by induction on the number. -/
theorem Link.drainedTo_foldl (l : Link) (n : Nat) :
    l.DrainedTo ((List.range n).foldl Link.drainKind l) n := by
  induction n with
  | zero => exact ⟨by simp [Link.openNotices], fun k => (if_neg (by omega)).symm, rfl⟩
  | succ n ih =>
    rw [List.range_succ, List.foldl_append]
    cases hopen : l.openNotice n with
    | none => exact ih.skip (.inl hopen)
    | some x =>
      by_cases hroom : (l.openNotices n).length + l.notices.length < 16
      · exact ih.move hopen hroom
      · exact ih.skip (.inr hroom)

theorem Link.drainedTo_drain (l : Link) : l.DrainedTo l.drain 8 := l.drainedTo_foldl 8

/-- The reply to a SET_NOTICE_MASK: the old mask and the pending counts (R175). -/
def State.maskReply (s : State) (tag : Byte) : Frame :=
  replyFrame 0x38 tag .ok (s.link.mask :: (List.range 8).flatMap (fun k => be16 (s.link.pendingCount k)))

/-- The link once a SET_NOTICE_MASK has formed its reply and replaced the mask, before the drain (R175). -/
def Link.remasked (l : Link) (tag kinds : Byte) (reply : Frame) : Link :=
  { l with
    inService := some (0x38, tag)
    counters := { l.counters with framesValid := bump l.counters.framesValid 1 }
    replySlot := some reply
    mask := kinds }

/-- The transmitter takes a formed reply if it is free, and that changes nothing else (R169). -/
theorem Link.pump_with_reply {l : Link} {f : Frame} (hreply : l.replySlot = some f) :
    l.pump = { l with
      replySlot := if l.sending.isNone then none else some f
      sending := if l.sending.isNone then some (.reply f) else l.sending } := by
  cases hsending : l.sending with
  | none => rw [Link.pump_reply hsending hreply]; rfl
  | some x =>
    simp only [Link.pump_of_busy hsending, Option.isNone_some, Bool.false_eq_true, if_false]
    rw [← hreply, ← hsending]

/-- A formed reply is in its slot or is being sent. -/
theorem State.replyOf_pump {s : State} {f : Frame} (hreply : s.link.replySlot = some f) :
    s.pump.replyOf = some f := by
  have hpump : s.pump.link = _ := Link.pump_with_reply hreply
  rw [State.replyOf, hpump]
  cases s.link.sending with
  | none => rfl
  | some x => rfl

theorem exec_setNoticeMask {s : State} (tag kinds : Byte) (htakes : s.Takes) :
    exec (.setNoticeMask tag kinds) s = .next (State.pump { s with
      link := (s.link.remasked tag kinds (s.maskReply tag)).drain }) :=
  State.request_known s .setNoticeMask tag [kinds] htakes rfl

/-- Settles O13: the reply carries the old mask and counts, and the drain moves what the new mask lets
through. -/
theorem noticeMaskIsSet : Obligations.NoticeMaskIsSet := by
  intro s tag kinds htakes hcap open' moved
  have hexec := exec_setNoticeMask tag kinds htakes
  have hrest := (s.link.remasked tag kinds (s.maskReply tag)).drain_rest
  have hdrained := (s.link.remasked tag kinds (s.maskReply tag)).drainedTo_drain
  generalize (s.link.remasked tag kinds (s.maskReply tag)).drain = m at hexec hrest hdrained
  obtain ⟨hframer, hheld, hservice, hcount, hslot, hrefusals, -, -, hcounters⟩ := hrest
  have hpump : m.pump = { m with
      replySlot := if m.sending.isNone then none else some (s.maskReply tag)
      sending := if m.sending.isNone then some (.reply (s.maskReply tag)) else m.sending } :=
    Link.pump_with_reply hslot
  refine ⟨m.pump, hexec, State.replyOf_pump (s := { s with link := m }) hslot, ?_⟩
  rw [hpump]
  refine ⟨hdrained.mask, hdrained.notices, fun k hk => ?_, hservice, hframer, hheld, hrefusals, hcount,
    hcounters⟩
  refine (hdrained.pending k).trans (if_congr ?_ rfl rfl)
  exact ⟨fun ⟨_, hopen⟩ => hopen, fun hopen => ⟨hk, hopen⟩⟩

/-! ### READ_COUNTERS and CLEAR_COUNTERS (R179, R180) -/

/-- The state in which a request's frame has been counted (R166). -/
def State.counted (s : State) : State :=
  { s with link := s.link.count (fun k => { k with framesValid := bump k.framesValid 1 }) }

/-- The report of the counters: 77 of four bytes each and four link states (R179, R186). -/
theorem State.counterBytes_length (s : State) : s.counterBytes.length = 312 := by
  have hwide (l : List Nat) : (l.flatMap be32).length = 4 * l.length := by
    induction l with
    | nil => rfl
    | cons n l ih => rw [List.flatMap_cons, List.length_append, ih, List.length_cons]; simp [be32, be16]; omega
  rw [State.counterBytes, List.length_append, hwide]
  rfl

/-- The state after a CLEAR_COUNTERS: every counter cleared, and the reply with the values as they stood
(R180). -/
theorem exec_clearCounters {s : State} (tag : Byte) (htakes : s.Takes) :
    exec (.clearCounters tag) s = .next
      ((s.served 0x3D tag).clearCounters.replied 0x3D tag .ok s.counted.counterBytes) := by
  have hserve : (s.served 0x3D tag).serve .clearCounters []
      = (s.served 0x3D tag).clearCounters.reply .ok s.counted.counterBytes := rfl
  have hreply : ((s.served 0x3D tag).clearCounters.reply .ok s.counted.counterBytes).pump
      = (s.served 0x3D tag).clearCounters.replied 0x3D tag .ok s.counted.counterBytes :=
    State.reply_pump _ 0x3D tag .ok s.counted.counterBytes rfl
  have hexec := State.request_known s .clearCounters tag [] htakes rfl
  rw [← hreply, ← hserve]
  exact hexec

theorem State.replied_replyOf (s : State) (k tag : Byte) (st : Status) (b : List Byte) :
    (s.replied k tag st b).replyOf = some (replyFrame k tag st b) := by
  rw [State.replyOf, State.replied]
  cases s.link.sending with
  | none => rfl
  | some x => rfl

theorem State.replied_link (s : State) (k tag : Byte) (st : Status) (b : List Byte) :
    (s.replied k tag st b).link = { s.link with
      replySlot := if s.link.sending = none then none else some (replyFrame k tag st b)
      sending := if s.link.sending = none then some (.reply (replyFrame k tag st b))
        else s.link.sending } := by
  rw [State.replied]
  cases s.link.sending with
  | none => rfl
  | some x => rfl

/-- Settles O17: the report of the counters as they stand, and their clearing. -/
theorem countersAreReadAndCleared : Obligations.CountersAreReadAndCleared := by
  intro s tag htakes counted report
  have hreport : report = s.counted.counterBytes := rfl
  rw [hreport]
  refine ⟨s.counted.counterBytes_length, ?_, _, exec_clearCounters tag htakes, ?_⟩
  · exact State.request_answered s s .readCounters tag [] htakes rfl .ok _ rfl
  · refine ⟨?_, rfl, fun p => ?_, rfl, rfl, rfl, rfl, rfl, rfl, rfl, rfl, rfl, rfl, rfl, rfl, rfl, rfl, ?_⟩
    · exact State.replied_replyOf _ _ _ _ _
    · exact Quad.get_mapIdx _ _ p
    · exact State.replied_link _ _ _ _ _

end Sys2Proof.Machine
end

section
/-! Proofs. PANEL_STATUS: the parts of each owner's report and their places (R177, R183). -/

namespace Sys2Proof.Machine

open Sys2Proof

/-! ### Reports laid out in parts (R183) -/

/-- Which of the optional parts are there. -/
def partsPresent (l : List Part) : List Bool := (l.filter Part.optional).map (fun p => p.bytes.isSome)

/-- Every part in its place. -/
def partsBytes (l : List Part) : List Byte := l.flatMap (fun p => optionalPart p.width p.bytes)

theorem layOut_eq (l : List Part) : layOut l = presence (partsPresent l) ++ partsBytes l := rfl

theorem partsPresent_append (l m : List Part) :
    partsPresent (l ++ m) = partsPresent l ++ partsPresent m := by
  rw [partsPresent, List.filter_append, List.map_append]; rfl

theorem partsBytes_append (l m : List Part) : partsBytes (l ++ m) = partsBytes l ++ partsBytes m :=
  List.flatMap_append

/-- An optional part is its bytes, or zeros in its place. -/
theorem optionalPart_eq_getD (w : Nat) (o : Option (List Byte)) :
    optionalPart w o = o.getD (List.replicate w 0) := by
  cases o with
  | none => rfl
  | some b => rfl

theorem partsBytes_nil : partsBytes [] = [] := rfl

theorem partsBytes_fixed (b : List Byte) (l : List Part) :
    partsBytes (.fixed b :: l) = b ++ partsBytes l := rfl

theorem partsBytes_maybe (w : Nat) (o : Option (List Byte)) (l : List Part) :
    partsBytes (.maybe w o :: l) = o.getD (List.replicate w 0) ++ partsBytes l := by
  rw [← optionalPart_eq_getD]; rfl

theorem partsPresent_nil : partsPresent [] = [] := rfl

theorem partsPresent_fixed (b : List Byte) (l : List Part) :
    partsPresent (.fixed b :: l) = partsPresent l := rfl

theorem partsPresent_maybe (w : Nat) (o : Option (List Byte)) (l : List Part) :
    partsPresent (.maybe w o :: l) = o.isSome :: partsPresent l := rfl

/-! ### The owners' parts (R177) -/

/-- The window engine's parts, by the phase in which it serves the context (R104). -/
theorem Engine.parts_eq (e : Engine) (c : CtxId) : e.parts c =
    [.fixed (be16 (e.held c .opened) ++ be16 (e.held c .queued) ++ be16 (e.held c .evaluating)
        ++ be16 (1024 - e.pool.length)),
      .maybe 3 (if e.serves c = true ∧ e.service = .arming then some (be24 e.visited) else none),
      .maybe 4 (if e.serves c = true ∧ e.service = .scanning then
        some (be16 (e.scanRange.getD (0, 0)).1 ++ be16 (e.scanRange.getD (0, 0)).2) else none),
      .maybe 2 (if e.serves c = true ∧ e.service = .scanning then e.front.map be16 else none),
      .fixed (if e.serves c = true ∧ e.service = .scanning then
        be24 e.openList.length ++ be16 e.openSet.length else [0, 0, 0, 0, 0])] := by
  have hserves (phase : Service) : (e.serves c && e.service == phase) = true ↔
      e.serves c = true ∧ e.service = phase := by rw [Bool.and_eq_true, beq_iff_eq]
  simp only [Engine.parts, if_congr (hserves _) rfl rfl]
  rfl

/-- A head port's part, while the context is SCANNING (R78). -/
theorem State.portPart_eq (s : State) (c : CtxId) (p : PortId) : s.portPart c p =
    .maybe 7 (if (s.ctx c).state = .scanning ∧ p.val < s.flow.heads then
      some ([(s.ports.get p).scan.code] ++ beI16 (s.markOf p)
        ++ be32 (((s.ports.get p).record.map ScanRecord.received).getD 0)) else none) := by
  rw [State.portPart]
  refine congrArg _ (if_congr (and_congr_right fun _ => decide_eq_true_iff) ?_ rfl)
  cases (s.ports.get p).record with
  | none => rfl
  | some r => rfl

/-- Every part of a context's report, one after another (R177). -/
theorem State.contextParts_present (s : State) (c : CtxId) :
    partsPresent (s.contextParts c) = partsPresent (s.ctx c).flowParts
      ++ partsPresent (s.align.records.get c).parts ++ partsPresent (s.engine.parts c)
      ++ partsPresent (portIds.map (s.portPart c)) ++ partsPresent [s.evaluatorPart c]
      ++ partsPresent (s.decision.records.get c).parts := by
  simp only [State.contextParts, partsPresent_append]

theorem State.contextParts_bytes (s : State) (c : CtxId) :
    partsBytes (s.contextParts c) = partsBytes (s.ctx c).flowParts
      ++ partsBytes (s.align.records.get c).parts ++ partsBytes (s.engine.parts c)
      ++ partsBytes (portIds.map (s.portPart c)) ++ partsBytes [s.evaluatorPart c]
      ++ partsBytes (s.decision.records.get c).parts := by
  simp only [State.contextParts, partsBytes_append]

/-- The owners' bytes after the head, without the brackets of their sections. -/
theorem append_sections (p h a b c d e f : List Byte) :
    p ++ (h ++ (a ++ b ++ c ++ d ++ e ++ f)) = p ++ h ++ a ++ b ++ c ++ d ++ e ++ f := by
  simp only [List.append_assoc]

theorem append_congr {a a' b b' : List Byte} (ha : a = a') (hb : b = b') : a ++ b = a' ++ b' := by
  rw [ha, hb]

/-- Settles O19: a context number above 1 is refused, a FREE context reports its head alone, and any other
the parts of its owners. -/
theorem panelStatusIsReported : Obligations.PanelStatusIsReported := by
  intro s tag context htakes
  have answered {st : Status} {r : List Byte}
      (hserve : (s.served 0x22 tag).servePanelStatus [context] = (s.served 0x22 tag).reply st r) :
      exec (.panelStatus tag context) s = .next (s.answered .panelStatus tag st r) :=
    State.request_answered s s .panelStatus tag [context] htakes rfl st r hserve
  refine ⟨fun hcontext => answered ?_, ?_⟩
  · rw [State.servePanelStatus, u8_cons, pairIndex_lt hcontext]
    rfl
  · intro c hc x head
    have hstatus : exec (.panelStatus tag context) s
        = .next (s.answered .panelStatus tag .ok (s.panelStatusBytes c)) := by
      refine answered ?_
      rw [State.servePanelStatus, u8_cons, hc, pairIndex_val]
      rfl
    rw [hstatus]
    refine ⟨fun hfree => ?_, ?_⟩
    · rw [State.panelStatusBytes, if_pos hfree]
      rfl
    · intro hheld r opt found fid region exclusions terms residual slopes cause held serves visited range
        front port decided
      have hport (p : PortId) : s.portPart c p = .maybe 7 (port p) := s.portPart_eq c p
      have hports : portIds.map (s.portPart c) = [.maybe 7 (port 0), .maybe 7 (port 1),
          .maybe 7 (port 2), .maybe 7 (port 3)] := by
        rw [← hport, ← hport, ← hport, ← hport]
        rfl
      have hfid (e : FidEntry) :
          e.parts = [.fixed [e.searched.code, e.outcome.code], .maybe 13 (found e)] := rfl
      have hdecision : (s.decision.records.get c).parts
          = [.fixed [(s.decision.records.get c).code], .maybe 9 decided] := rfl
      have hbytes : s.panelStatusBytes c = _ := (if_neg hheld).trans (layOut_eq _)
      rw [hbytes, partsPresent_fixed, partsBytes_fixed, State.contextParts_present,
        State.contextParts_bytes, hports, Engine.parts_eq, hdecision, append_sections]
      refine congrArg (fun b => Host.Outcome.next (s.answered .panelStatus tag .ok b)) ?_
      refine append_congr (append_congr (append_congr (append_congr (append_congr (append_congr
        (append_congr ?presence rfl) ?flow) ?alignment) ?engine) ?ports) ?evaluator) ?decision
      case presence =>
        refine congrArg presence ?_
        simp only [Context.flowParts, AlignRecord.parts, hfid, partsPresent_append, partsPresent_fixed,
          partsPresent_maybe, partsPresent_nil]
        rfl
      case flow =>
        simp only [Context.flowParts, partsBytes_fixed, partsBytes_maybe, partsBytes_nil,
          List.append_assoc, List.append_nil]
        rfl
      case alignment =>
        simp only [AlignRecord.parts, hfid, partsBytes_append, partsBytes_fixed, partsBytes_maybe,
          partsBytes_nil, List.append_assoc, List.append_nil]
        rfl
      case engine =>
        simp only [partsBytes_fixed, partsBytes_maybe, partsBytes_nil, List.append_assoc, List.append_nil]
        rfl
      case ports =>
        simp only [partsBytes_maybe, partsBytes_nil, List.append_assoc, List.append_nil]
        rfl
      case evaluator => exact List.append_nil _
      case decision => rw [partsBytes_fixed, partsBytes_maybe, partsBytes_nil, List.append_nil]

end Sys2Proof.Machine
end

section
/-! Proofs. The program library: the concurrency estimate (R14), and the requests PROGRAM_BEGIN,
PROGRAM_END and PROGRAM_ERASE with the event VALIDATION_COMPLETE (R9, R11, R15, R16). -/

namespace Sys2Proof.Machine

open Sys2Proof

/-! ### Quotients rounded down and up -/

theorem floorDiv_bounds (a : Int) {b : Int} (hb : 0 < b) :
    b * floorDiv a b ≤ a ∧ a < b * floorDiv a b + b := by
  rw [floorDiv, Int.fdiv_eq_ediv_of_nonneg a hb.le]
  exact ⟨Int.mul_ediv_self_le hb.ne', Int.lt_mul_ediv_self_add hb⟩

theorem ceilDiv_bounds (a : Int) {b : Int} (hb : 0 < b) :
    a ≤ b * ceilDiv a b ∧ b * ceilDiv a b < a + b := by
  obtain ⟨hle, hlt⟩ := floorDiv_bounds (-a) hb
  have hceil : b * ceilDiv a b = -(b * floorDiv (-a) b) := Int.mul_neg b _
  omega

/-! ### The nominal spans (R14, steps 1 to 5) -/

theorem blocksOf_one (P : Nat) (x : Int × Int) : blocksOf P [x]
    = (floorDiv (ceilDiv (x.1 - x.2) P) 4, floorDiv (floorDiv (x.1 + x.2) P) 4) := by
  simp [blocksOf]

theorem blocksOf_two (P : Nat) (x y : Int × Int) : blocksOf P [x, y]
    = (floorDiv (min (ceilDiv (x.1 - x.2) P) (ceilDiv (y.1 - y.2) P)) 4,
      floorDiv (max (floorDiv (x.1 + x.2) P) (floorDiv (y.1 + y.2) P)) 4) := by
  simp [blocksOf]

theorem Placement.point_snd (p : Placement) (u v : Int) :
    (p.point u v).2 = if p.turned then (p.pv : Int) - v else (p.pv : Int) + v := by
  rw [Placement.point]
  split <;> rfl

/-! ### The greatest count (R14, step 6) -/

/-- A row block within some spans is within no more of them than the last first row block among theirs. -/
theorem spansAt_le_estimate (spans : List (Int × Int)) (b : Int) :
    spansAt spans b ≤ concurrencyEstimate spans := by
  have hcounts : ∀ x ∈ spans, spansAt spans x.1 ≤ concurrencyEstimate spans := by
    intro x hx
    exact ((foldl_max_le _ 0 _).mp le_rfl).2 _ (List.mem_map_of_mem hx)
  let holding := spans.filter (fun x => decide (x.1 ≤ b) && decide (b ≤ x.2))
  cases hmax : holding.argmax Prod.fst with
  | none =>
    have hnone : spansAt spans b = 0 := by
      rw [spansAt, List.countP_eq_length_filter]
      exact congrArg List.length (List.argmax_eq_none.mp hmax)
    omega
  | some y =>
    have hy := List.mem_filter.mp (List.argmax_mem hmax)
    refine le_trans (List.countP_mono_left fun x hx hb => ?_) (hcounts y hy.1)
    have hle : x.1 ≤ y.1 := List.le_of_mem_argmax (List.mem_filter.mpr ⟨hx, hb⟩) hmax
    simp only [Bool.and_eq_true, decide_eq_true_eq] at hb hy ⊢
    omega

/-- The estimate is the count at some row block. -/
theorem exists_spansAt_eq_estimate {spans : List (Int × Int)} (hne : spans ≠ []) :
    ∃ b, spansAt spans b = concurrencyEstimate spans := by
  obtain ⟨x, hx⟩ := List.exists_mem_of_ne_nil spans hne
  rcases foldl_max_mem (spans.map (fun x => spansAt spans x.1)) 0 with hzero | hmem
  · have hle := spansAt_le_estimate spans x.1
    exact ⟨x.1, le_antisymm hle (le_of_eq_of_le hzero (Nat.zero_le _))⟩
  · obtain ⟨y, -, hy⟩ := List.mem_map.mp hmem
    exact ⟨y.1, hy⟩

/-- Settles O30: the spans from the rectangles of each joint, and the greatest of their counts. -/
theorem estimateIsTheGreatestCount : Obligations.EstimateIsTheGreatestCount := by
  refine ⟨fun a b hb => ⟨(floorDiv_bounds a hb).1, (floorDiv_bounds a hb).2, ceilDiv_bounds a hb⟩, ?_,
    fun spans => ⟨fun b => spansAt_le_estimate spans b, fun hne => exists_spansAt_eq_estimate hne⟩⟩
  intro h x cl hcl centre first last
  refine List.flatMap_congr fun p _ => List.map_congr_left fun t ht => ?_
  simp only [nominalSpan, hcl t ht]
  cases hgap : t.gap with
  | none =>
    rw [blocksOf_one, Placement.point_snd]
    rfl
  | some g =>
    rw [blocksOf_two, Placement.point_snd, Placement.point_snd]
    rfl

/-! ### Requests for a slot (R9, R11, R16) -/

theorem State.not_offline {s : State} (hon : s.flow.station ≠ .offline) : ¬ s.offline = true :=
  fun hoff => hon (beq_iff_eq.mp hoff)

/-- What driving ENTRY_ENABLE changes: the line, to the level R29 gives it. -/
theorem State.exists_entry (s : State) : ∃ e : Bool,
    s.driveEntry = { s with flow := { s.flow with entryEnable := e } } ∧
      (e = true ↔ ({ s with flow := { s.flow with entryEnable := e } } : State).EntryTerms) :=
  ⟨s.entryCondition, rfl, s.driveEntry_terms⟩

/-- A slot without a pin, emptied (R16). -/
theorem Slot.emptyOut_of_unpinned {x : Slot} (hx : x.pins = 0) :
    x.emptyOut = ⟨.empty, 0, none, [], [], [], []⟩ := by
  rw [Slot.emptyOut, hx]
  rfl

/-- The checks of a PROGRAM_ERASE that names a slot, in their order (R16). -/
theorem serveProgramErase_slot {s : State} {slot : Byte} {k : SlotId} (hk : slot.toNat = k.val) :
    s.serveProgramErase [slot] =
      if s.offline then s.refuse .badState
      else if (s.slots.get k).pins ≠ 0 then s.refuse .slotBusy
      else ((s.modSlot k Slot.emptyOut).driveEntry).reply .ok [] := by
  rw [State.serveProgramErase, u8_cons, hk, quadIndex_val]

/-- Settles O31: the checks of PROGRAM_ERASE in their order, and the slot emptied. -/
theorem programIsErased : Obligations.ProgramIsErased := by
  intro s tag slot htakes ask
  have answered {t : State} {st : Status} {r : List Byte}
      (hserve : (s.served 0x13 tag).serveProgramErase [slot] = (t.served 0x13 tag).reply st r) :
      ask = .next (t.answered .programErase tag st r) :=
    State.request_answered s t .programErase tag [slot] htakes rfl st r hserve
  refine ⟨fun hslot => answered ?_, fun k hk => ⟨fun hoff => answered ?_, fun hon hpins => answered ?_,
    fun hon hpins => ?_⟩⟩
  · rw [State.serveProgramErase, u8_cons, quadIndex_lt hslot]
    rfl
  · rw [serveProgramErase_slot hk]
    exact if_pos (State.offline_of hoff)
  · rw [serveProgramErase_slot hk]
    exact (if_neg (State.not_offline hon)).trans (if_pos hpins)
  · obtain ⟨e, hdriven, hterms⟩ := (s.modSlot k Slot.emptyOut).exists_entry
    have hslots : s.slots.set k ⟨.empty, 0, none, [], [], [], []⟩
        = s.slots.set k (s.slots.get k).emptyOut := by rw [Slot.emptyOut_of_unpinned hpins]
    refine ⟨e, answered ?_, ?_⟩
    · rw [serveProgramErase_slot hk, hslots]
      refine (if_neg (State.not_offline hon)).trans ((if_neg (not_not_intro hpins)).trans ?_)
      exact congrArg (fun t : State => (t.served 0x13 tag).reply .ok []) hdriven
    · rw [hslots]
      exact hterms

/-! ### PROGRAM_END and VALIDATION_COMPLETE (R11, R15) -/

theorem serveProgramEnd_slot {s : State} {slot : Byte} {k : SlotId} (hk : slot.toNat = k.val) :
    s.serveProgramEnd [slot] =
      if s.offline ∨ (s.slots.get k).state ≠ .loading then s.refuse .badState
      else s.modSlot k (fun x => { x with state := .validating }) := by
  rw [State.serveProgramEnd, u8_cons, hk, quadIndex_val]

/-- The slot being validated is the first that is VALIDATING. -/
theorem State.validatingSlot_eq {s : State} {k : SlotId} (hk : (s.slots.get k).state = .validating)
    (hfirst : ∀ j, j < k → (s.slots.get j).state ≠ .validating) : s.validatingSlot = some k := by
  have hnot (j : SlotId) (hj : j < k) : ((s.slots.get j).state == .validating) = false :=
    beq_false_of_ne (hfirst j hj)
  have hyes : ((s.slots.get k).state == .validating) = true := beq_iff_eq.mpr hk
  show [0, 1, 2, 3].find? _ = _
  match k with
  | 0 => simp [hyes]
  | 1 => simp [hyes, hnot 0 (by decide)]
  | 2 => simp [hyes, hnot 0 (by decide), hnot 1 (by decide)]
  | 3 => simp [hyes, hnot 0 (by decide), hnot 1 (by decide), hnot 2 (by decide)]

theorem State.validatingSlot_eq_none {s : State} (hnone : ∀ k, (s.slots.get k).state ≠ .validating) :
    s.validatingSlot = none :=
  List.find?_eq_none.mpr fun k _ hk => hnone k (beq_iff_eq.mp hk)

/-- A validation completed sets its slot and answers (R15). -/
theorem exec_validationComplete {s : State} {k : SlotId} {h : Header}
    (hk : (s.slots.get k).state = .validating) (hfirst : ∀ j, j < k → (s.slots.get j).state ≠ .validating)
    (hh : (s.slots.get k).header = some h) :
    exec .validationComplete s = .next (s.settleValidation k (validateSlot h (s.slots.get k))).pump := by
  show execValidationComplete s = _
  rw [execValidationComplete, State.validatingSlot_eq hk hfirst]
  dsimp only
  rw [hh]

/-- Settles O28: PROGRAM_END's checks and start, and the two outcomes of a validation. -/
theorem programIsEndedAndValidated : Obligations.ProgramIsEndedAndValidated := by
  refine ⟨?_, ?_, fun s hnone => ?_⟩
  · intro s tag slot htakes hsettled
    have answered {st : Status} {r : List Byte}
        (hserve : (s.served 0x12 tag).serveProgramEnd [slot] = (s.served 0x12 tag).reply st r) :
        exec (.programEnd tag slot) s = .next (s.answered .programEnd tag st r) :=
      State.request_answered s s .programEnd tag [slot] htakes rfl st r hserve
    refine ⟨fun hslot => answered ?_, fun k hk => ⟨fun hbar => answered ?_, fun hon hload => ?_⟩⟩
    · rw [State.serveProgramEnd, u8_cons, quadIndex_lt hslot]
      rfl
    · rw [serveProgramEnd_slot hk]
      exact if_pos (hbar.imp_left State.offline_of)
    · have hserve : (s.served 0x12 tag).serveProgramEnd [slot]
          = (s.served 0x12 tag).modSlot k (fun x => { x with state := .validating }) := by
        rw [serveProgramEnd_slot hk]
        exact if_neg (not_or_intro (State.not_offline hon) (not_not_intro hload))
      have hexec := State.request_known s .programEnd tag [slot] htakes rfl
      refine hexec.trans (congrArg _ ?_)
      show ((s.served 0x12 tag).serveProgramEnd [slot]).pump = _
      rw [hserve]
      exact State.pump_settled hsettled
  · intro s k h kind tag hk hfirst hh hservice
    have hexec := exec_validationComplete hk hfirst hh
    refine ⟨fun n hn => ?_, fun d i hd => ?_⟩
    · obtain ⟨e, hdriven, hterms⟩ := (s.modSlot k (fun x => { x with state := .valid })).exists_entry
      refine ⟨e, ?_, hterms⟩
      rw [hexec, hn, State.settleValidation, hdriven]
      exact congrArg _ (State.reply_pump _ kind tag _ _ hservice)
    · obtain ⟨e, hdriven, hterms⟩ := (s.modSlot k Slot.emptyOut).exists_entry
      refine ⟨e, ?_, hterms⟩
      rw [hexec, hd, State.settleValidation, hdriven]
      exact congrArg _ (State.reply_pump _ kind tag _ _ hservice)
  · show execValidationComplete s = _
    rw [execValidationComplete, State.validatingSlot_eq_none hnone]

/-! ### The header (R4, R187) -/

theorem u8_lt (b : List Byte) (i : Nat) : u8 b i < 256 := (b.getD i 0).isLt

theorem u16_lt (b : List Byte) (i : Nat) : u16 b i < 65536 := by
  have hhigh := u8_lt b i
  have hlow := u8_lt b (i + 1)
  rw [u16]
  omega

/-- The bytes of a run are those at its offsets. -/
theorem forall_mem_take {b : List Byte} {n : Nat} (hn : n ≤ b.length) (p : Nat → Prop) :
    (∀ c ∈ b.take n, p c.toNat) ↔ ∀ i, i < n → p (u8 b i) := by
  rw [List.forall_mem_iff_getElem]
  have hlen : (b.take n).length = n := List.length_take_of_le hn
  refine ⟨fun h i hi => ?_, fun h i hi => ?_⟩
  · have hget := h i (by omega)
    rw [List.getElem_take] at hget
    rwa [u8, List.getD_eq_getElem _ _ (by omega)]
  · have hget := h i (by omega)
    rw [List.getElem_take]
    rwa [u8, List.getD_eq_getElem _ _ (by omega)] at hget

/-- The ranges of a header read from 37 bytes (R4): those of its fields' widths hold by themselves. -/
theorem Header.ofBytes_ok_iff {b : List Byte} (hlen : b.length = 37) : (Header.ofBytes b).ok = true ↔
    let h := Header.ofBytes b
    (∀ i, i < 16 → 0x20 ≤ u8 b i ∧ u8 b i ≤ 0x7E) ∧
    (h.pitch = 10 ∨ h.pitch = 12 ∨ h.pitch = 15 ∨ h.pitch = 20) ∧
    (1 ≤ h.sites ∧ h.sites ≤ 8192) ∧ (1 ≤ h.classes ∧ h.classes ≤ 64) ∧
    (1 ≤ h.components ∧ h.components ≤ 4096) ∧ (1 ≤ h.placements ∧ h.placements ≤ 32) ∧
    (1000 ≤ h.taktLimit ∧ h.taktLimit ≤ 600000) ∧
    (h.repeatLimit = 0 ∨ 2 ≤ h.repeatLimit) ∧ (5 ≤ h.residualLimit ∧ h.residualLimit ≤ 500) ∧
    (1 ≤ h.scaleLimit ∧ h.scaleLimit ≤ 655) ∧ (1 ≤ h.rotationLimit ∧ h.rotationLimit ≤ 1144) ∧
    (1 ≤ h.slopeLimit ∧ h.slopeLimit ≤ 20971) ∧ h.sites * h.placements ≤ 65536 := by
  have hname : (Header.ofBytes b).name.length = 16 := by
    show (b.take 16).length = 16
    rw [List.length_take, hlen]
    rfl
  have hlimit : (Header.ofBytes b).unmeasuredLimit ≤ 65535 := Nat.le_of_lt_succ (u16_lt b 26)
  have hrepeat : (Header.ofBytes b).repeatLimit ≤ 255 := Nat.le_of_lt_succ (u8_lt b 28)
  have hbytes : (∀ c ∈ (Header.ofBytes b).name, 0x20 ≤ c.toNat ∧ c.toNat ≤ 0x7E) ↔
      ∀ i, i < 16 → 0x20 ≤ u8 b i ∧ u8 b i ≤ 0x7E :=
    forall_mem_take (b := b) (by omega) (fun n => 0x20 ≤ n ∧ n ≤ 0x7E)
  rw [Header.ok_iff, hbytes]
  simp only [hname, hlimit, hrepeat, true_and, and_true]

/-! ### PROGRAM_BEGIN (R9) -/

theorem State.loadElsewhere_iff {s : State} {k : SlotId} : s.loadElsewhere k = true ↔
    ∃ j, j ≠ k ∧ ((s.slots.get j).state = .loading ∨ (s.slots.get j).state = .validating) := by
  simp only [State.loadElsewhere, List.any_eq_true, Bool.and_eq_true, bne_iff_ne, Bool.or_eq_true,
    beq_iff_eq]
  have hall : ∀ j : SlotId, j ∈ portIds := by decide
  exact ⟨fun ⟨j, _, hj⟩ => ⟨j, hj⟩, fun ⟨j, hj⟩ => ⟨j, hall j, hj⟩⟩

/-- The checks of a PROGRAM_BEGIN that names a slot, in their order (R9). -/
theorem serveProgramBegin_slot {s : State} {slot : Byte} {header : List Byte} {k : SlotId}
    (hk : slot.toNat = k.val) :
    s.serveProgramBegin (slot :: header) =
      if s.offline then s.refuse .badState
      else if (s.slots.get k).pins ≠ 0 then s.refuse .slotBusy
      else if s.loadElsewhere k then s.refuse .loadActive
      else if (Header.ofBytes header).ok then (s.beginLoad k (Header.ofBytes header)).reply .ok []
      else s.refuse .badArg := by
  rw [State.serveProgramBegin, u8_cons, hk, quadIndex_val]
  rfl

/-- Taking a request and beginning a load may be done in either order. -/
theorem State.served_beginLoad (s : State) (a t : Byte) (k : SlotId) (h : Header) :
    (s.served a t).beginLoad k h = (s.beginLoad k h).served a t := by
  have hslot (f : Slot → Slot) : (s.served a t).modSlot k f = (s.modSlot k f).served a t := rfl
  dsimp only [State.beginLoad]
  rw [hslot, State.served_unprimeRun]
  generalize State.unprimeRun _ k 0 64 = v
  rfl

/-- What an accepted PROGRAM_BEGIN changes, with the monitor as its drift values are unprimed (R9, R141,
R146). -/
theorem State.beginLoad_eq (s : State) (k : SlotId) (h : Header) (hpins : (s.slots.get k).pins = 0) :
    ∃ (d : Monitor) (e : Bool),
      (∀ (j : SlotId) (c : Nat), c < 64 →
        d.driftOf j c = if j = k then none else s.monitor.driftOf j c) ∧
      { d with drift := s.monitor.drift } = s.monitor ∧
      let t : State := { s with
        flow := { s.flow with entryEnable := e }
        slots := s.slots.set k ⟨.loading, 0, some h, [], [], [], []⟩
        monitor := (d.discardRequests k).zeroRepeats k
        link := s.unprimedLink k (List.range 64) }
      s.beginLoad k h = t ∧ (e = true ↔ t.EntryTerms) := by
  let u : State := { s with slots := s.slots.set k ⟨.loading, 0, some h, [], [], [], []⟩ }
  have hslot : s.modSlot k (fun x => { x with
      state := .loading, header := some h, classes := [], sites := [], placements := []
      fiducials := [] }) = u := by
    simp only [State.modSlot, State.modSlots, hpins]
    rfl
  obtain ⟨hvalues, hrest, -, -⟩ := State.unprimeRun_changes u k 0 64 (by decide)
  have hrun := State.unprimeRun_eq u k 0 64 (by decide)
  simp only [Nat.zero_add, List.map_id'] at hrun
  dsimp only [State.beginLoad]
  rw [hslot]
  generalize u.unprimeRun k 0 64 = v at hvalues hrest hrun
  obtain ⟨e, hdriven, hterms⟩ := (v.modMonitor (fun m => (m.discardRequests k).zeroRepeats k)).exists_entry
  rw [hrun] at hdriven hterms
  refine ⟨v.monitor, e, fun j c hc => (hvalues j c hc).trans (if_congr ?_ rfl rfl), hrest, ?_, hterms⟩
  · exact ⟨fun hj => hj.1, fun hj => ⟨hj, Nat.zero_le c, by omega⟩⟩
  · rw [hrun]
    exact hdriven

/-- The requests that remain when a slot's are discarded (R146). -/
theorem Monitor.discardRequests_left {m : Monitor} {k : SlotId} :
    (∀ w, m.work = some w → w.request.slot = k →
      (m.discardRequests k).work = (m.others k).head?.map (fun r => ⟨r, 0⟩) ∧
      (m.discardRequests k).requests = (m.others k).tail) ∧
    ((∀ w, m.work = some w → w.request.slot ≠ k) →
      (m.discardRequests k).work = m.work ∧ (m.discardRequests k).requests = m.others k) := by
  refine ⟨fun w hw hk => ?_, fun hother => ?_⟩
  · rw [(Monitor.discardRequests_running hw hk).1]
    exact ⟨rfl, rfl⟩
  · rw [(Monitor.discardRequests_waiting hother).1]
    exact ⟨rfl, rfl⟩

/-- Settles O26: the checks of PROGRAM_BEGIN in their order, and the load it begins. -/
theorem programIsBegun : Obligations.ProgramIsBegun := by
  intro s tag slot header htakes hlen h inRange ask
  have hrange : (Header.ofBytes header).ok = true ↔ inRange := Header.ofBytes_ok_iff hlen
  have answered {t : State} {st : Status} {r : List Byte}
      (hserve : (s.served 0x10 tag).serveProgramBegin (slot :: header) = (t.served 0x10 tag).reply st r) :
      ask = .next (t.answered .programBegin tag st r) := by
    refine State.request_answered s t .programBegin tag (slot :: header) htakes ?_ st r hserve
    exact ReqKind.bodyFits_iff.mpr (by rw [List.length_cons, hlen]; exact ⟨le_rfl, le_rfl⟩)
  have elsewhere {k : SlotId} (hload : ∀ j, j ≠ k →
      (s.slots.get j).state ≠ .loading ∧ (s.slots.get j).state ≠ .validating) :
      ¬ s.loadElsewhere k = true := fun hel => by
    obtain ⟨j, hj, hstate⟩ := State.loadElsewhere_iff.mp hel
    obtain ⟨hnotLoading, hnotValidating⟩ := hload j hj
    exact hstate.elim hnotLoading hnotValidating
  refine ⟨fun hslot => answered ?_, fun k hk => ⟨fun hoff => answered ?_, fun hon hpins => answered ?_,
    fun hon hpins hload => answered ?_, fun hon hpins hload => ⟨fun hbad => answered ?_, fun hgood => ?_⟩⟩⟩
  · rw [State.serveProgramBegin, u8_cons, quadIndex_lt hslot]
    rfl
  · rw [serveProgramBegin_slot hk]
    exact if_pos (State.offline_of hoff)
  · rw [serveProgramBegin_slot hk]
    exact (if_neg (State.not_offline hon)).trans (if_pos hpins)
  · rw [serveProgramBegin_slot hk]
    exact (if_neg (State.not_offline hon)).trans ((if_neg (not_not_intro hpins)).trans
      (if_pos (State.loadElsewhere_iff.mpr hload)))
  · rw [serveProgramBegin_slot hk]
    exact (if_neg (State.not_offline hon)).trans ((if_neg (not_not_intro hpins)).trans
      ((if_neg (elsewhere hload)).trans (if_neg (mt hrange.mp hbad))))
  · obtain ⟨d, e, hvalues, hrest, hbegun, hterms⟩ := s.beginLoad_eq k h hpins
    have hrepeats : d.repeats = s.monitor.repeats := by rw [← hrest]
    have hwork : d.work = s.monitor.work := by rw [← hrest]
    have hrequests : d.requests = s.monitor.requests := by rw [← hrest]
    obtain ⟨-, -, hkeptRepeats, hkeptDrift, -⟩ := d.discardRequests_changes k
    obtain ⟨hrunning, hwaiting⟩ := Monitor.discardRequests_left (m := d) (k := k)
    rw [Monitor.others, hwork, hrequests] at hrunning hwaiting
    refine ⟨(d.discardRequests k).zeroRepeats k, e, ?_⟩
    intro t
    refine ⟨answered ?_, hterms, fun j c hc => ?_, fun j i hi => ?_, ⟨hrunning, hwaiting⟩, ?_⟩
    · rw [serveProgramBegin_slot hk]
      refine (if_neg (State.not_offline hon)).trans ((if_neg (not_not_intro hpins)).trans
        ((if_neg (elsewhere hload)).trans ((if_pos (hrange.mpr hgood)).trans ?_)))
      rw [State.served_beginLoad]
      exact congrArg (fun t : State => (t.served 0x10 tag).reply .ok []) hbegun
    · rw [← hvalues j c hc]
      exact congrArg (mapGet (driftKey j c)) hkeptDrift
    · rw [Monitor.zeroRepeats_repeatOf _ _ _ _ hi, Monitor.repeatOf_congr _ _ hkeptRepeats,
        Monitor.repeatOf_congr _ _ hrepeats]
    · exact (congrArg (fun q : Monitor => { q with drift := [] }) (d.clearRepeats_rest k)).trans
        (congrArg (fun q : Monitor => { q with drift := [], repeats := [], requests := [], work := none })
          hrest)

end Sys2Proof.Machine
end

section
/-! Proofs. The requests of the flow controller: CONFIGURE_STATION, SET_MODE, QUEUE_PANEL, CANCEL_QUEUE,
CLEAR_STOP and CLEAR_FAULT (R20 to R23, R26, R27, R38, R39). -/

namespace Sys2Proof.Machine

open Sys2Proof

/-! ### SET_MODE (R22, R23) -/

theorem State.driveLines_station (s : State) : s.driveLines.flow.station = s.flow.station := by
  show s.releaseTest.flow.station = _
  unfold State.releaseTest
  repeat' split
  all_goals rfl

theorem Flow.takesMode_iff {w : Flow} : w.takesMode = true ↔
    w.station = .idle ∨ w.station = .running ∨ w.station = .draining := by
  rw [Flow.takesMode, Bool.or_eq_true, Bool.or_eq_true, beq_iff_eq, beq_iff_eq, beq_iff_eq, or_assoc]

section Mode

variable {s : State}

theorem State.setMode_run (h : s.flow.station = .idle ∨ s.flow.station = .draining) :
    s.setMode false = s.changeStation .running .run := by
  rcases h with h | h
  · simp only [State.setMode, h]
  · simp only [State.setMode, h]

theorem State.setMode_running (h : s.flow.station = .running) : s.setMode false = s := by
  simp only [State.setMode, h]

theorem State.setMode_drain (h : s.flow.station = .running) :
    s.setMode true = if s.flow.bothFree then s.changeStation .idle .drained
      else s.changeStation .draining .drain := by
  simp only [State.setMode, h]

theorem State.setMode_drained (h : s.flow.station = .idle ∨ s.flow.station = .draining) :
    s.setMode true = s := by
  rcases h with h | h
  · simp only [State.setMode, h]
  · simp only [State.setMode, h]

theorem State.served_setMode (k tag : Byte) (drain : Bool) :
    (s.served k tag).setMode drain = (s.setMode drain).served k tag := by
  have changed (st : StationState) (cause : StationCause) := s.served_changeStation k tag st cause
  have hflow : (s.served k tag).flow = s.flow := rfl
  unfold State.setMode
  rw [hflow]
  split
  · exact changed _ _
  · exact changed _ _
  · split
    · exact changed _ _
    · exact changed _ _
  · rfl

theorem State.serveSetMode_takes {mode tag : Byte} {t : State} (htakes : s.flow.takesMode = true)
    (hmode : mode.toNat ≤ 1) (ht : s.setMode (mode.toNat == 1) = t) :
    (s.served 0x03 tag).serveSetMode [mode]
      = (t.driveLines.served 0x03 tag).reply .ok [t.flow.station.code] := by
  have htakes' : ¬ (!(s.served 0x03 tag).flow.takesMode) = true := by
    rw [show (s.served 0x03 tag).flow = s.flow from rfl, htakes]
    decide
  refine (if_neg htakes').trans ((if_neg (Nat.not_lt.mpr hmode)).trans ?_)
  show (((s.served 0x03 tag).setMode (mode.toNat == 1)).driveLines.reply .ok
    [((s.served 0x03 tag).setMode (mode.toNat == 1)).driveLines.flow.station.code]) = _
  rw [State.served_setMode, ht, State.served_driveLines, ← t.driveLines_station]
  rfl

end Mode

/-- Settles O33: the mode's check, the state it leads to, and the lines driven anew. -/
theorem modeIsSet : Obligations.ModeIsSet := by
  intro s tag mode htakes hstation ask stays becomes
  have hmodes : s.flow.takesMode = true := Flow.takesMode_iff.mpr hstation
  have reaches {t : State} (hle : mode.toNat ≤ 1) (ht : s.setMode (mode.toNat == 1) = t) :
      ask = .next (t.driveLines.answered .setMode tag .ok [t.flow.station.code]) :=
    State.request_answered s _ .setMode tag [mode] htakes rfl .ok _
      (State.serveSetMode_takes hmodes hle ht)
  refine ⟨fun hbad => ?_, fun hmode h => ?_, fun hmode h => ?_, fun hmode h hbusy => ?_,
    fun hmode h hfree => ?_, fun hmode h => ?_⟩
  · refine State.request_answered s s .setMode tag [mode] htakes rfl .badArg [] ?_
    have hmodes' : ¬ (!s.flow.takesMode) = true := by rw [hmodes]; decide
    exact (if_neg hmodes').trans (if_pos hbad)
  · refine reaches (t := s.changeStation .running .run) (by omega) ?_
    rw [hmode]
    exact State.setMode_run h
  · refine reaches (by omega) ?_
    rw [hmode]
    exact State.setMode_running h
  · refine reaches (t := s.changeStation .draining .drain) hmode.le ?_
    rw [hmode]
    refine (State.setMode_drain h).trans (if_neg fun hfree => ?_)
    obtain ⟨c, hc⟩ := hbusy
    exact hc ((Flow.bothFree_iff _).mp hfree c)
  · refine reaches (t := s.changeStation .idle .drained) hmode.le ?_
    rw [hmode]
    exact (State.setMode_drain h).trans (if_pos ((Flow.bothFree_iff _).mpr hfree))
  · refine reaches hmode.le ?_
    rw [hmode]
    exact State.setMode_drained h

/-! ### CLEAR_STOP and CLEAR_FAULT (R38, R39) -/

/-- A request that changes the station state and drives the lines anew. -/
theorem State.served_changed (s : State) (k tag : Byte) (st : StationState) (cause : StationCause)
    (r : List Byte) :
    ((s.served k tag).changeStation st cause).driveLines.reply .ok r
      = ((s.changeStation st cause).driveLines.served k tag).reply .ok r := by
  rw [State.served_changeStation, State.served_driveLines]

/-- Freeing a context in a station that does not drain: the context, its pin and its decision record. -/
theorem State.freeContext_of_not_draining {s : State} (c : CtxId) (h : s.flow.station ≠ .draining) :
    s.freeContext c = { s with
      flow := { s.flow with ctxs := s.flow.ctxs.set c { s.ctx c with
        state := .free, position := .nowhere, taktRunning := false } }
      slots := s.slots.set (s.ctx c).slot { s.slots.get (s.ctx c).slot with
        pins := (s.slots.get (s.ctx c).slot).pins - 1 }
      decision := { s.decision with records := s.decision.records.set c .absent } } :=
  if_neg fun hdrain => h hdrain.1

/-- The state in which CLEAR_FAULT leaves the RELEASING context (R39). -/
def State.jamCleared (s : State) (c : CtxId) : State :=
  (s.modFlow (Flow.count (fun k => { k with jamCleared := bump k.jamCleared 1 }))).freeContext c

theorem State.served_jamCleared (s : State) (k tag : Byte) (c : CtxId) :
    (s.served k tag).jamCleared c = (s.jamCleared c).served k tag :=
  State.served_freeContext (s.modFlow (Flow.count fun k => { k with jamCleared := bump k.jamCleared 1 }))
    k tag c

theorem State.serveClearFault_some {s : State} {c : CtxId} (hfault : s.flow.station = .fault)
    (hfind : s.flow.findCtx (fun x => x.state == .releasing) = some c) :
    s.serveClearFault = ((s.jamCleared c).changeStation .idle .cleared).driveLines.reply .ok [1] := by
  rw [State.serveClearFault, if_neg (not_not_intro hfault), hfind]
  rfl

theorem State.serveClearFault_none {s : State} (hfault : s.flow.station = .fault)
    (hfind : s.flow.findCtx (fun x => x.state == .releasing) = none) :
    s.serveClearFault = (s.changeStation .idle .cleared).driveLines.reply .ok [0] := by
  rw [State.serveClearFault, if_neg (not_not_intro hfault), hfind]

/-- Settles O35: the hold cleared, with a RELEASING context freed by CLEAR_FAULT. -/
theorem holdIsCleared : Obligations.HoldIsCleared := by
  refine ⟨?_, ?_⟩
  · intro s tag htakes hstopped hstop t
    have ht : t = s.changeStation .idle .cleared := by
      rw [State.changeStation, hstopped]
      rfl
    rw [ht]
    refine State.request_answered s _ .clearStop tag [] htakes rfl .ok [] ?_
    refine Eq.trans ?_ (s.served_changed 0x39 tag .idle .cleared [])
    exact if_neg (not_or_intro (not_not_intro hstopped) (Bool.eq_false_iff.mp hstop))
  · intro s tag htakes hfault cleared
    have hcleared (u : State) (hu : u.flow.station = .fault) :
        cleared u = u.changeStation .idle .cleared := by
      rw [State.changeStation, hu]
      rfl
    refine ⟨fun hnone => ?_, ?_⟩
    · rw [hcleared s hfault]
      refine State.request_answered s _ .clearFault tag [] htakes rfl .ok [0] ?_
      refine Eq.trans ?_ (s.served_changed 0x3A tag .idle .cleared [0])
      exact State.serveClearFault_none hfault
        (Flow.findCtx_eq_none s.flow _ fun c => by simpa [State.ctx] using hnone c)
    · intro c hc hfirst u
      have hu : u = s.jamCleared c := by
        exact (State.freeContext_of_not_draining
          (s := s.modFlow (Flow.count fun k => { k with jamCleared := bump k.jamCleared 1 })) c
          (by rw [State.modFlow_flow]; exact hfault ▸ (by decide))).symm
      rw [hcleared u hfault, hu]
      refine State.request_answered s _ .clearFault tag [] htakes rfl .ok [1] ?_
      refine Eq.trans ?_ ((s.jamCleared c).served_changed 0x3A tag .idle .cleared [1])
      rw [← State.served_jamCleared]
      exact State.serveClearFault_some hfault (Flow.findCtx_eq_some s.flow _ c (by simpa [State.ctx] using hc)
        fun d hd => by simpa [State.ctx] using hfirst d hd)

/-! ### QUEUE_PANEL and CANCEL_QUEUE (R26, R27) -/

section Descriptor

variable {b : List Byte}

/-- The region a descriptor gives, when its presence bit says so (R183, R187). -/
def Descriptor.regionOf (b : List Byte) : Option Region :=
  if u8 b 0 % 2 = 1 then some ⟨u32 b 18, u32 b 22, u32 b 26, u32 b 30⟩ else none

theorem Region.inRange_iff (r : Region) : r.inRange = true ↔
    r.u0 ≤ 1000000 ∧ r.v0 ≤ 1000000 ∧ r.u1 ≤ 1000000 ∧ r.v1 ≤ 1000000 := by
  simp [Region.inRange, within, and_assoc]

theorem Descriptor.regionOf_inRange : (Descriptor.regionOf b).all Region.inRange = true ↔
    (u8 b 0 % 2 = 1 → ∀ i, i < 4 → u32 b (18 + 4 * i) ≤ 1000000) := by
  unfold Descriptor.regionOf
  split
  · rename_i hreg
    rw [Option.all_some, Region.inRange_iff]
    constructor
    · rintro ⟨h0, h1, h2, h3⟩ _ i hi
      match i, hi with
      | 0, _ => exact h0
      | 1, _ => exact h1
      | 2, _ => exact h2
      | 3, _ => exact h3
    · intro h
      exact ⟨h hreg 0 (by omega), h hreg 1 (by omega), h hreg 2 (by omega), h hreg 3 (by omega)⟩
  · rename_i hreg
    exact iff_of_true rfl fun h => absurd h hreg

theorem Descriptor.ofBytes_none (h : 3 < u8 b 1 ∨ 3 < u8 b 0 ∨
    u8 b 0 % 2 = 1 ∧ ∃ i, i < 4 ∧ 1000000 < u32 b (18 + 4 * i)) : Descriptor.ofBytes b = none := by
  dsimp only [Descriptor.ofBytes]
  split
  · rfl
  · rename_i k hk
    split
    · rename_i hle
      refine if_neg fun hin => ?_
      rcases h with hslot | hpresence | ⟨hreg, i, hi, hbig⟩
      · rw [quadIndex_lt hslot] at hk
        cases hk
      · exact absurd hle (Nat.not_le.mpr hpresence)
      · exact absurd (Descriptor.regionOf_inRange.mp hin hreg i hi) (Nat.not_le.mpr hbig)
    · rfl

theorem Descriptor.ofBytes_some {k : SlotId} (hk : u8 b 1 = k.val) (hpresence : u8 b 0 ≤ 3)
    (hreg : u8 b 0 % 2 = 1 → ∀ i, i < 4 → u32 b (18 + 4 * i) ≤ 1000000) :
    Descriptor.ofBytes b = some
      { slot := k, tag := (b.drop 2).take 16, region := Descriptor.regionOf b
        exclusions := if 2 ≤ u8 b 0 then some (BitVec.ofNat 32 (u32 b 34)) else none } := by
  rw [Descriptor.ofBytes, hk, quadIndex_val]
  exact (if_pos hpresence).trans (if_pos (Descriptor.regionOf_inRange.mpr hreg))

end Descriptor

section Queue

variable {s : State}

/-- A descriptor at the tail of the entry queue with its slot pinned (R26). -/
def State.queued (s : State) (d : Descriptor) : State :=
  ((s.modFlow (fun w => { w with queue := w.queue ++ [d] })).pin d.slot).driveEntry

/-- The checks of a descriptor that is in range, and its place at the tail of the queue (R26). -/
def State.queueChecked (s : State) (d : Descriptor) : State :=
  if Config.entryQueueSize ≤ s.flow.queue.length then s.refuse .queueFull
  else if (s.slots.get d.slot).state ≠ .valid then s.refuse .slotEmpty
  else if (s.slots.get d.slot).pitch ≠ s.flow.pitch then s.refuse .pitchMismatch
  else if d.region.any Region.inverted then s.refuse .badArg
  else (s.queued d).reply .ok [byteOf (s.flow.queue ++ [d]).length]

theorem State.serveQueuePanel_some {b : List Byte} {d : Descriptor} (hon : s.flow.station ≠ .offline)
    (hd : Descriptor.ofBytes b = some d) : s.serveQueuePanel b = s.queueChecked d := by
  rw [State.serveQueuePanel, if_neg (State.not_offline hon), hd]
  rfl

theorem State.serveQueuePanel_none {b : List Byte} (hon : s.flow.station ≠ .offline)
    (hd : Descriptor.ofBytes b = none) : s.serveQueuePanel b = s.refuse .badArg := by
  rw [State.serveQueuePanel, if_neg (State.not_offline hon), hd]

theorem Slot.pitch_of {k : Slot} {h : Header} (hh : k.header = some h) : k.pitch = h.pitch := by
  simp only [Slot.pitch, hh]

theorem Region.inverted_iff (r : Region) : r.inverted = true ↔ r.u1 < r.u0 ∨ r.v1 < r.v0 := by
  simp [Region.inverted]

theorem Region.any_inverted {o : Option Region} : o.any Region.inverted = true ↔
    ∃ r, o = some r ∧ (r.u1 < r.u0 ∨ r.v1 < r.v0) := by
  simp [Option.any_eq_true, Region.inverted_iff]

end Queue

/-- Settles O34: the descriptor's fields and checks, and the queue emptied. -/
theorem panelIsQueuedOrCancelled : Obligations.PanelIsQueuedOrCancelled := by
  refine ⟨?_, ?_⟩
  · intro s tag b htakes hlen hon ask refused corner regional outOfRange
    have hfits : ReqKind.queuePanel.bodyFits b.length = true := by
      rw [hlen]
      rfl
    have answered {t : State} {st : Status} {r : List Byte}
        (hserve : (s.served ReqKind.queuePanel.byte tag).serveQueuePanel b
          = (t.served ReqKind.queuePanel.byte tag).reply st r) :
        ask = .next (t.answered .queuePanel tag st r) :=
      State.request_answered s t .queuePanel tag b htakes hfits st r hserve
    refine ⟨fun hout => ?_, ?_⟩
    · exact answered (State.serveQueuePanel_none (s := s.served ReqKind.queuePanel.byte tag) hon
        (Descriptor.ofBytes_none hout))
    · intro k hk hin d
      have hd : Descriptor.ofBytes b = some d :=
        Descriptor.ofBytes_some hk (Nat.not_lt.mp fun h => hin (.inr (.inl h)))
          fun hreg i hi => Nat.not_lt.mp fun h => hin (.inr (.inr ⟨hreg, i, hi, h⟩))
      have checked {t : State} {st : Status} {r : List Byte}
          (hcheck : (s.served ReqKind.queuePanel.byte tag).queueChecked d
            = (t.served ReqKind.queuePanel.byte tag).reply st r) :
          ask = .next (t.answered .queuePanel tag st r) :=
        answered ((State.serveQueuePanel_some (s := s.served ReqKind.queuePanel.byte tag) hon hd).trans hcheck)
      refine ⟨fun hfull => checked (if_pos hfull), fun hroom => ?_⟩
      have hroom' : ¬ Config.entryQueueSize ≤ s.flow.queue.length := Nat.not_le.mpr hroom
      refine ⟨fun hstate => checked ((if_neg hroom').trans (if_pos hstate)), ?_⟩
      intro h hvalid hh
      have hpitch : (s.slots.get d.slot).pitch = h.pitch := Slot.pitch_of hh
      have hvalid' := not_not_intro hvalid
      refine ⟨fun hne => ?_, fun heq hinv => ?_, fun heq hok => ?_⟩
      · exact checked ((if_neg hroom').trans ((if_neg hvalid').trans
          (if_pos fun e => hne (hpitch.symm.trans e))))
      · exact checked ((if_neg hroom').trans ((if_neg hvalid').trans
          ((if_neg (not_not_intro (hpitch.trans heq))).trans (if_pos (Region.any_inverted.mpr hinv)))))
      · obtain ⟨e, hentry, hterms⟩ :=
          State.exists_entry ((s.modFlow (fun w => { w with queue := w.queue ++ [d] })).pin d.slot)
        have hok' : ¬ d.region.any Region.inverted = true := fun hinv => by
          obtain ⟨r, hr, hbad⟩ := Region.any_inverted.mp hinv
          have := hok r hr
          omega
        refine ⟨e, checked ((if_neg hroom').trans ((if_neg hvalid').trans
          ((if_neg (not_not_intro (hpitch.trans heq))).trans ((if_neg hok').trans ?_)))), hterms⟩
        show ((s.queued d).served ReqKind.queuePanel.byte tag).reply .ok
          [byteOf (s.flow.queue ++ [d]).length] = _
        rw [State.queued, hentry, List.length_append]
        rfl
  · intro s tag htakes hon
    obtain ⟨q, hfold, hq⟩ := State.foldl_unpin s s.flow.queue
    obtain ⟨e, hentry, hterms⟩ := State.exists_entry { s with flow := { s.flow with queue := [] }, slots := q }
    refine ⟨e, q, ?_, hterms, hq⟩
    refine State.request_answered s _ .cancelQueue tag [] htakes rfl .ok _ ?_
    refine (if_neg (State.not_offline (s := s.served ReqKind.cancelQueue.byte tag) hon)).trans ?_
    rw [show (s.served ReqKind.cancelQueue.byte tag).flow = s.flow from rfl,
      State.foldl_served ReqKind.cancelQueue.byte tag _ (fun _ _ => rfl), hfold, ← hentry]
    rfl

/-! ### CONFIGURE_STATION (R20, R21, R22, R64) -/

section Configure

variable {s : State} {b : List Byte}

theorem State.configureBarred_iff {pitch : Nat} : s.configureBarred pitch = true ↔
    (s.flow.station = .running ∨ s.flow.station = .draining ∨ s.flow.station = .stopped
      ∨ s.flow.station = .fault
      ∨ s.flow.station = .idle ∧ ((∃ c, (s.ctx c).state ≠ .free)
          ∨ (s.flow.queue ≠ [] ∧ pitch ≠ s.flow.pitch))) := by
  have hfree : (∃ c, (s.ctx c).state ≠ .free) ↔ ¬ s.flow.bothFree = true := by
    rw [Flow.bothFree_iff, not_forall]
    rfl
  rw [State.configureBarred, hfree]
  cases s.flow.station <;> simp

/-- The configuration that a record gives, with as many ranges as it gives heads (R20, R187). -/
def StationConfig.recorded (b : List Byte) : StationConfig :=
  { pitch := u8 b 0, heads := u8 b 1
    ranges := (List.range (u8 b 1)).map (fun p => ⟨u16 b (2 + 4 * p), u16 b (4 + 4 * p)⟩)
    originX := u32 b 18, originY := u32 b 22, locateTimeout := u16 b 26
    tileTimeout := u16 b 28, exitTimeout := u32 b 30
    deviating := b.getD 34 0 ++ b.getD 35 0, ovenHold := u8 b 36
    defaultSlot := if h : u8 b 37 < 4 then some ⟨u8 b 37, h⟩ else none }

theorem ofNat_u16 (i : Nat) : BitVec.ofNat 16 (u16 b i) = b.getD i 0 ++ b.getD (i + 1) 0 := by
  apply BitVec.eq_of_toNat_eq
  rw [BitVec.toNat_ofNat, Nat.mod_eq_of_lt (u16_lt b i), BitVec.toNat_append, u16,
    ← Nat.shiftLeft_add_eq_or_of_lt (b.getD (i + 1) 0).isLt, Nat.shiftLeft_eq]
  rfl

theorem StationConfig.ofBytes_recorded (hheads : u8 b 1 ≤ 4) :
    StationConfig.ofBytes b = if (StationConfig.recorded b).ok
        && (decide (u8 b 37 < 4) || u8 b 37 == 255) then some (StationConfig.recorded b) else none := by
  have hranges : ((List.range 4).map (OwnedRange.ofBytes b)).take (u8 b 1)
      = (StationConfig.recorded b).ranges := by
    rw [← List.map_take, List.take_range, Nat.min_eq_left hheads]
    rfl
  dsimp only [StationConfig.ofBytes]
  rw [hranges, ofNat_u16]
  rfl

/-- The fields of a configuration record lie in their ranges (R20). -/
def StationConfig.InRange (b : List Byte) : Prop :=
  let f := StationConfig.recorded b
  (f.pitch = 10 ∨ f.pitch = 12 ∨ f.pitch = 15 ∨ f.pitch = 20) ∧ (1 ≤ f.heads ∧ f.heads ≤ 4) ∧
    (∀ p, p < f.heads → u16 b (2 + 4 * p) % 64 = 0 ∧ u16 b (4 + 4 * p) % 64 = 0 ∧
      u16 b (2 + 4 * p) < u16 b (4 + 4 * p) ∧ u16 b (4 + 4 * p) ≤ 16384) ∧
    (∀ p, p + 1 < f.heads → u16 b (4 + 4 * p) ≤ u16 b (2 + 4 * (p + 1))) ∧
    f.originX ≤ 327680 ∧ f.originY ≤ 327680 ∧ (5 ≤ f.locateTimeout ∧ f.locateTimeout ≤ 500) ∧
    (10 ≤ f.tileTimeout ∧ f.tileTimeout ≤ 1000) ∧
    (2000 ≤ f.exitTimeout ∧ f.exitTimeout ≤ 120000) ∧ (u8 b 37 < 4 ∨ u8 b 37 = 255)

theorem StationConfig.ok_recorded : ((StationConfig.recorded b).ok
    && (decide (u8 b 37 < 4) || u8 b 37 == 255)) = true ↔ StationConfig.InRange b := by
  have hranges := rangesOk_iff (fun p => u16 b (2 + 4 * p)) (fun p => u16 b (4 + 4 * p)) (u8 b 1) 0
  rw [← List.range_eq_range'] at hranges
  have hhold : u8 b 36 ≤ 255 := Nat.lt_succ_iff.mp (u8_lt b 36)
  simp [StationConfig.ok, StationConfig.InRange, StationConfig.recorded, pitchOk, within, hranges, hhold,
    and_assoc, or_assoc]

theorem StationConfig.ofBytes_of_inRange (h : StationConfig.InRange b) :
    StationConfig.ofBytes b = some (StationConfig.recorded b) := by
  obtain ⟨_, ⟨_, hheads⟩, _⟩ := id h
  exact (StationConfig.ofBytes_recorded hheads).trans (if_pos (StationConfig.ok_recorded.mpr h))

theorem StationConfig.ofBytes_of_not_inRange (h : ¬ StationConfig.InRange b) :
    StationConfig.ofBytes b = none := by
  by_cases hheads : u8 b 1 ≤ 4
  · exact (StationConfig.ofBytes_recorded hheads).trans
      (if_neg fun hok => h (StationConfig.ok_recorded.mp hok))
  · dsimp only [StationConfig.ofBytes]
    refine if_neg fun hok => hheads ?_
    simp [StationConfig.ok, within] at hok
    omega

theorem Port.configure_eq {p : Prop} [Decidable p] (expiry : Nat) (x : Port) :
    x.configure (decide p) expiry = if p then
        { x with link := .unknown, queryTimer := some expiry, lane := x.lane ++ [.headQuery] }
      else { x with link := .unconfigured, queryTimer := none, scan := .idle, record := none } := by
  unfold Port.configure
  split <;> simp_all
  rfl

/-- A configuration in force in the flow controller and the ports (R21, R64). -/
def State.withConfig (s : State) (c : StationConfig) : State :=
  (s.modFlow (fun w => { w with config := some c })).modPorts (fun q => q.mapIdx (fun p x =>
    x.configure (decide (p.val < c.heads)) (s.now + c.locateTimeout)))

theorem State.configure_eq (s : State) (c : StationConfig) : s.configure c =
    if s.flow.station = .offline then (s.withConfig c).changeStation .idle .configured
    else s.withConfig c := rfl

theorem State.driveEntry_of_idle (h : s.flow.station = .idle) :
    s.driveEntry = { s with flow := { s.flow with entryEnable := false } } := by
  have hlow : s.entryCondition = false := by
    rw [State.entryCondition, h]
    rfl
  rw [State.driveEntry, hlow]
  rfl

theorem State.served_configure (k tag : Byte) (c : StationConfig) :
    (s.served k tag).configure c = (s.configure c).served k tag := by
  rw [State.configure_eq, State.configure_eq, show (s.served k tag).flow = s.flow from rfl]
  split
  · exact State.served_changeStation (s.withConfig c) k tag .idle .configured
  · rfl

end Configure

/-- Settles O32: the refusals, the record's fields, and the configuration taken into force. -/
theorem stationIsConfigured : Obligations.StationIsConfigured := by
  intro s tag record htakes hlen ask barred start stop f inRange
  have hfits : ReqKind.configureStation.bodyFits record.length = true := by
    rw [hlen]
    rfl
  have answered {t : State} {st : Status} {r : List Byte}
      (hserve : (s.served ReqKind.configureStation.byte tag).serveConfigure record
        = (t.served ReqKind.configureStation.byte tag).reply st r) :
      ask = .next (t.answered .configureStation tag st r) :=
    State.request_answered s t .configureStation tag record htakes hfits st r hserve
  have hbarred : s.configureBarred (u8 record 0) = true ↔ barred := State.configureBarred_iff
  have notBarred (hfree : ¬ barred) : ¬ s.configureBarred (u8 record 0) = true := fun h => hfree (hbarred.mp h)
  refine ⟨fun hbar => answered (if_pos (hbarred.mpr hbar)), fun hfree hout => answered ?_, ?_⟩
  · refine (if_neg (notBarred hfree)).trans ?_
    rw [StationConfig.ofBytes_of_not_inRange hout]
    rfl
  · intro hfree hin t
    refine answered ((if_neg (notBarred hfree)).trans ?_)
    rw [StationConfig.ofBytes_of_inRange hin]
    have hstation : s.flow.station = .offline ∨ s.flow.station = .idle := by
      cases hs : s.flow.station <;> simp [barred, hs] at hfree ⊢
    have hports : t.ports = (s.withConfig f).ports :=
      congrArg s.ports.mapIdx (funext fun p => funext fun x =>
        (Port.configure_eq (p := p.val < f.heads) (s.now + f.locateTimeout) x).symm)
    have ht : (s.configure f).driveEntry = t := by
      show _ = { s with
        flow := { s.flow with config := some f, station := .idle, entryEnable := false }
        ports := t.ports
        link := t.link }
      rw [hports, State.configure_eq]
      rcases hstation with hoff | hidle
      · have hlink : t.link = s.link.raise (.stationState .idle s.flow.station .configured) :=
          (if_pos hoff).trans (by rw [hoff])
        rw [if_pos hoff, State.driveEntry_of_idle rfl, hlink]
        rfl
      · have hon : s.flow.station ≠ .offline := by
          rw [hidle]
          decide
        have hlink : t.link = s.link := if_neg hon
        rw [if_neg hon, State.driveEntry_of_idle (s := s.withConfig f) hidle, hlink, ← hidle]
        rfl
    rw [← ht, ← State.served_driveEntry, ← State.served_configure]
    rfl

end Sys2Proof.Machine
end

section
/-! Proofs. The events of the flow controller: arrival, shift, release, removal, the lines they drive, and
the entry to STOPPED and FAULT (R24, R25, R29, R30, R33 to R37, R40). -/

namespace Sys2Proof.Machine

open Sys2Proof

/-! ### Arrival (R30, R150) -/

section Arrival

variable {s : State}

theorem State.defaultUsable_eq_some {f : StationConfig} {k : SlotId} {h : Header}
    (hconfig : s.flow.config = some f) (hdefault : f.defaultSlot = some k)
    (hheader : (s.slots.get k).header = some h) (hvalid : (s.slots.get k).state = .valid)
    (hpitch : h.pitch = f.pitch) : s.defaultUsable = some k := by
  simp only [State.defaultUsable, hconfig, hdefault, hheader]
  exact if_pos ⟨hvalid, hpitch⟩

/-- What an arriving panel takes while the entry condition holds (R30, step 2). -/
theorem State.arrivingAs_eq_some {d : Descriptor} (hterms : s.EntryTerms)
    (hd : s.flow.queue.head? = some d ∨ s.flow.queue = [] ∧ ∃ f, s.flow.config = some f
      ∧ f.defaultSlot = some d.slot ∧ d.tag = List.replicate 16 0 ∧ d.region = none
      ∧ d.exclusions = none) : s.arrivingAs = some d := by
  rcases hd with hhead | ⟨hempty, f, hconfig, hdefault, htag, hregion, hexcluded⟩
  · obtain ⟨ds, hqueue⟩ := List.head?_eq_some_iff.mp hhead
    simp only [State.arrivingAs, hqueue]
  · obtain ⟨f', k, h, hconfig', hdefault', hheader, hvalid, hpitch⟩ :=
      hterms.panel.resolve_left (not_not_intro hempty)
    obtain rfl : f = f' := Option.some.inj (hconfig.symm.trans hconfig')
    obtain rfl : d.slot = k := Option.some.inj (hdefault.symm.trans hdefault')
    simp only [State.arrivingAs, hempty,
      State.defaultUsable_eq_some hconfig hdefault hheader hvalid hpitch, Option.map_some]
    rw [← htag, ← hregion, ← hexcluded]

theorem Slot.taktLimit_of {k : Slot} {h : Header} (hh : k.header = some h) : k.taktLimit = h.taktLimit := by
  simp only [Slot.taktLimit, hh]

/-- The state in which an arrival hands its context to the alignment unit (R30). -/
theorem State.arrive_eq (c : CtxId) (d : Descriptor) :
    s.arrive c d = ({ s with
      flow := { s.flow with
        queue := s.flow.queue.tail, seq := (s.flow.seq + 1) % 256
        ctxs := s.flow.ctxs.set c (Context.arrived d ((s.flow.seq + 1) % 256) (s.slots.get d.slot).joints
          (s.slots.get d.slot).taktLimit s.now s.processFlag)
        counters := { s.flow.counters with arrivals := bump s.flow.counters.arrivals 1 } }
      slots := if s.flow.queue = [] then
          s.slots.set d.slot { s.slots.get d.slot with pins := (s.slots.get d.slot).pins + 1 }
        else s.slots
      monitor := { s.monitor with
        hold := if s.flow.deviating s.monitor.recognized then s.monitor.hold else s.monitor.hold - 1 }
      log := { s.log with overflow := s.log.overflow.set c false }
      decision := { s.decision with records := s.decision.records.set c .waiting } } : State).beginAlignment
        c := by
  refine congrArg (fun u : State => u.beginAlignment c) ?_
  have hslots : (if s.flow.queue.isEmpty then s.pin d.slot else s : State) = { s with
      slots := if s.flow.queue = [] then
          s.slots.set d.slot { s.slots.get d.slot with pins := (s.slots.get d.slot).pins + 1 }
        else s.slots } := by
    cases s.flow.queue <;> rfl
  have hhold (u : State) : u.countDownHold = { u with monitor := { u.monitor with
      hold := if u.flow.deviating u.monitor.recognized then u.monitor.hold else u.monitor.hold - 1 } } := by
    unfold State.countDownHold
    split <;> rfl
  dsimp only
  rw [hslots, hhold, ← List.drop_one]
  rfl

theorem execMeasureOccRise_arrival {c : CtxId} {d : Descriptor}
    (hcond : (s.modPins (fun p => { p with measureOcc := true })).entryCondition = true)
    (hfree : s.flow.freeCtx = some c) (hd : s.arrivingAs = some d) :
    exec .measureOccRise s
      = .next (((s.modPins (fun p => { p with measureOcc := true })).arrive c d).driveLines).pump := by
  have hfree' : (s.modPins (fun p => { p with measureOcc := true })).flow.freeCtx = some c := hfree
  have hd' : (s.modPins (fun p => { p with measureOcc := true })).arrivingAs = some d := hd
  show execMeasureOccRise s = _
  dsimp only [execMeasureOccRise]
  rw [hcond, hfree', hd']

theorem execMeasureOccRise_unexpected
    (hcond : (s.modPins (fun p => { p with measureOcc := true })).entryCondition = false) :
    exec .measureOccRise s = .next ((((s.modPins (fun p => { p with measureOcc := true })).modFlow
      (fun w => { w.count (fun k => { k with unexpectedBoard := bump k.unexpectedBoard 1 }) with
        untrackedMeasure := true })).driveLines).pump) := by
  show execMeasureOccRise s = _
  dsimp only [execMeasureOccRise]
  rw [hcond]

end Arrival

/-- Settles O36: the arrival of a board while the entry condition holds, and of any other board. -/
theorem boardArrives : Obligations.BoardArrives := by
  have sees (s : State) : s.EntryTerms ↔
      (s.modPins (fun p => { p with measureOcc := true })).entryCondition = true :=
    s.entryCondition_iff.symm
  refine ⟨?_, ?_⟩
  · intro s c d h hterms hfree hfirst hd hh k deviating x t
    have hfree' : s.flow.freeCtx = some c := Flow.freeCtx_eq_some s.flow c hfree hfirst
    refine (execMeasureOccRise_arrival ((sees s).mp hterms) hfree' (State.arrivingAs_eq_some hterms hd)).trans ?_
    rw [State.arrive_eq, Slot.taktLimit_of (k := (s.modPins _).slots.get d.slot) hh]
    rfl
  · intro s hterms t
    exact execMeasureOccRise_unexpected (Bool.eq_false_iff.mpr fun h => hterms ((sees s).mpr h))

/-! ### Removal, shift and release (R33, R34, R35, R40) -/

section Removal

variable {s : State} {c : CtxId}

/-- A context whose board is taken as removed, and the count of removals (R40). -/
def State.flagRemoved (s : State) (c : CtxId) : State :=
  (s.modCtx c (fun x => { x with removed := true })).modFlow
    (Flow.count (fun k => { k with removed := bump k.removed 1 }))

theorem State.removeBoard_of_measuring
    (h : (s.ctx c).state = .aligning ∨ (s.ctx c).state = .arming ∨ (s.ctx c).state = .scanning) :
    s.removeBoard c = (s.flagRemoved c).abortContext c :=
  if_pos ((s.ctx c).measuring_iff.mpr h)

theorem State.removeBoard_of_decided (h : (s.ctx c).state = .decided) :
    s.removeBoard c = (s.flagRemoved c).freeContext c := by
  refine (if_neg ?_).trans (if_pos h)
  rw [Context.measuring_iff, h]
  decide

theorem State.removeBoard_of_other
    (h : (s.ctx c).state = .judging ∨ (s.ctx c).state = .releasing ∨ (s.ctx c).state = .free) :
    s.removeBoard c = s.flagRemoved c := by
  refine (if_neg ?_).trans (if_neg ?_)
  · rw [Context.measuring_iff]
    rcases h with h | h | h <;> (rw [h]; decide)
  · rcases h with h | h | h <;> (rw [h]; decide)

end Removal

/-- The context at MEASURE that a fall of MEASURE_OCC concerns (R34, R40). -/
def Context.atMeasure (x : Context) : Bool := x.position == .measure && !x.inTransit && !x.removed

theorem Context.atMeasure_iff (x : Context) : x.atMeasure = true ↔
    x.position = .measure ∧ x.inTransit = false ∧ x.removed = false := by
  simp [Context.atMeasure, and_assoc]

/-- The context on its way to the exit buffer (R34). -/
def Context.travels (x : Context) : Bool := x.inTransit && x.state != .free

theorem Context.travels_iff (x : Context) : x.travels = true ↔ x.inTransit = true ∧ x.state ≠ .free := by
  simp [Context.travels]

theorem execMeasureOccFall_eq (s t : State) (ht : t = (s.modPins (fun p => { p with measureOcc := false })).modFlow
      (fun w => { w with untrackedMeasure := false })) :
    exec .measureOccFall s = .next (match t.flow.findCtx Context.atMeasure with
      | some c => if t.flow.shift then t.modCtx c (fun x => { x with inTransit := true }) else t.removeBoard c
      | none => t : State).driveLines.pump := by
  subst ht
  rfl

theorem execExitOccRise_eq (s : State) :
    exec .exitOccRise s = .next (match s.flow.findCtx Context.travels with
      | some c => (s.modPins (fun p => { p with exitOcc := true })).modCtx c (fun x =>
          { x with position := .exit, inTransit := false })
      | none => (s.modPins (fun p => { p with exitOcc := true })).modFlow (fun w => { w.count (fun k =>
        { k with unexpectedExit := bump k.unexpectedExit 1 }) with untrackedExit := true }) : State).driveLines.pump :=
  rfl

/-- Settles O37: the start of a shift, its end, removals and unexpected boards. -/
theorem boardShifts : Obligations.BoardShifts := by
  refine ⟨?_, ?_⟩
  · intro s t there fall
    have hfall := execMeasureOccFall_eq s t rfl
    have hthere (c : CtxId) : there c ↔ (t.flow.ctxs.get c).atMeasure = true :=
      (Context.atMeasure_iff (s.ctx c)).symm
    refine ⟨fun hnone => ?_, ?_⟩
    · rw [Flow.findCtx_eq_none t.flow _ fun c => (hthere c).not.mp (hnone c)] at hfall
      exact hfall
    · intro c hc hfirst
      rw [Flow.findCtx_eq_some t.flow _ c ((hthere c).mp hc) fun b hb => (hthere b).not.mp (hfirst b hb)]
        at hfall
      refine ⟨fun hshift => hfall.trans (congrArg (fun u : State => (.next u.driveLines.pump : Result))
        (if_pos (c := t.flow.shift = true) hshift)), ?_⟩
      intro hshift u
      have hremoved : fall = .next (t.removeBoard c).driveLines.pump :=
        hfall.trans
          (congrArg (fun u : State => (.next u.driveLines.pump : Result))
          (if_neg (c := t.flow.shift = true) (Bool.eq_false_iff.mp hshift)))
      refine ⟨fun h => ?_, fun h => ?_, fun h => ?_⟩
      · rw [State.removeBoard_of_measuring (s := t) h] at hremoved
        exact hremoved
      · rw [State.removeBoard_of_decided (s := t) h] at hremoved
        exact hremoved
      · rw [State.removeBoard_of_other (s := t) h] at hremoved
        exact hremoved
  · intro s travels
    have htravels (c : CtxId) : travels c ↔ (s.flow.ctxs.get c).travels = true :=
      (Context.travels_iff (s.ctx c)).symm
    have hrise := execExitOccRise_eq s
    refine ⟨fun hnone => ?_, fun c hc hfirst => ?_⟩
    · rw [Flow.findCtx_eq_none s.flow _ fun c => (htravels c).not.mp (hnone c)] at hrise
      exact hrise
    · rw [Flow.findCtx_eq_some s.flow _ c ((htravels c).mp hc) fun b hb =>
        (htravels b).not.mp (hfirst b hb)] at hrise
      exact hrise

/-- The context at EXIT whose board a fall of EXIT_OCC takes away (R40). -/
def Context.atExit (x : Context) : Bool := x.position == .exit && !x.removed

theorem Context.atExit_iff (x : Context) : x.atExit = true ↔ x.position = .exit ∧ x.removed = false := by
  simp [Context.atExit]

theorem execExitOccFall_eq (s t : State) (ht : t = (s.modPins (fun p => { p with exitOcc := false })).modFlow
      (fun w => { w with untrackedExit := false })) :
    exec .exitOccFall s = .next (match t.flow.findCtx (fun x => x.state == .releasing) with
      | some c => t.completeRelease c
      | none =>
        match t.flow.findCtx Context.atExit with
        | some c => t.removeBoard c
        | none => t : State).driveLines.pump := by
  subst ht
  rfl

theorem Flow.findReleasing_none {w : Flow} (h : ∀ c, (w.ctxs.get c).state ≠ .releasing) :
    w.findCtx (fun x => x.state == .releasing) = none :=
  Flow.findCtx_eq_none w _ fun c => by simpa using h c

theorem Flow.findReleasing_some {w : Flow} {c : CtxId} (h : (w.ctxs.get c).state = .releasing)
    (hfirst : ∀ b, b < c → (w.ctxs.get b).state ≠ .releasing) :
    w.findCtx (fun x => x.state == .releasing) = some c :=
  Flow.findCtx_eq_some w _ c (by simpa using h) fun b hb => by simpa using hfirst b hb

/-- Settles O38: the end of a release by its route, and a removal at the exit buffer. -/
theorem boardLeaves : Obligations.BoardLeaves := by
  intro s t there fall
  have hfall := execExitOccFall_eq s t rfl
  have hthere (c : CtxId) : there c ↔ (t.flow.ctxs.get c).atExit = true := (Context.atExit_iff (s.ctx c)).symm
  refine ⟨?_, fun hnone hnobody => ?_, ?_⟩
  · intro c hc hfirst n counted
    rw [Flow.findReleasing_some (w := t.flow) hc hfirst] at hfall
    have hcounted : counted = FlowCounters.released (s.decision.records.get c).route n := by
      cases hroute : (s.decision.records.get c).route <;>
        simp only [counted, FlowCounters.released, hroute]
    rw [hcounted]
    exact hfall
  · rw [Flow.findReleasing_none (w := t.flow) hnone,
      Flow.findCtx_eq_none t.flow _ fun c => (hthere c).not.mp (hnobody c)]
      at hfall
    exact hfall
  · intro c hnone hc hfirst u
    rw [Flow.findReleasing_none (w := t.flow) hnone, Flow.findCtx_eq_some t.flow _ c ((hthere c).mp hc) fun b hb =>
      (hthere b).not.mp (hfirst b hb)] at hfall
    have hremoved : fall = .next (t.removeBoard c).driveLines.pump := hfall
    refine ⟨fun h => ?_, fun h => ?_, fun h => ?_⟩
    · rw [State.removeBoard_of_measuring (s := t) h] at hremoved
      exact hremoved
    · rw [State.removeBoard_of_decided (s := t) h] at hremoved
      exact hremoved
    · rw [State.removeBoard_of_other (s := t) (h.imp id .inr)] at hremoved
      exact hremoved

/-- Settles O39: the context, its pin and its decision record, and the end of a drain. -/
theorem contextIsFreed : Obligations.ContextIsFreed := by
  intro s c t
  have hctx (b : CtxId) : t.flow.ctxs.get b = if b = c then { s.ctx c with
      state := .free, position := .nowhere, taktRunning := false } else s.ctx b := Pair.get_set ..
  have hboth : t.flow.bothFree = true ↔ ∀ b, b ≠ c → (s.ctx b).state = .free := by
    rw [Flow.bothFree_iff]
    refine forall_congr' fun b => ?_
    rw [hctx b]
    by_cases hb : b = c
    · simp [hb]
    · simp [hb]
  refine ⟨fun hdraining hfree => ?_, fun h => ?_⟩
  · refine (if_pos (show t.flow.station = .draining ∧ t.flow.bothFree from ⟨hdraining, hboth.mpr hfree⟩)).trans ?_
    show t.changeStation .idle .drained = _
    rw [State.changeStation, show t.flow.station = .draining from hdraining]
    rfl
  · refine if_neg (show ¬ (t.flow.station = .draining ∧ t.flow.bothFree) from ?_)
    rintro ⟨hdraining, hfree⟩
    rcases h with hnot | ⟨b, hb, hbusy⟩
    · exact hnot hdraining
    · exact hbusy (hboth.mp hfree b hb)

/-! ### The lines (R25, R29, R34, R35, R36) -/

section Lines

variable {s : State}

/-- The release test with a context to release (R35). -/
theorem State.releaseTest_some {c : CtxId} (hmoving : s.flow.moving = true)
    (hready : s.pins.downstreamReady = true) (hfind : s.flow.findCtx Context.wantsRelease = some c) :
    s.releaseTest = { s with flow := { s.flow with
      route := (s.decision.records.get c).route
      ctxs := s.flow.ctxs.set c { s.ctx c with state := .releasing } } } := by
  rw [State.releaseTest, hmoving, hready, hfind]
  rfl

/-- The release test with no context to release (R35). -/
theorem State.releaseTest_none (h : s.flow.moving = false ∨ s.pins.downstreamReady = false
    ∨ s.flow.findCtx Context.wantsRelease = none) : s.releaseTest = s := by
  rcases h with hstill | hbusy | hnone
  · rw [State.releaseTest, hstill]
    rfl
  · rw [State.releaseTest, hbusy, Bool.and_false]
    rfl
  · rw [State.releaseTest, hnone]
    split <;> rfl

/-- What the release test changes: the contexts and ROUTE. -/
theorem State.releaseTest_changes (s : State) : ∃ q r,
    s.releaseTest = { s with flow := { s.flow with ctxs := q, route := r } } := by
  unfold State.releaseTest
  split
  · split
    · exact ⟨_, _, rfl⟩
    · exact ⟨s.flow.ctxs, s.flow.route, rfl⟩
  · exact ⟨s.flow.ctxs, s.flow.route, rfl⟩

theorem State.driveLines_release (s : State) : s.driveLines.flow.release
    = (s.driveLines.flow.moving && (s.driveLines.flow.findCtx (fun x => x.state == .releasing)).isSome) := rfl

/-- The exit timer runs while RELEASE is high, and starts when it is raised (R36). -/
theorem State.driveLines_exitTimer (s : State) : s.driveLines.flow.exitTimer
    = if s.driveLines.flow.release then
        (if s.flow.release then s.flow.exitTimer else some (s.after StationConfig.exitTimeout))
      else none := by
  obtain ⟨q, r, hchanges⟩ := s.releaseTest_changes
  rw [State.driveLines, hchanges]
  rfl

theorem State.driveLines_release_iff (s : State) : s.driveLines.flow.release = true ↔
    (s.flow.station = .running ∨ s.flow.station = .draining) ∧
      ∃ c, (s.driveLines.ctx c).state = .releasing := by
  rw [State.driveLines_release, Bool.and_eq_true, Flow.moving_iff, State.driveLines_station,
    Flow.findCtx_some]
  simp only [beq_iff_eq]
  rfl

end Lines

/-- Settles O40: the release test, and the levels that the lines take. -/
theorem linesAreDriven : Obligations.LinesAreDriven := by
  refine ⟨fun s => rfl, ?_⟩
  intro s t moving wants
  have hmoving : s.flow.moving = true ↔ moving := Flow.moving_iff _
  have hwants (c : CtxId) : wants c ↔ (s.flow.ctxs.get c).wantsRelease = true := (s.wantsRelease_iff c).symm
  refine ⟨?_, ?_, ?_, ?_, s.driveLines_release_iff, ?_, ?_, ?_, ?_, ?_⟩
  · obtain ⟨q, r, hchanges⟩ := s.releaseTest_changes
    show ({ s.driveLines with flow := s.flow } : State) = s
    rw [State.driveLines, hchanges]
    rfl
  · obtain ⟨q, r, hchanges⟩ := s.releaseTest_changes
    show ({ s.driveLines.flow with
      ctxs := s.flow.ctxs, route := s.flow.route, release := s.flow.release
      exitTimer := s.flow.exitTimer, shift := s.flow.shift
      entryEnable := s.flow.entryEnable } : Flow) = s.flow
    rw [State.driveLines, hchanges]
    rfl
  · intro c hmove hready hc hfirst
    have htest := State.releaseTest_some (hmoving.mpr hmove) hready
      (Flow.findCtx_eq_some s.flow _ c ((hwants c).mp hc) fun b hb => (hwants b).not.mp (hfirst b hb))
    have hctxs : t.flow.ctxs = s.releaseTest.flow.ctxs := rfl
    have hroute : t.flow.route = s.releaseTest.flow.route := rfl
    rw [hctxs, hroute, htest]
    refine ⟨rfl, ?_⟩
    show (s.decision.records.get c).route = _
    cases s.decision.records.get c <;> rfl
  · intro h
    have htest : s.releaseTest = s := State.releaseTest_none
      (h.imp (fun hstill => Bool.eq_false_iff.mpr (hmoving.not.mpr hstill))
        (Or.imp_right fun hnone => Flow.findCtx_eq_none s.flow _ fun c => (hwants c).not.mp (hnone c)))
    have hctxs : s.releaseTest.flow.ctxs = s.flow.ctxs := by rw [htest]
    have hroute : s.releaseTest.flow.route = s.flow.route := by rw [htest]
    exact ⟨hctxs, hroute⟩
  · intro hlow
    exact s.driveLines_exitTimer.trans (if_neg (Bool.eq_false_iff.mp hlow))
  · intro hhigh hwas
    exact s.driveLines_exitTimer.trans ((if_pos hhigh).trans (if_pos hwas))
  · intro f hhigh hwas hconfig
    refine s.driveLines_exitTimer.trans ((if_pos hhigh).trans ((if_neg (Bool.eq_false_iff.mp hwas)).trans ?_))
    rw [State.after, hconfig]
  · exact (State.shiftCondition_iff s.releaseTest.driveRelease).trans
      ⟨fun ⟨a, b, c, d, e⟩ => ⟨a, b, c, d, e⟩, fun ⟨a, b, c, d, e⟩ => ⟨a, b, c, d, e⟩⟩
  · exact State.driveEntry_terms s.releaseTest.driveRelease.driveShift

/-! ### STOP and the exit timer (R24, R36, R37) -/

theorem State.abortIfMeasuring_eq (u : State) (c : CtxId) : u.abortIfMeasuring c =
    if (u.ctx c).state = .aligning ∨ (u.ctx c).state = .arming ∨ (u.ctx c).state = .scanning then
      u.abortContext c
    else u :=
  if_congr (u.ctx c).measuring_iff rfl rfl

theorem State.stopQualified_iff (u : State) : u.stopQualified = true ↔
    ∃ since, u.flow.stopLowSince = some since ∧ since + 10 ≤ u.now := by
  unfold State.stopQualified
  cases u.flow.stopLowSince with
  | none => simp
  | some t => simp [show Config.stopLowMin = 10 from rfl]

theorem execStopRise_eq (u : State) : exec .stopRise u =
    if u.stopQualified = true ∧ u.flow.station ≠ .offline ∧ u.flow.station ≠ .stopped then
      .next ((((u.modPins (fun p => { p with stop := true })).modFlow
        (fun w => { w with stopLowSince := none })).enterHeld .stopped .stopInput).driveLines).pump
    else .next ((u.modPins (fun p => { p with stop := true })).modFlow
      (fun w => { w with stopLowSince := none })) :=
  if_congr (by simp [and_assoc]) rfl rfl

theorem execExitTimerExpiry_eq (u : State) : exec .exitTimerExpiry u =
    if u.flow.exitTimer ≠ none ∧ ∃ c, (u.ctx c).state = .releasing then
      .next (((u.modFlow (Flow.count (fun k => { k with exitJams := bump k.exitJams 1 }))).enterHeld
        .fault .exitJam).driveLines).pump
    else .next u :=
  if_congr (by rw [Bool.and_eq_true, Flow.findCtx_some, Option.isSome_iff_ne_none]; simp [State.ctx]) rfl rfl

/-- Settles O41: the low time of STOP, what qualifies its rise, an exit jam, and the held station. -/
theorem stationIsHeld : Obligations.StationIsHeld := by
  refine ⟨fun s => rfl, ?_⟩
  intro s u st cause t aborted held
  have haborted (v : State) (c : CtxId) : aborted v c = v.abortIfMeasuring c := (v.abortIfMeasuring_eq c).symm
  have hheld : held = s.enterHeld st cause := by
    show aborted (aborted t 0) 1 = _
    rw [haborted, haborted]
    rfl
  refine ⟨?_, ?_⟩
  · intro hs hst hcause qualified
    have hq : u.stopQualified = true ↔ qualified := u.stopQualified_iff
    refine ⟨fun h hon hrun => ?_, fun h => ?_⟩
    · rw [hheld, hst, hcause, hs]
      exact (execStopRise_eq u).trans (if_pos ⟨hq.mpr h, hon, hrun⟩)
    · rw [hs]
      refine (execStopRise_eq u).trans (if_neg ?_)
      rintro ⟨hyes, hon, hrun⟩
      exact h.elim (fun hno => hno (hq.mp hyes)) (Or.rec hon hrun)
  · intro hs hst hcause
    refine ⟨fun htimer hreleasing => ?_, fun h => ?_⟩
    · rw [hheld, hst, hcause, hs]
      exact (execExitTimerExpiry_eq u).trans (if_pos ⟨htimer, hreleasing⟩)
    · refine (execExitTimerExpiry_eq u).trans (if_neg ?_)
      rintro ⟨htimer, c, hc⟩
      exact h.elim htimer fun hnone => hnone c hc

end Sys2Proof.Machine
end

section
/-! Proofs. Decisions: how a decision is made and handed on (R131 to R136), and what a late or aborted one
gives up (R60, R79, R93, R101, R108, R127, R129, R130). -/

namespace Sys2Proof.Machine

open Sys2Proof

/-! ### A decision handed on (R131 to R136, R41) -/

section Decision

variable {s : State} {c : CtxId}

theorem State.headerOf_of {h : Header} (f : Header → Nat)
    (hh : (s.slots.get (s.ctx c).slot).header = some h) : s.headerOf c f = f h := by
  rw [State.headerOf, State.slotOf, hh]

theorem State.logRecord_summary_flow (x : Summary) : (s.logRecord c (.summary x)).flow = s.flow := by
  dsimp only [State.logRecord]
  split
  · dsimp only [State.dropRecord]
    split <;> rfl
  · split <;> rfl

/-- The counters of a decision unit after a decision (R136). -/
theorem DecisionUnit.count_eq (d : Decision) (u : DecisionUnit) : DecisionUnit.count d u = { u with
    normal := if d.kind = .normal then bump u.normal 1 else u.normal
    late := if d.kind = .late then bump u.late 1 else u.late
    aborted := if d.kind = .aborted then bump u.aborted 1 else u.aborted
    pass := if d.route = .pass then bump u.pass 1 else u.pass
    rework := if d.route = .rework then bump u.rework 1 else u.rework
    review := if d.route = .review then bump u.review 1 else u.review } := by
  unfold DecisionUnit.count
  cases d.kind with
  | normal => cases d.route <;> rfl
  | late => cases d.route <;> rfl
  | aborted => cases d.route <;> rfl

/-- The route by its causes (R131). -/
theorem chooseRoute_eq (kind : DecisionKind) (k : RouteCauses) : chooseRoute kind k =
    if kind = .aborted then .review
    else if k.defects = true then .rework
    else if k.late = true ∨ k.alignFault = true ∨ k.process = true ∨ k.unmeasuredOver = true then .review
    else .pass := by
  simp only [chooseRoute, Bool.or_eq_true, or_assoc]

/-- A decision on its way to the flow controller: its record, its summary, its notice, its repeat request
and its counters (R131 to R136). -/
def State.announced (s : State) (c : CtxId) (d : Decision) : State :=
  let s1 := s.setDecision c (.decided d)
  let sum := (s.ctx c).summary d
  let s2 := (s1.logRecord c (.summary sum)).raise (.panelDecided sum)
  (s2.modMonitor (Monitor.request (s.repeatRequest c))).modDecision (DecisionUnit.count d)

theorem State.announced_flow (d : Decision) : (s.announced c d).flow = s.flow :=
  State.logRecord_summary_flow (s := s.setDecision c (.decided d)) _

theorem State.makeDecision_eq (kind : DecisionKind) (time : Nat) :
    s.makeDecision c kind time = (s.announced c (s.decisionOf c kind time)).contextDecided c := rfl

end Decision

/-- Settles O43: the route causes and the route, and the order in which a decision is handed on. -/
theorem decisionIsHandedOn : Obligations.DecisionIsHandedOn := by
  intro s c kind time h hh x n defects tooMany route d sum u v
  have hroute : chooseRoute kind (routeCauses x h.unmeasuredLimit) = route := by
    rw [chooseRoute_eq]
    simp only [routeCauses, decide_eq_true_iff, Option.isSome_iff_ne_none]
    rfl
  have hd : s.decisionOf c kind time = d := by
    dsimp only [State.decisionOf]
    rw [State.headerOf_of Header.unmeasuredLimit hh, hroute]
    rfl
  have hflow : (s.announced c d).flow = s.flow := State.announced_flow d
  have hrequest : s.repeatRequest c = ⟨x.slot, (s.slots.get x.slot).sites.length, h.repeatLimit, x.seq,
      x.failBits, x.passBits⟩ := by
    rw [State.repeatRequest, State.headerOf_of Header.repeatLimit hh]
    rfl
  have hu : u.decision = { s.decision with records := s.decision.records.set c (.decided d) } :=
    State.logRecord_decision _ c _
  have hannounced : s.announced c d = { u with
      monitor := u.monitor.request ⟨x.slot, (s.slots.get x.slot).sites.length, h.repeatLimit, x.seq,
        x.failBits, x.passBits⟩
      decision := DecisionUnit.count d u.decision } := by
    rw [← hrequest]
    rfl
  have hv : (s.announced c d).modCtx c (fun x => { x with state := .decided, taktRunning := false }) = v := by
    dsimp only [v]
    rw [hannounced, DecisionUnit.count_eq, hu]
    rfl
  rw [State.makeDecision_eq, hd, State.contextDecided, hv, State.ctx, hflow]
  exact ⟨fun hremoved => congrArg State.driveLines (if_pos hremoved),
    fun hremoved => congrArg State.driveLines (if_neg (Bool.eq_false_iff.mp hremoved))⟩

/-! ### What a late or aborted decision gives up (R60, R79, R101, R108, R130) -/

section GivenUp

variable (s : State) (c : CtxId)

/-- The alignment unit's part (R60). -/
def Align.abandoned (c : CtxId) (a : Align) : Align :=
  if a.aligning = some c then
    { a with aligning := none, lists := Quad.all [], inFlight := Quad.all none, skipped := [] }
  else a

theorem State.abandonAlignment_eq : s.abandonAlignment c = { s with align := s.align.abandoned c } := by
  unfold State.abandonAlignment Align.abandoned
  split <;> rfl

/-- The ports with the pool of the item in intake freed (R74). -/
def Arbiter.freedPorts (a : Arbiter) (q : Quad Port) : Quad Port :=
  match a.inIntake with
  | some (p, .tile k) => q.set p { q.get p with pools := (q.get p).pools.set k ⟨.free, 0, 0, []⟩ }
  | _ => q

theorem Arbiter.freedPorts_of_tile {a : Arbiter} {p : PortId} {k : Fin 2} (q : Quad Port)
    (h : a.inIntake = some (p, .tile k)) :
    a.freedPorts q = q.set p { q.get p with pools := (q.get p).pools.set k ⟨.free, 0, 0, []⟩ } := by
  rw [Arbiter.freedPorts, h]

theorem Arbiter.freedPorts_of_not_tile {a : Arbiter} (q : Quad Port)
    (h : ∀ p k, a.inIntake ≠ some (p, .tile k)) : a.freedPorts q = q := by
  unfold Arbiter.freedPorts
  split
  · rename_i p k hk
    exact absurd hk (h p k)
  · rfl

theorem State.freeIntakePool_eq : s.freeIntakePool = { s with ports := s.arbiter.freedPorts s.ports } := by
  unfold State.freeIntakePool
  split
  · rename_i p k hk
    rw [Arbiter.freedPorts_of_tile s.ports hk]
    rfl
  · rename_i hk
    rw [Arbiter.freedPorts_of_not_tile s.ports fun p k h => hk p k h]

/-- The accumulators' holders that are the context. -/
theorem holder_any_iff {h : Option (CtxId × Nat)} :
    h.any (fun j => j.1 == c) = true ↔ h.map Prod.fst = some c := by
  cases h with
  | none => simp
  | some j => simp

theorem Course.stopped_eq (k : Course) : k.stopped = if k = .cutOff then .cutOff else .stale := by
  cases k <;> rfl

/-- The accumulators a dropped context leaves (R83, R101, R108). -/
theorem dropAccumulators_eq (pool : List (Nat × Accumulator)) : dropAccumulators c pool =
    (pool.filter (fun a => a.2.holder.map Prod.fst ≠ some c ∨ a.2.state = .evaluating)).map
      (fun a => if a.2.holder.map Prod.fst = some c then (a.1, { a.2 with holder := none }) else a) := by
  have hkeep (a : Nat × Accumulator) :
      (!(a.2.holder.any (fun h => h.1 == c) && a.2.state != .evaluating))
        = decide (a.2.holder.map Prod.fst ≠ some c ∨ a.2.state = .evaluating) := by
    rw [Bool.eq_iff_iff, decide_eq_true_iff, Bool.not_eq_true', Bool.and_eq_false_iff, Ne, ← holder_any_iff,
      Bool.not_eq_true]
    simp
  have hdrop (a : Nat × Accumulator) :
      (if a.2.holder.any (fun h => h.1 == c) then (a.1, { a.2 with holder := none }) else a)
        = if a.2.holder.map Prod.fst = some c then (a.1, { a.2 with holder := none }) else a :=
    if_congr (holder_any_iff c) rfl rfl
  simp only [dropAccumulators, hkeep, hdrop]

/-- The evaluator's queue and current entry without a dropped context (R101, R108). -/
theorem Evaluator.drop_eq (v : Evaluator) : Evaluator.drop c v = { v with
    queue := v.queue.filter (fun e => e.ctx ≠ c)
    entriesRemoved := bump v.entriesRemoved (v.queue.countP (fun e => e.ctx = c))
    current := v.current.map (fun e => if e.entry.ctx = c then { e with discard := true } else e) } := by
  have hne (e : EvalEntry) : (e.ctx != c) = decide (e.ctx ≠ c) := by simp [bne, beq_eq_decide]
  have heq (e : EvalEntry) : (e.ctx == c) = decide (e.ctx = c) := beq_eq_decide _ _
  simp only [Evaluator.drop, hne, heq]

/-- What SCAN_STOP does to a configured port (R79). -/
theorem Port.scanStop_eq (x : Port) : x.scanStop = { x with
    lane := x.lane ++ [.scanStop], scan := .idle, startTimer := none
    tileTimer := none, record := none, intake := []
    pools := x.pools.map (fun k => if k.state = .inIntake then k else ⟨.free, 0, 0, []⟩)
    course := x.course.map (fun k => if k = .cutOff then .cutOff else .stale) } := by
  have hcourse : Course.stopped = fun k => if k = .cutOff then .cutOff else .stale :=
    funext Course.stopped_eq
  rw [Port.scanStop, hcourse]
  rfl

/-- The ports once the scan is stopped, or not (R79). -/
def State.stoppedPorts (stop : Bool) : Quad Port := (if stop then s.scanStop else s).ports

theorem State.stoppedPorts_get (stop : Bool) (p : PortId) : (s.stoppedPorts stop).get p =
    if stop = true ∧ p.val < s.flow.heads then (s.ports.get p).scanStop else s.ports.get p := by
  cases stop with
  | false => rfl
  | true =>
    refine (Quad.get_mapIdx ..).trans ?_
    simp

/-- What a context's abandoned work leaves: the scan stopped or not, the flags raised, the alignment, the
engine's and the evaluator's work given up, and the table filled (R60, R79, R101, R108, R130). -/
def State.giveUp (stop late aborted : Bool) (cause : Cause) : State :=
  ((((if stop then s.scanStop else s).modCtx c (fun x => { x with
    lateFlag := x.lateFlag || late, abortedFlag := x.abortedFlag || aborted })).abandonAlignment
      c).dropContext c).modCtx c (fun x => x.fill cause)

/-- The ports once the item in intake is given up, when the engine scans for the context (R74, R101). -/
def Engine.droppedPorts (e : Engine) (c : CtxId) (a : Arbiter) (q : Quad Port) : Quad Port :=
  if e.serves c = true ∧ e.service = .scanning then a.freedPorts q else q

theorem State.dropContext_eq : s.dropContext c = { s with
    ports := s.engine.droppedPorts c s.arbiter s.ports
    arbiter :=
      if s.engine.serves c = true ∧ s.engine.service = .scanning then { s.arbiter with inIntake := none }
      else s.arbiter
    engine := { (if s.engine.serves c = true then s.engine.toIdle else s.engine) with
      pool := dropAccumulators c s.engine.pool }
    evaluator := s.evaluator.drop c } := by
  by_cases hserves : s.engine.serves c = true
  · by_cases hscan : s.engine.service = .scanning
    · simp only [State.dropContext, Engine.droppedPorts, State.abandonIntake, hserves, hscan,
        s.freeIntakePool_eq, and_self, if_true]
      rfl
    · simp only [State.dropContext, Engine.droppedPorts, hserves, hscan, and_false, if_true, if_false]
      rfl
  · simp only [State.dropContext, Engine.droppedPorts, hserves]
    rfl

/-- The context with its flags raised and its table filled (R127, R129, R130). -/
def Context.givenUp (late aborted : Bool) (cause : Cause) (x : Context) : Context :=
  { x with lateFlag := x.lateFlag || late, abortedFlag := x.abortedFlag || aborted }.fill cause

theorem State.giveUp_eq (stop late aborted : Bool) (cause : Cause) : s.giveUp c stop late aborted cause =
    { s with
      flow := { s.flow with ctxs := s.flow.ctxs.set c ((s.ctx c).givenUp late aborted cause) }
      align := s.align.abandoned c
      ports := s.engine.droppedPorts c s.arbiter (s.stoppedPorts stop)
      arbiter :=
        if s.engine.serves c = true ∧ s.engine.service = .scanning then { s.arbiter with inIntake := none }
        else s.arbiter
      engine := { (if s.engine.serves c = true then s.engine.toIdle else s.engine) with
        pool := dropAccumulators c s.engine.pool }
      evaluator := s.evaluator.drop c } := by
  have hstop : (if stop then s.scanStop else s) = { s with ports := s.stoppedPorts stop } := by
    cases stop <;> rfl
  rw [State.giveUp, hstop, State.abandonAlignment_eq, State.dropContext_eq]
  simp only [State.modCtx, State.modFlow, State.ctx, Pair.set_set, Pair.get_set, if_true]
  rfl

theorem State.lateDecision_eq : s.lateDecision c =
    (s.giveUp c (decide ((s.ctx c).state = .scanning)) true false .late).makeDecision c .late
      (s.ctx c).deadline := by
  have hflag : (fun x : Context => { x with lateFlag := true }) = fun x : Context => { x with
      lateFlag := x.lateFlag || true, abortedFlag := x.abortedFlag || false } := by
    funext x
    simp
  have hstop (u : State) : (if (s.ctx c).state = .scanning then u.scanStop else u)
      = if decide ((s.ctx c).state = .scanning) then u.scanStop else u := by
    simp
  dsimp only [State.lateDecision]
  rw [hflag, hstop, State.giveUp]
  refine congrArg (fun u : State => (u.modCtx c (fun x => x.fill .late)).makeDecision c .late
    (s.ctx c).deadline) (congrArg (fun u : State => u.dropContext c) ?_)
  rw [State.abandonAlignment_eq, State.abandonAlignment_eq]
  cases decide ((s.ctx c).state = .scanning) <;> rfl

theorem State.abortContext_of_open (h : (s.decision.records.get c).isOpen = true) :
    s.abortContext c = (s.giveUp c true false true .aborted).makeDecision c .aborted s.now := by
  have hflag : (fun x : Context => { x with abortedFlag := true }) = fun x : Context => { x with
      lateFlag := x.lateFlag || false, abortedFlag := x.abortedFlag || true } := by
    funext x
    simp
  dsimp only [State.abortContext]
  rw [if_pos h, hflag]
  rfl

theorem DecisionRecord.isOpen_iff (r : DecisionRecord) : r.isOpen = true ↔ r = .waiting ∨ r = .complete := by
  cases r <;> simp [DecisionRecord.isOpen]

end GivenUp

/-- Settles O44: what a late and an aborted decision give up of the context's work. -/
theorem panelIsDecidedEarly : Obligations.PanelIsDecidedEarly := by
  unfold Obligations.PanelIsDecidedEarly
  intro given
  have hgiven (s : State) (c : CtxId) (stop : Bool) (stopped : Prop) (hstop : stop = true ↔ stopped)
      (cause : Cause) (late aborted : Bool) :
      given s (s.giveUp c stop late aborted cause) c stopped cause late aborted := by
    rw [s.giveUp_eq c stop late aborted cause]
    refine ⟨⟨s.stoppedPorts stop, ?_, ?_, ?_, ?_⟩, fun h => if_pos h, fun h => if_neg h, fun h => if_pos h,
      fun h => if_neg h, dropAccumulators_eq c _, fun h => ?_, fun h => ?_, Evaluator.drop_eq c _, ?_⟩
    · intro p hstopped hp
      exact (s.stoppedPorts_get stop p).trans
        ((if_pos ⟨hstop.mpr hstopped, hp⟩).trans (Port.scanStop_eq _))
    · intro p h
      refine (s.stoppedPorts_get stop p).trans (if_neg ?_)
      rintro ⟨hstops, hp⟩
      exact h.elim (fun hgoes => hgoes (hstop.mp hstops)) (Nat.not_le.mpr hp)
    · intro p k hscan hk
      exact (if_pos hscan).trans (Arbiter.freedPorts_of_tile _ hk)
    · rintro (hidle | hnone)
      · exact if_neg hidle
      · by_cases hscan : s.engine.serves c = true ∧ s.engine.service = .scanning
        · exact (if_pos hscan).trans (Arbiter.freedPorts_of_not_tile _ hnone)
        · exact if_neg hscan
    · rw [if_pos h]
      rfl
    · rw [if_neg (Bool.eq_false_iff.mp h)]
    · rfl
  have due (s : State) (c : CtxId) : ((s.ctx c).taktRunning && (s.decision.records.get c).isOpen) = true ↔
      (s.ctx c).taktRunning = true ∧
        (s.decision.records.get c = .waiting ∨ s.decision.records.get c = .complete) := by
    rw [Bool.and_eq_true, DecisionRecord.isOpen_iff]
  refine ⟨fun s c hrunning hrecord => ?_, fun s c h => ?_, fun s c hrecord => ?_,
    fun s c hwaiting hcomplete => ?_⟩
  · refine ⟨_, ?_, hgiven s c (decide ((s.ctx c).state = .scanning)) _ decide_eq_true_iff .late true false⟩
    refine (if_pos ((due s c).mpr ⟨hrunning, hrecord⟩)).trans ?_
    rw [State.lateDecision_eq]
  · refine if_neg fun hdue => ?_
    obtain ⟨hrunning, hopen⟩ := (due s c).mp hdue
    rcases h with hidle | ⟨hwaiting, hcomplete⟩
    · rw [hrunning] at hidle
      cases hidle
    · exact hopen.elim hwaiting hcomplete
  · exact ⟨_, s.abortContext_of_open c ((DecisionRecord.isOpen_iff _).mpr hrecord),
      hgiven s c true True (iff_of_true rfl trivial) .aborted false true⟩
  · exact if_neg fun hopen => ((DecisionRecord.isOpen_iff _).mp hopen).elim hwaiting hcomplete

end Sys2Proof.Machine
end

section
/-! Proofs. The station reset and the cold reset (R2, R18, R42, R61, R79, R81, R102, R123, R153, R163, R181,
R182). -/

namespace Sys2Proof.Machine

open Sys2Proof

/-! ### RESET_STATION (R42, R181) -/

/-- The number of contexts that are not FREE, counted over both. -/
theorem Flow.occupied_eq (w : Flow) :
    w.occupied = [w.ctxs.get 0, w.ctxs.get 1].countP (fun x => x.state ≠ .free) := by
  simp only [Flow.occupied, List.countP_cons, List.countP_nil, decide_eq_true_iff]
  show (if w.ctxs.p0.state = .free then 0 else 1) + (if w.ctxs.p1.state = .free then 0 else 1)
    = 0 + (if ¬ w.ctxs.p1.state = .free then 1 else 0) + if ¬ w.ctxs.p0.state = .free then 1 else 0
  rw [ite_not, ite_not, Nat.zero_add, Nat.add_comm]

/-- A head port's part of a station reset (R64, R79, R81). -/
theorem Port.stationReset_eq {q : Prop} [Decidable q] (expiry : Nat) (x : Port) :
    x.stationReset (decide q) expiry =
      let y : Port := { x with
        queryTimer := none, scan := .idle, startTimer := none, tileTimer := none, record := none
        pools := ⟨⟨.free, 0, 0, []⟩, ⟨.free, 0, 0, []⟩⟩, header := none, intake := []
        course := x.course.map (fun k => if k = .cutOff then .cutOff else .stale) }
      if q then
        { y with link := .unknown, queryTimer := some expiry, lane := x.lane ++ [.scanStop, .headQuery] }
      else y := by
  have hcourse : Course.stopped = fun k => if k = .cutOff then .cutOff else .stale :=
    funext Course.stopped_eq
  unfold Port.stationReset
  rw [hcourse]
  by_cases hq : q
  · simp only [hq, decide_true, if_true, Port.query, Port.send, List.append_assoc]
    rfl
  · simp only [hq, decide_false, Bool.false_eq_true, if_false]
    rfl

/-- Settles O45: each block's part of a station reset, and its completion. -/
theorem stationIsReset : Obligations.StationIsReset := by
  refine ⟨?_, ?_, ?_⟩
  · intro s tag f htakes hsettled hon hconfig
    refine (State.request_known s .resetStation tag [] htakes rfl).trans (congrArg _ ?_)
    have hserve : (s.served 0x3B tag).serveResetStation
        = (s.resetBlocks.served 0x3B tag).modLink (fun l => { l with resetCount := some s.flow.occupied }) :=
      if_neg (State.not_offline (s := s.served 0x3B tag) hon)
    have hports : s.resetBlocks.ports = s.ports.mapIdx (fun p x =>
        x.stationReset (decide (p.val < f.heads)) (s.now + f.locateTimeout)) := by
      have hheads : s.flow.heads = f.heads := by rw [Flow.heads, hconfig]
      have hafter : s.after StationConfig.locateTimeout = s.now + f.locateTimeout := by
        rw [State.after, hconfig]
      rw [← hheads, ← hafter]
      rfl
    have hstill : ((s.resetBlocks.served 0x3B tag).modLink (fun l =>
        { l with resetCount := some s.flow.occupied })).link.Settled := hsettled
    refine (congrArg State.pump hserve).trans ((State.pump_settled hstill).trans ?_)
    have hparts : (s.resetBlocks.served 0x3B tag).modLink (fun l =>
        { l with resetCount := some s.flow.occupied }) = { s.resetBlocks with
          ports := s.resetBlocks.ports
          link := { s.link.taken 0x3B tag with resetCount := some s.flow.occupied } } := rfl
    simp only [Port.stationReset_eq] at hports
    rw [hparts, hports, Flow.occupied_eq]
    rfl
  · intro s n kind tag hn hservice
    show execStationResetComplete s = _
    rw [execStationResetComplete, hn]
    exact congrArg _ (State.reply_pump (s.modLink (fun l => { l with
      notices := [], pending := [], resetCount := none })) kind tag _ _ hservice)
  · intro s hnone
    show execStationResetComplete s = _
    rw [execStationResetComplete, hnone]

/-! ### The cold reset (R182) -/

/-- The lines of a station that a cold reset left in OFFLINE follow their terms (R25). -/
theorem State.afterColdReset_lines {t : State} {m e stop : Bool} (h : t.flow = Flow.afterColdReset m e stop) :
    t.LinesFollow := by
  have still : ¬ (t.flow.station = .running ∨ t.flow.station = .draining) := by
    rw [h]
    rintro (h | h) <;> cases h
  refine ⟨⟨fun henter => ?_, fun hterms => absurd (.inl hterms.running) still⟩,
    ⟨fun hshift => ?_, fun hterms => absurd hterms.moving still⟩,
    ⟨fun hrelease => ?_, fun hterms => absurd hterms.2 still⟩, ?_⟩
  · rw [h] at henter
    cases henter
  · rw [h] at hshift
    cases hshift
  · rw [h] at hrelease
    cases hrelease
  · rw [h]
    rfl

/-- The counts of an empty table are those of a context after reset (R111). -/
theorem State.reset_tallied (c : CtxId) : (State.reset.ctx c).Tallied := by
  fin_cases c <;> exact ⟨rfl, rfl, rfl, rfl, rfl, rfl, rfl, rfl, rfl⟩

/-- The log, the monitor and the pool of the state after reset are within their forms (R83, R143, R156). -/
theorem State.reset_buffersOk : State.reset.BuffersOk := by
  have hfree (k : Fin 4) : State.reset.log.segments.get k = Segment.empty := Quad.get_all _ k
  refine ⟨⟨fun k => ?_, fun k h => ?_⟩, ⟨?_, ?_, ?_, ?_, ?_, ?_⟩, ⟨?_, ?_, ?_⟩⟩
  · rw [hfree]
    exact rfl
  · rw [hfree] at h
    exact absurd h (by decide)
  all_goals decide

/-- The link after reset meets its standing rules: nothing is kept, and nothing waits (R182). -/
theorem State.reset_link_ok : State.reset.link.Ok where
  notices := Nat.zero_le _
  refusals := Nat.zero_le _
  framer := Nat.zero_le _
  pending := ⟨by decide, by decide, by decide⟩
  drained := .inr fun _ _ => rfl
  settled := fun _ => ⟨rfl, rfl, rfl⟩

/-- Settles O46: what a cold reset leaves in every block, and the standing rules at reset. -/
theorem machineIsColdReset : Obligations.MachineIsColdReset := by
  obtain ⟨hlog, hmonitor, hpool⟩ := State.reset_buffersOk
  have freed (c : CtxId) : let x := (Pair.all Context.freed).get c
      x.state = .free ∧ x.position = .nowhere ∧ x.inTransit = false ∧ x.removed = false
        ∧ x.taktRunning = false := by
    rw [Pair.get_all]
    exact ⟨rfl, rfl, rfl, rfl, rfl⟩
  have idle (p : PortId) : let x := (Quad.all Port.initial).get p
      x.link = .unconfigured ∧ x.queryTimer = none ∧ x.scan = .idle ∧ x.startTimer = none ∧
        x.tileTimer = none ∧ x.record = none ∧ x.header = none ∧ x.course = none ∧ x.intake = [] ∧
        x.pools = ⟨⟨.free, 0, 0, []⟩, ⟨.free, 0, 0, []⟩⟩ := by
    rw [Quad.get_all]
    exact ⟨rfl, rfl, rfl, rfl, rfl, rfl, rfl, rfl, rfl, rfl⟩
  refine ⟨fun s => ⟨_, rfl, rfl, rfl, rfl, rfl, rfl, rfl, fun c => ?_, rfl, rfl, rfl, rfl, rfl, rfl, rfl, rfl,
    rfl, fun k => ?_, rfl, rfl, rfl, fun c => ?_, fun p => ?_, fun p => ?_, rfl, rfl, rfl, rfl, fun k i => ?_,
    rfl, rfl, rfl, rfl, rfl, rfl, rfl, rfl, fun g => ?_, rfl, rfl, rfl, rfl, State.reset_link_ok,
    State.afterColdReset_lines rfl, ?_, ⟨hlog, hmonitor, hpool⟩, fun c => ?_⟩, rfl, rfl, rfl⟩
  · exact freed c
  · exact Quad.get_all Slot.emptied k
  · exact Pair.get_all AlignRecord.clear c
  · exact ⟨Quad.get_all [] p, Quad.get_all none p, Quad.get_all 0 p⟩
  · exact idle p
  · exact ⟨rfl, rfl⟩
  · exact Quad.get_all Segment.empty g
  · exact ⟨fun _ h => (nomatch h), fun h => (nomatch h)⟩
  · exact State.reset_tallied c

end Sys2Proof.Machine
end

section
/-! Proofs. The answers to locates (R46 to R50, R63, R77, R190). -/

namespace Sys2Proof.Machine

open Sys2Proof

/-! ### A locate resolved (R46, R49) -/

section Locate

variable {s : State} {p : PortId} {c : CtxId} {g : InFlight}

theorem State.resolveLocate_of (hflight : s.align.inFlight.get p = some g) (haligning : s.align.aligning = some c)
    (o : FidOutcome) (r : MarkReading) : s.resolveLocate p o r =
      (match g.locate.sought with
        | .fiducial i => (s.modAlign (fun a => { a with inFlight := a.inFlight.set p none })).resolveFiducial c i o
        | .mark m => (s.modAlign (fun a =>
            { a with inFlight := a.inFlight.set p none })).resolveMark c m r).startHeads.alignmentTest := by
  rw [State.resolveLocate, hflight, haligning] <;> rfl

theorem State.locateFrame_bad (hflight : s.align.inFlight.get p = some g) (haligning : s.align.aligning = some c)
    (body : List Byte) : s.locateFrame p false body = (s.resolveLocate p .headError .unread).pump := by
  rw [State.locateFrame, hflight, haligning]
  rfl

theorem State.locateFrame_named (hflight : s.align.inFlight.get p = some g) (haligning : s.align.aligning = some c)
    {body : List Byte} (hnumber : body.head? = some g.number) : s.locateFrame p true body
      = (s.resolveLocate p (LocateAnswer.ofBody body).outcome (LocateAnswer.ofBody body).reading).pump := by
  rw [State.locateFrame, hflight, haligning]
  exact if_pos hnumber

theorem State.locateFrame_other (hflight : s.align.inFlight.get p = some g) (haligning : s.align.aligning = some c)
    {body : List Byte} (hnumber : body.head? ≠ some g.number) :
    s.locateFrame p true body = s.countStale p := by
  rw [State.locateFrame, hflight, haligning]
  exact if_neg hnumber

theorem State.locateFrame_idle (h : s.align.inFlight.get p = none ∨ s.align.aligning = none) (good : Bool)
    (body : List Byte) : s.locateFrame p good body = s.countStale p := by
  unfold State.locateFrame
  split
  · rename_i hflight haligning
    rw [hflight, haligning] at h
    rcases h with h | h <;> cases h
  · rfl

/-- A LOCATE_RESULT on a configured port: the tile timer restarts, a wrong end or length is counted, and the
alignment unit takes the frame (R46, R63, R77). -/
theorem execLocateResult_configured {f : StationConfig} (hconfig : s.flow.config = some f)
    (hp : p.val < f.heads) (good : Bool) (body : List Byte) : exec (.locateResult p good body) s
      = .next ((if good = true ∧ body.length = 15 then s.heard p else (s.heard p).countFrameError p).locateFrame
          p good body) := by
  have hconfigured : s.configured p = true := by
    rw [State.configured, Flow.heads, hconfig]
    exact decide_eq_true hp
  refine (if_pos hconfigured).trans ?_
  simp only [Bool.and_eq_true, beq_iff_eq]

/-- The port after a frame from its head: a RECEIVING port's tile timer restarts (R77). -/
def Port.heardAt (x : Port) (expiry : Nat) : Port :=
  if x.scan = .receiving then { x with tileTimer := some expiry } else x

theorem Port.heardAt_counters (x : Port) (expiry : Nat) : (x.heardAt expiry).counters = x.counters := by
  unfold Port.heardAt
  split <;> rfl

theorem State.set_countFrameError (s : State) (p : PortId) (x : Port) :
    ({ s with ports := s.ports.set p x } : State).countFrameError p = { s with
      ports := s.ports.set p { x with
        counters := { x.counters with frameErrors := bump x.counters.frameErrors 1 } } } := by
  unfold State.countFrameError State.modPort State.modPorts
  simp only [Quad.set_set, Quad.get_set_self]
  rfl

theorem State.heard_countFrameError {f : StationConfig} (hconfig : s.flow.config = some f) :
    (s.heard p).countFrameError p = { s with
      ports := s.ports.set p { (s.ports.get p).heardAt (s.now + f.tileTimeout) with
        counters := { (s.ports.get p).counters with
          frameErrors := bump (s.ports.get p).counters.frameErrors 1 } } } := by
  rw [State.heard_eq s p f hconfig]
  refine (s.set_countFrameError p _).trans ?_
  rw [← Port.heardAt_counters (s.ports.get p) (s.now + f.tileTimeout)]
  rfl

end Locate

/-! ### What an answer says (R47, R50, R190) -/

section Answer

variable {b : List Byte}

theorem LocateAnswer.ofBody_zero (hlen : b.length = 15) (hcode : u8 b 1 = 0) : LocateAnswer.ofBody b =
    if u8 b 14 ≤ 100 ∧ -32767 ≤ i32 b 10 ∧ i32 b 10 ≤ 32767 then
      .found (i32 b 2) (i32 b 6) (i32 b 10) (u8 b 14)
    else .headError := by
  rw [LocateAnswer.ofBody, if_pos hlen, hcode]
  simp only [withinI, Bool.and_eq_true, decide_eq_true_iff]

theorem LocateAnswer.ofBody_one (hlen : b.length = 15) (hcode : u8 b 1 = 1) : LocateAnswer.ofBody b =
    if (b.drop 2).all (fun b => b == 0) then .markPresent else .headError := by
  rw [LocateAnswer.ofBody, if_pos hlen, hcode]
  rfl

theorem LocateAnswer.ofBody_two (hlen : b.length = 15) (hcode : u8 b 1 = 2) : LocateAnswer.ofBody b =
    if (b.drop 2).all (fun b => b == 0) then .markAbsent else .headError := by
  rw [LocateAnswer.ofBody, if_pos hlen, hcode]
  rfl

theorem LocateAnswer.ofBody_three (hlen : b.length = 15) (hcode : u8 b 1 = 3) : LocateAnswer.ofBody b =
    if (b.drop 2).all (fun b => b == 0) then .notFound else .headError := by
  rw [LocateAnswer.ofBody, if_pos hlen, hcode]
  rfl

theorem LocateAnswer.ofBody_unknown (hcode : 3 < u8 b 1) : LocateAnswer.ofBody b = .headError := by
  unfold LocateAnswer.ofBody
  split
  · dsimp only
    split
    · omega
    · omega
    · omega
    · omega
    · rfl
  · rfl

theorem LocateAnswer.ofBody_not_blank (hcode : u8 b 1 ≠ 0)
    (hb : ¬ (b.drop 2).all (fun b => b == 0) = true) : LocateAnswer.ofBody b = .headError := by
  unfold LocateAnswer.ofBody
  split
  · dsimp only
    split
    · exact absurd ‹_› hcode
    · exact if_neg hb
    · exact if_neg hb
    · exact if_neg hb
    · rfl
  · rfl

end Answer

/-! ### The head of a locate (R44) -/

theorem find?_ports_some {q : PortId → Bool} {p : PortId} (hp : q p = true)
    (hfirst : ∀ b, b < p → q b = false) : [0, 1, 2, 3].find? q = some p := by
  match p with
  | 0 => simp [hp]
  | 1 => simp [hp, hfirst 0 (by decide)]
  | 2 => simp [hp, hfirst 0 (by decide), hfirst 1 (by decide)]
  | 3 => simp [hp, hfirst 0 (by decide), hfirst 1 (by decide), hfirst 2 (by decide)]

theorem find?_ports_none {q : PortId → Bool} (hnone : ∀ b, q b = false) : [0, 1, 2, 3].find? q = none := by
  simp [hnone 0, hnone 1, hnone 2, hnone 3]

/-- The head that serves a locate, under a configuration (R44). -/
theorem Flow.headFor_eq {w : Flow} {f : StationConfig} (hconfig : w.config = some f) (l : Locate) :
    w.headFor l = [0, 1, 2, 3].find? (fun p =>
      (f.ranges[p.val]?).any (fun r => r.start ≤ l.x / f.pitch ∧ l.x / f.pitch < r.stop)) := by
  have hpitch : w.pitch = f.pitch := by rw [Flow.pitch, hconfig]
  rw [Flow.headFor, hpitch, Flow.headForColumn_eq w f hconfig _ 0]

/-! ### A fiducial resolved (R47, R48) -/

section Fiducial

variable {s : State} {c : CtxId} {i : Fin 3} {o : FidOutcome} {k : Fiducial}

/-- A fiducial's outcome recorded under the place it was sought at (R47). -/
theorem State.resolveFiducial_recorded (hfid : s.fiducial c i = some k)
    (h : o.isFound = true ∨ (s.fidEntry c i).searched = .alternate ∨ k.alternate = none) :
    s.resolveFiducial c i o = s.setFid c i ⟨(s.fidEntry c i).searched, o⟩ := by
  dsimp only [State.resolveFiducial]
  rw [hfid]
  dsimp only
  split
  · rename_i a halternate
    refine if_neg ?_
    rintro ⟨hlost, hprimary⟩
    rw [hlost, hprimary, halternate] at h
    rcases h with h | h | h <;> cases h
  · rfl

theorem State.resolveFiducial_sought {a : Nat × Nat} (hfid : s.fiducial c i = some k)
    (hlost : o.isFound = false) (hprimary : (s.fidEntry c i).searched = .primary)
    (halternate : k.alternate = some a) : s.resolveFiducial c i o = s.seekAlternate c i k a := by
  dsimp only [State.resolveFiducial]
  rw [hfid]
  dsimp only
  rw [halternate]
  exact if_pos ⟨hlost, hprimary⟩

end Fiducial

/-- Settles O48: which frames resolve the locate in flight, what an answer says, and what it does. -/
theorem locateIsAnswered : Obligations.LocateIsAnswered := by
  unfold Obligations.LocateIsAnswered
  intro resolved stale
  have hresolved {u : State} {p : PortId} {c : CtxId} {g : InFlight} (hflight : u.align.inFlight.get p = some g)
      (haligning : u.align.aligning = some c) (o : FidOutcome) (r : MarkReading) :
      u.resolveLocate p o r = resolved u p c g o r := State.resolveLocate_of hflight haligning o r
  refine ⟨?_, ?_, ?_, ?_, ?_⟩
  · intro s p body f hconfig x heard taken wrong
    have htaken : s.heard p = taken := State.heard_eq s p f hconfig
    have hwrong : (s.heard p).countFrameError p = wrong := State.heard_countFrameError hconfig
    have hexec (hp : p.val < f.heads) (good : Bool) : exec (.locateResult p good body) s
        = .next ((if good = true ∧ body.length = 15 then taken else wrong).locateFrame p good body) := by
      rw [← htaken, ← hwrong]
      exact execLocateResult_configured hconfig hp good body
    refine ⟨fun hp good => ?_, fun hp => ⟨fun g c hflight haligning => ⟨?_, fun hnumber hlen => ?_,
      fun hnumber hlen => ?_, fun hnumber => ?_⟩, fun hidle good => ?_⟩⟩
    · refine if_neg ?_
      rw [State.configured, Flow.heads, hconfig]
      simpa using hp
    · rw [hexec hp, if_neg (by simp), State.locateFrame_bad (s := wrong) hflight haligning,
        hresolved (u := wrong) hflight haligning]
    · have hbody : LocateAnswer.ofBody body = .headError := if_neg hlen
      rw [hexec hp, if_neg (fun h => hlen h.2), State.locateFrame_named (s := wrong) hflight haligning hnumber,
        hresolved (u := wrong) hflight haligning, hbody]
      rfl
    · rw [hexec hp, if_pos ⟨rfl, hlen⟩, State.locateFrame_named (s := taken) hflight haligning hnumber,
        hresolved (u := taken) hflight haligning]
    · rw [hexec hp]
      by_cases hlen : body.length = 15
      · rw [if_pos ⟨rfl, hlen⟩, if_pos hlen, State.locateFrame_other (s := taken) hflight haligning hnumber]
        rfl
      · rw [if_neg (fun h => hlen h.2), if_neg hlen,
          State.locateFrame_other (s := wrong) hflight haligning hnumber]
        rfl
    · rw [hexec hp, State.locateFrame_idle]
      · rfl
      · split <;> exact hidle
  · intro s p
    refine ⟨fun g c hflight haligning => ?_, fun hnone => ?_⟩
    · show execLocateTimerExpiry p s = _
      rw [execLocateTimerExpiry, hflight]
      exact congrArg (fun u : State => (.next u.pump : Result)) (hresolved
        (u := s.modAlign (fun a => { a with
          locateTimeouts := a.locateTimeouts.set p (bump (a.locateTimeouts.get p) 1) }))
        hflight haligning .noAnswer .unread)
    · show execLocateTimerExpiry p s = _
      rw [execLocateTimerExpiry, hnone]
  · intro body hlen a blank z
    have hblank : (body.drop 2).all (fun b => b == 0) = true ↔ blank := by
      simp [blank, List.all_eq_true]
    refine ⟨fun hcode hq hlow hhigh => ?_, fun hcode hout => ?_, fun hcode hb => ?_, fun hcode hb => ?_,
      fun hcode hb => ?_, fun hcode hb => ?_, fun hcode => ?_⟩
    · have ha : a = .found (i32 body 2) (i32 body 6) z (u8 body 14) :=
        (LocateAnswer.ofBody_zero hlen hcode).trans (if_pos ⟨hq, hlow, hhigh⟩)
      rw [ha]
      exact ⟨rfl, rfl⟩
    · have ha : a = .headError := (LocateAnswer.ofBody_zero hlen hcode).trans (if_neg (by omega))
      rw [ha]
      exact ⟨rfl, rfl⟩
    · have ha : a = .markPresent := (LocateAnswer.ofBody_one hlen hcode).trans (if_pos (hblank.mpr hb))
      rw [ha]
      exact ⟨rfl, rfl⟩
    · have ha : a = .markAbsent := (LocateAnswer.ofBody_two hlen hcode).trans (if_pos (hblank.mpr hb))
      rw [ha]
      exact ⟨rfl, rfl⟩
    · have ha : a = .notFound := (LocateAnswer.ofBody_three hlen hcode).trans (if_pos (hblank.mpr hb))
      rw [ha]
      exact ⟨rfl, rfl⟩
    · have ha : a = .headError := LocateAnswer.ofBody_not_blank hcode (hblank.not.mpr hb)
      rw [ha]
      exact ⟨rfl, rfl⟩
    · have ha : a = .headError := LocateAnswer.ofBody_unknown hcode
      rw [ha]
      exact ⟨rfl, rfl⟩
  · intro s c i o k f hk hconfig e record
    have hfid : s.fiducial c i = some k := hk
    refine ⟨fun h => ?_, ?_⟩
    · exact State.resolveFiducial_recorded hfid h
    · intro a hlost hprimary halternate l owns
      have hsought : s.resolveFiducial c i o = s.seekAlternate c i k a :=
        State.resolveFiducial_sought hfid hlost hprimary halternate
      rw [hsought]
      have hl : s.flow.locateAt (.fiducial i) a.1 a.2 k.radius = l := by
        rw [Flow.locateAt, hconfig]
      have howns (p : PortId) : ((f.ranges[p.val]?).any (fun r => decide (r.start ≤ l.x / f.pitch ∧
          l.x / f.pitch < r.stop))) = true ↔ owns p := by
        simp [owns, Option.any_eq_true]
      refine ⟨fun p hp hfirst => ?_, fun hnone => ?_⟩
      · have hhead : s.flow.headFor l = some p :=
          (Flow.headFor_eq hconfig l).trans (find?_ports_some ((howns p).mpr hp)
            fun q hq => Bool.eq_false_iff.mpr ((howns q).not.mpr (hfirst q hq)))
        rw [State.seekAlternate, hl, hhead]
        rfl
      · have hhead : s.flow.headFor l = none :=
          (Flow.headFor_eq hconfig l).trans (find?_ports_none
            fun q => Bool.eq_false_iff.mpr ((howns q).not.mpr (hnone q)))
        rw [State.seekAlternate, hl, hhead]
        rfl
  · intro s c m r
    exact ⟨rfl, rfl, rfl⟩

end Sys2Proof.Machine
end

section
/-! Proofs. The end of an alignment (R51 to R59). -/

namespace Sys2Proof.Machine

open Sys2Proof

/-! ### Rounded quotients (Conventions) -/

/-- The natural number a rounded quotient is, without its sign. -/
def roundNat (a b : Nat) : Nat := (2 * a + b) / (2 * b)

theorem roundNat_bounds (a : Nat) {b : Nat} (hb : 0 < b) :
    2 * (b * roundNat a b) ≤ 2 * a + b ∧ 2 * a + b < 2 * (b * roundNat a b) + 2 * b := by
  have hlow := Nat.div_mul_le_self (2 * a + b) (2 * b)
  have hhigh := Nat.lt_div_mul_add (a := 2 * a + b) (b := 2 * b) (by omega)
  have hmul : (2 * a + b) / (2 * b) * (2 * b) = 2 * (b * roundNat a b) := by
    rw [roundNat]
    ring
  rw [hmul] at hlow hhigh
  exact ⟨hlow, hhigh⟩

/-- The divisor times a rounded quotient has the sign of the dividend. -/
theorem mul_roundDiv (a b : Int) : b * roundDiv a b
    = if a < 0 then -((b.natAbs * roundNat a.natAbs b.natAbs : Nat) : Int)
      else ((b.natAbs * roundNat a.natAbs b.natAbs : Nat) : Int) := by
  have habs : (b.natAbs : Int) = if b < 0 then -b else b := by split <;> omega
  show b * (if a < 0 ↔ b < 0 then ((roundNat a.natAbs b.natAbs : Nat) : Int)
    else -((roundNat a.natAbs b.natAbs : Nat) : Int)) = _
  rw [Nat.cast_mul, habs]
  by_cases ha : a < 0 <;> by_cases hb : b < 0 <;>
    simp only [ha, hb, if_true, if_false, iff_self, iff_true, iff_false, not_true] <;> ring

/-- A rounded quotient is the nearest integer, and of two the farther from zero (Conventions). -/
theorem roundDiv_nearest (a b : Int) (hb : b ≠ 0) : 2 * (a - b * roundDiv a b).natAbs ≤ b.natAbs ∧
    (2 * (a - b * roundDiv a b).natAbs = b.natAbs → a.natAbs < (b * roundDiv a b).natAbs) := by
  obtain ⟨hlow, hhigh⟩ := roundNat_bounds a.natAbs (Int.natAbs_pos.mpr hb)
  rw [mul_roundDiv]
  generalize b.natAbs * roundNat a.natAbs b.natAbs = m at hlow hhigh ⊢
  split <;> omega

/-! ### The entries that ALIGN_FAULT writes (R59) -/

theorem alignFaultEntry_eq (skipped : List (Nat × SkipCause)) (sites j : Nat) :
    alignFaultEntry skipped sites j = match mapGet (j / sites) skipped with
      | some .badMark => ⟨.skipped, some .badMark, FlagSet.none⟩
      | some .excluded => ⟨.skipped, some .excluded, FlagSet.none⟩
      | none => ⟨.unmeasured, some .notAligned, FlagSet.none⟩ := by
  unfold alignFaultEntry
  cases mapGet (j / sites) skipped with
  | none => rfl
  | some k => cases k <;> rfl

theorem getElem?_written_front {l : List VerdictEntry} {k : Nat} (hl : l.length = k) (m : Nat) :
    (l ++ List.replicate (m + 1) VerdictEntry.unset)[k]? = some VerdictEntry.unset := by
  rw [List.getElem?_append_right hl.le, hl, Nat.sub_self]
  rfl

theorem set_written_front {l : List VerdictEntry} {k : Nat} (hl : l.length = k) (m : Nat)
    (e : VerdictEntry) : (l ++ List.replicate (m + 1) VerdictEntry.unset).set k e
      = (l ++ [e]) ++ List.replicate m VerdictEntry.unset := by
  rw [List.set_append_right _ _ hl.le, hl, Nat.sub_self, List.append_assoc]
  rfl

theorem VerdictCounts.add_alignFaultEntry (n : VerdictCounts) (skipped : List (Nat × SkipCause))
    (sites j : Nat) : n.add 1 (alignFaultEntry skipped sites j).verdict = { n with
      skipped := n.skipped + [j].countP (fun j => mapGet (j / sites) skipped ≠ none)
      unmeasured := n.unmeasured + [j].countP (fun j => mapGet (j / sites) skipped = none) } := by
  rw [alignFaultEntry_eq, List.countP_singleton, List.countP_singleton]
  cases mapGet (j / sites) skipped with
  | none => rfl
  | some k => cases k <;> rfl

/-- A whole table written from UNSET, up to its k-th entry (R59, R110, R111). -/
theorem Context.write_front (x : Context) (skipped : List (Nat × SkipCause)) (sites n : Nat)
    (hunset : x.verdicts = List.replicate n VerdictEntry.unset) (hcount : x.unset = n) (k : Nat) (hk : k ≤ n) :
    (List.range k).foldl (fun x j => x.write j (alignFaultEntry skipped sites j)) x = { x with
      verdicts := (List.range k).map (alignFaultEntry skipped sites)
        ++ List.replicate (n - k) VerdictEntry.unset
      unset := n - k
      counts := { x.counts with
        skipped := x.counts.skipped + (List.range k).countP (fun j => mapGet (j / sites) skipped ≠ none)
        unmeasured := x.counts.unmeasured
          + (List.range k).countP (fun j => mapGet (j / sites) skipped = none) } } := by
  induction k with
  | zero =>
    subst hcount
    rw [List.range_zero, List.map_nil, List.nil_append, Nat.sub_zero, ← hunset]
    rfl
  | succ k ih =>
    obtain ⟨m, hm⟩ : ∃ m, n - k = m + 1 := ⟨n - k - 1, by omega⟩
    have hm' : n - (k + 1) = m := by omega
    rw [List.range_succ, List.foldl_append, ih (by omega), List.foldl_cons, List.foldl_nil, hm, hm',
      List.map_append, List.countP_append, List.countP_append]
    refine (Context.write_unset _ k _ (getElem?_written_front (by simp) m)).trans ?_
    dsimp only
    rw [set_written_front (by simp) m, VerdictCounts.add_alignFaultEntry]
    simp only [Nat.add_assoc]
    rfl

/-- The whole table of an unmeasured panel written by ALIGN_FAULT (R59). -/
theorem Context.writeAll_alignFault (x : Context) (skipped : List (Nat × SkipCause)) (sites : Nat)
    (hunset : x.verdicts = List.replicate x.verdicts.length VerdictEntry.unset)
    (hcount : x.unset = x.verdicts.length) :
    x.writeAll (alignFaultEntry skipped sites) = { x with
      verdicts := (List.range x.verdicts.length).map (alignFaultEntry skipped sites)
      unset := 0
      counts := { x.counts with
        skipped := x.counts.skipped
          + (List.range x.verdicts.length).countP (fun j => mapGet (j / sites) skipped ≠ none)
        unmeasured := x.counts.unmeasured
          + (List.range x.verdicts.length).countP (fun j => mapGet (j / sites) skipped = none) } } := by
  have h := x.write_front skipped sites _ hunset hcount x.verdicts.length le_rfl
  rw [Nat.sub_self, List.replicate_zero, List.append_nil] at h
  exact h

/-! ### The end of an alignment (R51, R58, R59) -/

section Ends

variable {s : State} {c : CtxId}

theorem State.alignmentTest_open (haligning : s.align.aligning = some c) (hopen : ¬ s.alignmentOver c = true) :
    s.alignmentTest = s := by
  rw [State.alignmentTest, haligning]
  exact if_neg hopen

theorem State.alignmentTest_fault (haligning : s.align.aligning = some c) (hover : s.alignmentOver c = true)
    {cause : AlignCause} {r : Option Nat} (houtcome : s.outcomeOf c = .fault cause r) :
    s.alignmentTest = (s.modRecord c (fun x => { x with residual := r })).alignFault c cause := by
  rw [State.alignmentTest, haligning]
  refine (if_pos hover).trans ?_
  rw [houtcome]

theorem State.alignmentTest_success (haligning : s.align.aligning = some c) (hover : s.alignmentOver c = true)
    {t : Transform} {r : Nat} {p : Plane} (houtcome : s.outcomeOf c = .success t r p) :
    s.alignmentTest = s.alignSuccess c t r p := by
  rw [State.alignmentTest, haligning]
  refine (if_pos hover).trans ?_
  rw [houtcome]

theorem State.modRecord_modRecord (f g : AlignRecord → AlignRecord) :
    (s.modRecord c f).modRecord c g = s.modRecord c (fun r => g (f r)) := by
  unfold State.modRecord State.modAlign
  simp only [Pair.set_set, Pair.get_set_self]

theorem State.modCtx_modCtx (f g : Context → Context) :
    (s.modCtx c f).modCtx c g = s.modCtx c (fun x => g (f x)) := by
  unfold State.modCtx State.modFlow
  simp only [Pair.set_set, Pair.get_set_self]

theorem State.modCtx_eq {f : Context → Context} {x : Context} (h : f (s.ctx c) = x) :
    s.modCtx c f = { s with flow := { s.flow with ctxs := s.flow.ctxs.set c x } } := by
  subst h
  rfl

/-- A report of a complete table outside JUDGING leaves the record COMPLETE (R125). -/
theorem State.reportComplete_early (hunset : (s.ctx c).unset = 0) (hwaiting : s.decision.records.get c = .waiting)
    (hstate : (s.ctx c).state ≠ .judging) : s.reportComplete c = s.setDecision c .complete :=
  (if_pos ⟨hunset, hwaiting⟩).trans (if_neg hstate)

/-- ALIGN_FAULT of a panel of which nothing has been written (R59, R125). -/
theorem State.alignFault_eq {cause : AlignCause} (hstate : (s.ctx c).state = .aligning)
    (hwaiting : s.decision.records.get c = .waiting)
    (hunset : (s.ctx c).verdicts = List.replicate (s.ctx c).verdicts.length VerdictEntry.unset)
    (hcount : (s.ctx c).unset = (s.ctx c).verdicts.length) : s.alignFault c cause =
      ((((s.modRecord c (fun r => { r with cause := some cause })).modAlign
        (fun a => { a with aligning := none })).modCtx c (fun x =>
          { x with alignFault := some cause, skippedPlacements := s.align.skipped.length }.writeAll
            (alignFaultEntry s.align.skipped (s.sitesOf c)))).setDecision c .complete).makeDecision c .normal
              s.now := by
  have hwritten := Context.writeAll_alignFault
    { s.ctx c with alignFault := some cause, skippedPlacements := s.align.skipped.length }
    s.align.skipped (s.sitesOf c) hunset hcount
  dsimp only [State.alignFault]
  rw [State.modCtx_modCtx]
  generalize hu : ((s.modRecord c (fun r => { r with cause := some cause })).modAlign
    (fun a => { a with aligning := none })).modCtx c (fun x =>
      { x with alignFault := some cause, skippedPlacements := s.align.skipped.length }.writeAll
        (alignFaultEntry s.align.skipped (s.sitesOf c))) = u
  have hctx : u.ctx c = { s.ctx c with
      alignFault := some cause, skippedPlacements := s.align.skipped.length }.writeAll
        (alignFaultEntry s.align.skipped (s.sitesOf c)) := by
    rw [← hu]
    exact Pair.get_set_self _ _ _
  have hdecision : u.decision = s.decision := by rw [← hu]; rfl
  have hnow : u.now = s.now := by rw [← hu]; rfl
  have hreport : u.reportComplete c = u.setDecision c .complete := by
    refine State.reportComplete_early ?_ (by rw [hdecision, hwaiting]) ?_
    · rw [hctx, hwritten]
    · rw [hctx, hwritten]
      show (s.ctx c).state ≠ .judging
      rw [hstate]
      decide
  have hcomplete : (u.setDecision c .complete).decision.records.get c = .complete :=
    Pair.get_set_self _ _ _
  rw [hreport, if_pos hcomplete, ← hnow]
  rfl

/-- The found fiducial of a record, by its place and its nominal (R51, R52). -/
theorem foundFiducial_eq {e : FidEntry} {k : Fiducial} {n m : Point} {z : Int}
    (hfound : ∃ q, e.outcome = .found m.1 m.2 z q)
    (hnominal : (e.searched = .primary ∧ n = (((k.u : Nat) : Int), ((k.v : Nat) : Int))) ∨
      e.searched = .alternate ∧ ∃ a, k.alternate = some a ∧
        n = (((a.1 : Nat) : Int), ((a.2 : Nat) : Int))) :
    foundFiducial e k = some (n, m, z) := by
  obtain ⟨q, hq⟩ := hfound
  have hn : k.nominal (e.searched == .alternate) = some n := by
    rcases hnominal with ⟨hprimary, rfl⟩ | ⟨halternate, a, ha, rfl⟩
    · rw [hprimary]
      rfl
    · rw [halternate, Fiducial.nominal, ha]
      rfl
  rw [foundFiducial, hq, hn]

theorem foundFiducial_none {e : FidEntry} (k : Fiducial)
    (hlost : ∀ a b d q, e.outcome ≠ .found a b d q) : foundFiducial e k = none := by
  unfold foundFiducial
  split
  · rename_i x y z q n hfound _
    exact absurd hfound (hlost x y z q)
  · rfl

section Outcome

variable {h : Header} {f1 f2 f3 : Fiducial} (hheader : (s.slots.get (s.ctx c).slot).header = some h)
  (hfiducials : (s.slots.get (s.ctx c).slot).fiducials = [f1, f2, f3])

include hheader hfiducials

theorem State.outcomeOf_eq : s.outcomeOf c =
    match foundFiducial (s.fidEntry c 0) f1, foundFiducial (s.fidEntry c 1) f2,
      foundFiducial (s.fidEntry c 2) f3 with
    | some (n1, m1, z1), some (n2, m2, z2), some (n3, m3, z3) =>
      alignmentOutcome h n1 n2 n3 m1 m2 m3 z1 z2 z3
    | _, _, _ => .fault .fiducialMissing none := by
  have hk0 : s.fiducial c 0 = some f1 := by rw [State.fiducial, State.slotOf, hfiducials]; rfl
  have hk1 : s.fiducial c 1 = some f2 := by rw [State.fiducial, State.slotOf, hfiducials]; rfl
  have hk2 : s.fiducial c 2 = some f3 := by rw [State.fiducial, State.slotOf, hfiducials]; rfl
  have hh : (s.slotOf c).header = some h := hheader
  dsimp only [State.outcomeOf]
  rw [hk0, hk1, hk2, hh, Option.bind_some, Option.bind_some, Option.bind_some]
  cases foundFiducial (s.fidEntry c 0) f1 with
  | none => rfl
  | some a =>
    cases foundFiducial (s.fidEntry c 1) f2 with
    | none => rfl
    | some b => cases foundFiducial (s.fidEntry c 2) f3 <;> rfl

theorem State.outcomeOf_missing
    (hlost : ∃ i, ∀ a b d q, (s.fidEntry c i).outcome ≠ .found a b d q) :
    s.outcomeOf c = .fault .fiducialMissing none := by
  rw [State.outcomeOf_eq hheader hfiducials]
  obtain ⟨i, hi⟩ := hlost
  match i, hi with
  | 0, hi => rw [foundFiducial_none f1 hi]
  | 1, hi =>
    rw [foundFiducial_none f2 hi]
    cases foundFiducial (s.fidEntry c 0) f1 <;> rfl
  | 2, hi =>
    rw [foundFiducial_none f3 hi]
    cases foundFiducial (s.fidEntry c 0) f1 with
    | none => rfl
    | some a => cases foundFiducial (s.fidEntry c 1) f2 <;> rfl

end Outcome

end Ends

/-- Settles O49: the rounding, the first check that fails and its cause, and what the end leaves. -/
theorem alignmentEnds : Obligations.AlignmentEnds := by
  refine ⟨roundDiv_nearest, ?_⟩
  intro s c h f1 f2 f3 haligning hheader hfiducials x r ended sites skipped faulted found
  have hover : s.alignmentOver c = true ↔ ended := s.alignmentOver_iff c
  have hfaulted (cause : AlignCause) (residual : Option Nat) (hend : ended)
      (houtcome : s.outcomeOf c = .fault cause residual) : faulted cause residual := by
    intro hstate hwaiting hnonempty hunset hcount js
    have hentry : alignFaultEntry s.align.skipped sites = fun j => match skipped j with
        | some .badMark => ⟨.skipped, some .badMark, FlagSet.none⟩
        | some .excluded => ⟨.skipped, some .excluded, FlagSet.none⟩
        | none => ⟨.unmeasured, some .notAligned, FlagSet.none⟩ :=
      funext fun j => alignFaultEntry_eq _ _ j
    have hwritten := Context.writeAll_alignFault
      { x with alignFault := some cause, skippedPlacements := s.align.skipped.length }
      s.align.skipped sites hunset hcount
    refine (State.alignmentTest_fault haligning (hover.mpr hend) houtcome).trans ?_
    refine (State.alignFault_eq (s := s.modRecord c (fun x => { x with residual := residual }))
      hstate hwaiting hunset hcount).trans ?_
    rw [State.modRecord_modRecord, State.modCtx_eq (x := _) ?_]
    · rfl
    · refine hwritten.trans ?_
      rw [hentry] <;> rfl
  refine ⟨fun hopen => State.alignmentTest_open haligning (hover.not.mpr hopen), fun hend hlost =>
    hfaulted _ _ hend (State.outcomeOf_missing hheader hfiducials hlost), ?_⟩
  intro n1 n2 n3 m1 m2 m3 z1 z2 z3 hend hf1 hf2 hf3 du dv dx2 dy2 dx3 dy3 L A B u v residual D Gx Gy scale
    rotation close level
  have houtcome : s.outcomeOf c = alignmentOutcome h n1 n2 n3 m1 m2 m3 z1 z2 z3 := by
    rw [State.outcomeOf_eq hheader hfiducials, foundFiducial_eq (e := s.fidEntry c 0) hf1.1 hf1.2,
      foundFiducial_eq (e := s.fidEntry c 1) hf2.1 hf2.2,
      foundFiducial_eq (e := s.fidEntry c 2) hf3.1 hf3.2]
  have checked (hscale : scale) (hrotation : rotation) : s.outcomeOf c = _ :=
    houtcome.trans ((if_neg (Nat.not_lt.mpr hscale)).trans (if_neg (Nat.not_lt.mpr hrotation)))
  refine ⟨fun hscale => hfaulted _ _ hend (houtcome.trans (if_pos (Nat.lt_of_not_le hscale))),
    fun hscale hrotation => ?_, fun hscale hrotation hclose => ?_, fun hscale hrotation hclose hlevel => ?_,
    fun hscale hrotation hclose hlevel => ?_⟩
  · exact hfaulted _ _ hend (houtcome.trans ((if_neg (Nat.not_lt.mpr hscale)).trans
      (if_pos (Nat.lt_of_not_le hrotation))))
  · exact hfaulted _ _ hend ((checked hscale hrotation).trans (if_pos (Nat.lt_of_not_le hclose)))
  · refine hfaulted _ _ hend ((checked hscale hrotation).trans ((if_neg (Nat.not_lt.mpr hclose)).trans ?_))
    by_cases hD : D = 0
    · exact if_pos hD
    · refine (if_neg hD).trans (if_pos ?_)
      by_contra hflat
      rw [not_or, Nat.not_lt, Nat.not_lt] at hflat
      exact hlevel ⟨hD, hflat⟩
  · obtain ⟨hD, hGx, hGy⟩ := hlevel
    intro t p
    have hsuccess : s.outcomeOf c = .success t residual p :=
      (checked hscale hrotation).trans ((if_neg (Nat.not_lt.mpr hclose)).trans ((if_neg hD).trans
        (if_neg (not_or_intro (Nat.not_lt.mpr hGx) (Nat.not_lt.mpr hGy)))))
    exact State.alignmentTest_success haligning (hover.mpr hend) hsuccess

end Sys2Proof.Machine
end

section
/-! Proofs. The locate lists of a new panel and the start of a head (R43, R44, R45, R48). -/

namespace Sys2Proof.Machine

open Sys2Proof

/-! ### A head started (R45) -/

theorem State.startHead_of {s : State} {p : PortId} {l : Locate} {rest : List Locate} {f : StationConfig}
    (hidle : s.align.inFlight.get p = none) (hlist : s.align.lists.get p = l :: rest)
    (hconfig : s.flow.config = some f) :
    s.startHead p = { s with
      align := { s.align with
        lists := s.align.lists.set p rest
        inFlight := s.align.inFlight.set p
          (some ⟨l, s.align.nextNumber.get p, s.now + f.locateTimeout⟩)
        nextNumber := s.align.nextNumber.set p (s.align.nextNumber.get p + 1) }
      ports := s.ports.set p { s.ports.get p with
        lane := (s.ports.get p).lane ++ [.locate (s.align.nextNumber.get p) (match l.sought with
          | .mark _ => true
          | .fiducial _ => false) l.x l.y l.radius] } } := by
  have hafter : s.after StationConfig.locateTimeout = s.now + f.locateTimeout := by
    rw [State.after, hconfig]
  rw [State.startHead, hidle, hlist, hafter] <;> rfl

theorem State.startHead_idle {s : State} {p : PortId}
    (h : s.align.inFlight.get p ≠ none ∨ s.align.lists.get p = []) : s.startHead p = s := by
  unfold State.startHead
  split
  · rename_i l rest hidle hlist
    rw [hidle, hlist] at h
    rcases h with h | h
    · exact absurd rfl h
    · cases h
  · rfl

/-! ### What a configuration and a program have sought (R44) -/

/-- The locate for a nominal panel position (R44). -/
def StationConfig.place (f : StationConfig) (sought : Sought) (u v radius : Nat) : Locate :=
  ⟨sought, f.originX + u, f.originY + v, radius⟩

/-- The head whose owned range takes a locate (R44). -/
def StationConfig.headOf (f : StationConfig) (l : Locate) : Option PortId :=
  [0, 1, 2, 3].find? (fun p =>
    (f.ranges[p.val]?).any (fun r => r.start ≤ l.x / f.pitch ∧ l.x / f.pitch < r.stop))

/-- The locates of each head among those sought, in their order (R44). -/
def StationConfig.listsOf (f : StationConfig) (ls : List Locate) : Quad (List Locate) :=
  (Quad.all ls).mapIdx (fun p ls => ls.filter (fun l => f.headOf l = some p))

/-- The locate of a fiducial's primary. -/
def StationConfig.primary (f : StationConfig) (i : Fin 3 × Fiducial) : Locate :=
  f.place (.fiducial i.1) i.2.u i.2.v i.2.radius

/-- The locate of a fiducial's alternate. -/
def StationConfig.alternate (f : StationConfig) (i : Fin 3 × Fiducial) : Option Locate :=
  i.2.alternate.map (fun a => f.place (.fiducial i.1) a.1 a.2 i.2.radius)

/-- The locates of the alternates sought for a fiducial at list building (R44, R48). -/
def StationConfig.second (f : StationConfig) (i : Fin 3 × Fiducial) : Option Locate :=
  if f.headOf (f.primary i) = none then f.alternate i else none

/-- A fiducial's entry once the primaries are listed (R44). -/
def StationConfig.firstEntry (f : StationConfig) (i : Fin 3 × Fiducial) : FidEntry :=
  match f.headOf (f.primary i) with
  | some _ => ⟨.primary, .pending⟩
  | none => ⟨.primary, .outOfField⟩

/-- A fiducial's entry once the lists are built (R44, R48). -/
def StationConfig.lastEntry (f : StationConfig) (i : Fin 3 × Fiducial) : FidEntry :=
  match f.headOf (f.primary i), f.alternate i with
  | some _, _ => ⟨.primary, .pending⟩
  | none, none => ⟨.primary, .outOfField⟩
  | none, some l => if f.headOf l = none then ⟨.alternate, .outOfField⟩ else ⟨.alternate, .pending⟩

/-- The locates of the bad marks of the placements from an index on (R44). -/
def StationConfig.marksFrom (f : StationConfig) (e : Option (BitVec 32)) : Nat → List Placement → List Locate
  | _, [] => []
  | i, p :: ps =>
    (if excludes e i then [] else (p.mark.map (fun m => f.place (.mark i) m.u m.v m.radius)).toList)
      ++ f.marksFrom e (i + 1) ps

/-- The skipped set once the placements from an index on are taken (R26, R44). -/
def skippedFrom (e : Option (BitVec 32)) : Nat → List Placement → List (Nat × SkipCause) → List (Nat × SkipCause)
  | _, [], sk => sk
  | i, _ :: ps, sk => skippedFrom e (i + 1) ps (if excludes e i then mapPut i .excluded sk else sk)

theorem excludes_iff (e : Option (BitVec 32)) (i : Nat) :
    excludes e i = true ↔ ∃ m, e = some m ∧ m.getLsbD i = true := by
  cases e with
  | none => simp [excludes]
  | some m => simp [excludes]

theorem mem_marksFrom {f : StationConfig} {e : Option (BitVec 32)} {l : Locate} (ps : List Placement) (i : Nat) :
    l ∈ f.marksFrom e i ps ↔ ∃ j p m, ps[j]? = some p ∧ ¬ excludes e (i + j) = true ∧ p.mark = some m ∧
      l = f.place (.mark (i + j)) m.u m.v m.radius := by
  induction ps generalizing i with
  | nil => simp [StationConfig.marksFrom]
  | cons q ps ih =>
    rw [StationConfig.marksFrom, List.mem_append, ih]
    constructor
    · rintro (hhere | ⟨j, p, m, hp, hin, hm, rfl⟩)
      · split at hhere
        · cases hhere
        · rename_i hin
          rw [Option.mem_toList, Option.map_eq_some_iff] at hhere
          obtain ⟨m, hm, rfl⟩ := hhere
          exact ⟨0, q, m, rfl, hin, hm, rfl⟩
      · rw [show i + 1 + j = i + (j + 1) by omega] at hin ⊢
        exact ⟨j + 1, p, m, hp, hin, hm, rfl⟩
    · rintro ⟨j, p, m, hp, hin, hm, rfl⟩
      cases j with
      | zero =>
        obtain rfl : q = p := Option.some.inj hp
        rw [Nat.add_zero] at hin ⊢
        exact .inl (by simp [hin, hm])
      | succ j =>
        rw [show i + (j + 1) = i + 1 + j by omega] at hin ⊢
        exact .inr ⟨j, p, m, hp, hin, hm, rfl⟩

theorem marksFrom_sought {f : StationConfig} {e : Option (BitVec 32)} {l : Locate} {ps : List Placement} {i : Nat}
    (h : l ∈ f.marksFrom e i ps) : ∃ j, i ≤ j ∧ l.sought = .mark j := by
  obtain ⟨j, p, m, _, _, _, rfl⟩ := (mem_marksFrom ps i).mp h
  exact ⟨i + j, by omega, rfl⟩

theorem marksFrom_pairwise {f : StationConfig} {e : Option (BitVec 32)} (ps : List Placement) (i : Nat) :
    (f.marksFrom e i ps).Pairwise (fun a b => ∃ i j, a.sought = .mark i ∧ b.sought = .mark j ∧ i < j) := by
  induction ps generalizing i with
  | nil => exact List.Pairwise.nil
  | cons q ps ih =>
    rw [StationConfig.marksFrom]
    refine List.pairwise_append.mpr ⟨?_, ih (i + 1), fun a ha b hb => ?_⟩
    · split
      · exact List.Pairwise.nil
      · cases q.mark <;> simp
    · obtain ⟨j, hj, hb⟩ := marksFrom_sought hb
      split at ha
      · cases ha
      · rw [Option.mem_toList, Option.map_eq_some_iff] at ha
        obtain ⟨m, _, rfl⟩ := ha
        exact ⟨i, j, rfl, hb, hj⟩

theorem mapWf_skippedFrom {e : Option (BitVec 32)} (ps : List Placement) (i : Nat) (sk : List (Nat × SkipCause))
    (h : mapWf sk) : mapWf (skippedFrom e i ps sk) := by
  induction ps generalizing i sk with
  | nil => exact h
  | cons q ps ih =>
    rw [skippedFrom]
    refine ih _ _ ?_
    split
    · exact mapWf_mapPut _ _ _ h
    · exact h

theorem mapGet_skippedFrom {e : Option (BitVec 32)} (ps : List Placement) (i k : Nat)
    (sk : List (Nat × SkipCause)) : mapGet k (skippedFrom e i ps sk)
      = if i ≤ k ∧ k < i + ps.length ∧ excludes e k = true then some .excluded else mapGet k sk := by
  induction ps generalizing i sk with
  | nil =>
    rw [skippedFrom, if_neg]
    rintro ⟨hle, hlt, _⟩
    exact absurd hlt (Nat.not_lt.mpr hle)
  | cons q ps ih =>
    rw [skippedFrom, ih, List.length_cons]
    by_cases hk : k = i
    · subst hk
      rw [if_neg (by omega)]
      by_cases hexcluded : excludes e k = true
      · rw [if_pos hexcluded, mapGet_mapPut_self, if_pos ⟨le_rfl, by omega, hexcluded⟩]
      · rw [if_neg hexcluded, if_neg (fun h => hexcluded h.2.2)]
    · have hkeep : mapGet k (if excludes e i then mapPut i .excluded sk else sk) = mapGet k sk := by
        split
        · exact mapGet_mapPut_ne _ _ hk
        · rfl
      rw [hkeep]
      refine if_congr ?_ rfl rfl
      constructor
      · rintro ⟨hle, hlt, hexcluded⟩
        exact ⟨by omega, by omega, hexcluded⟩
      · rintro ⟨hle, hlt, hexcluded⟩
        exact ⟨by omega, by omega, hexcluded⟩

/-! ### The lists as they are built (R44, R48) -/

theorem StationConfig.listsOf_get (f : StationConfig) (ls : List Locate) (p : PortId) :
    (f.listsOf ls).get p = ls.filter (fun l => f.headOf l = some p) := by
  rw [StationConfig.listsOf, Quad.get_mapIdx, Quad.get_all]

theorem StationConfig.listsOf_some {f : StationConfig} {l : Locate} {p : PortId} (h : f.headOf l = some p)
    (ls : List Locate) : (f.listsOf ls).set p ((f.listsOf ls).get p ++ [l]) = f.listsOf (ls ++ [l]) := by
  refine Quad.ext_get _ _ fun q => ?_
  rw [Quad.get_set, f.listsOf_get, f.listsOf_get, f.listsOf_get, List.filter_append]
  by_cases hq : q = p
  · subst hq
    simp [h]
  · simp [h, hq, Ne.symm hq]

theorem StationConfig.listsOf_none {f : StationConfig} {l : Locate} (h : f.headOf l = none)
    (ls : List Locate) : f.listsOf (ls ++ [l]) = f.listsOf ls := by
  refine Quad.ext_get _ _ fun q => ?_
  rw [f.listsOf_get, f.listsOf_get, List.filter_append]
  simp [h]

/-- A state whose locate lists are being built for a context: what has been sought, the skipped set, the
alignment record and the number of marks unverified (R44). -/
def State.building (s : State) (c : CtxId) (f : StationConfig) (ls : List Locate)
    (sk : List (Nat × SkipCause)) (r : AlignRecord) (u : Nat) : State :=
  { s with
    align := { s.align with
      aligning := some c, lists := f.listsOf ls, inFlight := Quad.all none, skipped := sk
      records := s.align.records.set c r }
    flow := { s.flow with ctxs := s.flow.ctxs.set c { s.ctx c with
      unverified := (s.ctx c).unverified + u } } }

theorem Triple.set_get_self {α : Type} (q : Triple α) (i : Fin 3) : q.set i (q.get i) = q := by
  match i with
  | 0 => rfl
  | 1 => rfl
  | 2 => rfl

theorem Pair.set_get_self {α : Type} (q : Pair α) (i : Fin 2) : q.set i (q.get i) = q := by
  match i with
  | 0 => rfl
  | 1 => rfl

section Building

variable {s : State} {c : CtxId} {f : StationConfig} {ls : List Locate} {sk : List (Nat × SkipCause)}
  {r : AlignRecord} {u : Nat}

theorem State.building_listLocate {l : Locate} {p : PortId} (h : f.headOf l = some p) :
    (s.building c f ls sk r u).listLocate p l = s.building c f (ls ++ [l]) sk r u := by
  rw [State.building, State.building, ← StationConfig.listsOf_some h]
  rfl

theorem State.building_none {l : Locate} (h : f.headOf l = none) :
    s.building c f ls sk r u = s.building c f (ls ++ [l]) sk r u := by
  rw [State.building, State.building, StationConfig.listsOf_none h]

theorem State.building_setFid (i : Fin 3) (e : FidEntry) : (s.building c f ls sk r u).setFid c i e
    = s.building c f ls sk { r with fids := r.fids.set i e } u := by
  unfold State.setFid State.modRecord State.modAlign State.building
  simp only [Pair.set_set, Pair.get_set_self]

theorem State.building_ctx : (s.building c f ls sk r u).ctx c = { s.ctx c with
    unverified := (s.ctx c).unverified + u } := Pair.get_set_self _ _ _

theorem State.building_slotOf : (s.building c f ls sk r u).slotOf c = s.slotOf c := by
  rw [State.slotOf, State.building_ctx]
  rfl

theorem State.building_fiducial (i : Fin 3) : (s.building c f ls sk r u).fiducial c i = s.fiducial c i := by
  rw [State.fiducial, State.building_slotOf]
  rfl

theorem State.building_fidEntry (i : Fin 3) : (s.building c f ls sk r u).fidEntry c i = r.fids.get i :=
  congrArg (fun x : AlignRecord => x.fids.get i) (Pair.get_set_self _ _ _)

theorem State.building_unread (m : Nat) : (s.building c f ls sk r u).resolveMark c m .unread
    = s.building c f ls sk r (u + 1) := by
  unfold State.resolveMark State.modCtx State.modFlow State.building
  simp only [Pair.set_set, Pair.get_set_self, Nat.add_assoc]

variable (hconfig : s.flow.config = some f)

include hconfig

theorem State.building_headFor (l : Locate) : (s.building c f ls sk r u).flow.headFor l = f.headOf l :=
  Flow.headFor_eq (w := (s.building c f ls sk r u).flow) hconfig l

theorem State.building_locateAt (sought : Sought) (a b radius : Nat) :
    (s.building c f ls sk r u).flow.locateAt sought a b radius = f.place sought a b radius := by
  have h : (s.building c f ls sk r u).flow.config = some f := hconfig
  rw [Flow.locateAt, h]
  rfl

/-- A primary taken at list building (R44). -/
theorem State.building_seekPrimary {i : Fin 3} {k : Fiducial} (hk : s.fiducial c i = some k)
    (hfirst : r.fids.get i = ⟨.primary, .pending⟩) : (s.building c f ls sk r u).seekPrimary c i
      = s.building c f (ls ++ [f.primary (i, k)]) sk { r with fids := r.fids.set i (f.firstEntry (i, k)) } u := by
  have hl : (s.building c f ls sk r u).flow.locateAt (.fiducial i) k.u k.v k.radius = f.primary (i, k) :=
    State.building_locateAt hconfig _ _ _ _
  rw [State.seekPrimary, State.building_fiducial, hk]
  dsimp only
  rw [hl, State.building_headFor hconfig]
  cases hhead : f.headOf (f.primary (i, k)) with
  | none =>
    have hentry : f.firstEntry (i, k) = ⟨.primary, .outOfField⟩ := by rw [StationConfig.firstEntry, hhead]
    rw [hentry, ← State.building_none hhead, ← State.building_setFid]
  | some p =>
    have hentry : f.firstEntry (i, k) = r.fids.get i := by rw [StationConfig.firstEntry, hhead, hfirst]
    rw [hentry, Triple.set_get_self]
    exact State.building_listLocate hhead

/-- A placement taken at list building (R44). -/
theorem State.building_seekPlacement (i : Nat) (p : Placement) :
    (s.building c f ls sk r u).seekPlacement c i p
      = s.building c f (ls ++ f.marksFrom (s.ctx c).exclusions i [p]) (skippedFrom (s.ctx c).exclusions i [p] sk) r
          (u + (f.marksFrom (s.ctx c).exclusions i [p]).countP (fun l => f.headOf l = none)) := by
  have hexclusions : ((s.building c f ls sk r u).ctx c).exclusions = (s.ctx c).exclusions := by
    rw [State.building_ctx]
  rw [State.seekPlacement, hexclusions]
  simp only [StationConfig.marksFrom, skippedFrom, List.append_nil]
  by_cases hexcluded : excludes (s.ctx c).exclusions i = true
  · rw [if_pos hexcluded, if_pos hexcluded, if_pos hexcluded, List.append_nil]
    rfl
  · rw [if_neg hexcluded, if_neg hexcluded, if_neg hexcluded]
    cases p.mark with
    | none =>
      rw [Option.map_none, Option.toList_none, List.append_nil]
      rfl
    | some m =>
      dsimp only
      rw [Option.map_some, Option.toList_some, State.building_locateAt hconfig, State.building_headFor hconfig,
        List.countP_singleton]
      cases hhead : f.headOf (f.place (.mark i) m.u m.v m.radius) with
      | none => exact (State.building_unread i).trans (State.building_none hhead)
      | some p => exact State.building_listLocate hhead

/-- The placements taken at list building (R44). -/
theorem State.building_seekPlacements (ps : List Placement) (i : Nat) :
    (s.building c f ls sk r u).seekPlacements c i ps
      = s.building c f (ls ++ f.marksFrom (s.ctx c).exclusions i ps) (skippedFrom (s.ctx c).exclusions i ps sk) r
          (u + (f.marksFrom (s.ctx c).exclusions i ps).countP (fun l => f.headOf l = none)) := by
  induction ps generalizing i ls sk u with
  | nil =>
    rw [State.seekPlacements, StationConfig.marksFrom, skippedFrom, List.append_nil]
    rfl
  | cons p ps ih =>
    have hmarks : f.marksFrom (s.ctx c).exclusions i (p :: ps) = f.marksFrom (s.ctx c).exclusions i [p]
        ++ f.marksFrom (s.ctx c).exclusions (i + 1) ps := by
      simp only [StationConfig.marksFrom, List.append_nil]
    rw [State.seekPlacements, State.building_seekPlacement hconfig, ih, hmarks, List.append_assoc,
      List.countP_append, Nat.add_assoc]
    rfl

/-- A primary out of field at list building (R44, R48). -/
theorem State.building_seekOutOfField {i : Fin 3} {k : Fiducial} (hk : s.fiducial c i = some k)
    (hfirst : r.fids.get i = f.firstEntry (i, k)) : (s.building c f ls sk r u).seekOutOfField c i
      = s.building c f (ls ++ (f.second (i, k)).toList) sk
          { r with fids := r.fids.set i (f.lastEntry (i, k)) } u := by
  have hk' : (s.building c f ls sk r u).fiducial c i = some k := (State.building_fiducial i).trans hk
  rw [State.seekOutOfField, State.building_fidEntry]
  cases hhead : f.headOf (f.primary (i, k)) with
  | some p =>
    have hpending : r.fids.get i = ⟨.primary, .pending⟩ := by
      rw [hfirst, StationConfig.firstEntry, hhead]
    have hentry : f.lastEntry (i, k) = r.fids.get i := by
      rw [StationConfig.lastEntry, hhead, hpending]
    have hsecond : f.second (i, k) = none := if_neg (by rw [hhead]; exact Option.some_ne_none p)
    rw [if_neg (by rw [hpending]; decide), hentry, Triple.set_get_self, hsecond, Option.toList_none,
      List.append_nil]
  | none =>
    have hlost : r.fids.get i = ⟨.primary, .outOfField⟩ := by
      rw [hfirst, StationConfig.firstEntry, hhead]
    have hsearched : ((s.building c f ls sk r u).fidEntry c i).searched = .primary := by
      rw [State.building_fidEntry, hlost]
    have hsecond : f.second (i, k) = f.alternate (i, k) := if_pos hhead
    rw [if_pos hlost, hsecond]
    cases halternate : k.alternate with
    | none =>
      have hnone : f.alternate (i, k) = none := by rw [StationConfig.alternate, halternate]; rfl
      have hentry : f.lastEntry (i, k) = ⟨.primary, .outOfField⟩ := by
        rw [StationConfig.lastEntry, hhead, hnone]
      rw [State.resolveFiducial_recorded hk' (.inr (.inr halternate)), hsearched, State.building_setFid,
        hnone, hentry, Option.toList_none, List.append_nil]
    | some a =>
      have hsome : f.alternate (i, k) = some (f.place (.fiducial i) a.1 a.2 k.radius) := by
        rw [StationConfig.alternate, halternate]
        rfl
      rw [State.resolveFiducial_sought hk' rfl hsearched halternate, State.seekAlternate,
        State.building_locateAt hconfig, hsome, Option.toList_some,
        State.building_headFor hconfig, State.building_setFid, State.building_setFid]
      cases hsecondHead : f.headOf (f.place (.fiducial i) a.1 a.2 k.radius) with
      | none =>
        have hentry : f.lastEntry (i, k) = ⟨.alternate, .outOfField⟩ := by
          rw [StationConfig.lastEntry, hhead, hsome]
          exact if_pos hsecondHead
        rw [hentry]
        exact State.building_none hsecondHead
      | some p =>
        have hentry : f.lastEntry (i, k) = ⟨.alternate, .pending⟩ := by
          rw [StationConfig.lastEntry, hhead, hsome]
          exact if_neg (by rw [hsecondHead]; exact Option.some_ne_none p)
        rw [hentry]
        exact State.building_listLocate hsecondHead

end Building

section Passes

variable {s : State} {c : CtxId} {f : StationConfig} {f1 f2 f3 : Fiducial} (hconfig : s.flow.config = some f)
  (hk0 : s.fiducial c 0 = some f1) (hk1 : s.fiducial c 1 = some f2) (hk2 : s.fiducial c 2 = some f3)

include hconfig hk0 hk1 hk2

/-- The three primaries taken (R44). -/
theorem State.building_primaries :
    fiducialIds.foldl (fun s i => s.seekPrimary c i) (s.building c f [] [] AlignRecord.clear 0)
      = s.building c f [f.primary (0, f1), f.primary (1, f2), f.primary (2, f3)] []
          { AlignRecord.clear with
            fids := ⟨f.firstEntry (0, f1), f.firstEntry (1, f2), f.firstEntry (2, f3)⟩ } 0 := by
  rw [fiducialIds, List.foldl_cons, List.foldl_cons, List.foldl_cons, List.foldl_nil,
    State.building_seekPrimary hconfig hk0 rfl, State.building_seekPrimary hconfig hk1 rfl,
    State.building_seekPrimary hconfig hk2 rfl]
  rfl

/-- The alternates of the primaries out of field taken (R44, R48). -/
theorem State.building_alternates (ls : List Locate) (sk : List (Nat × SkipCause)) (u : Nat) :
    fiducialIds.foldl (fun s i => s.seekOutOfField c i) (s.building c f ls sk { AlignRecord.clear with
        fids := ⟨f.firstEntry (0, f1), f.firstEntry (1, f2), f.firstEntry (2, f3)⟩ } u)
      = s.building c f (ls ++ [((0 : Fin 3), f1), (1, f2), (2, f3)].filterMap f.second) sk
          { AlignRecord.clear with
            fids := ⟨f.lastEntry (0, f1), f.lastEntry (1, f2), f.lastEntry (2, f3)⟩ } u := by
  have hsought : [((0 : Fin 3), f1), (1, f2), (2, f3)].filterMap f.second
      = (f.second (0, f1)).toList ++ ((f.second (1, f2)).toList ++ (f.second (2, f3)).toList) := by
    simp only [List.filterMap_cons, List.filterMap_nil]
    cases f.second (0, f1) <;> cases f.second (1, f2) <;> cases f.second (2, f3) <;> rfl
  rw [fiducialIds, List.foldl_cons, List.foldl_cons, List.foldl_cons, List.foldl_nil,
    State.building_seekOutOfField hconfig hk0 rfl, State.building_seekOutOfField hconfig hk1 rfl,
    State.building_seekOutOfField hconfig hk2 rfl, hsought, List.append_assoc, List.append_assoc]
  rfl

end Passes

/-- The lists built for a new panel (R43, R44, R48). -/
theorem State.beginAlignment_eq {s : State} {c : CtxId} {f : StationConfig} {f1 f2 f3 : Fiducial}
    (hconfig : s.flow.config = some f) (hfiducials : (s.slots.get (s.ctx c).slot).fiducials = [f1, f2, f3]) :
    s.beginAlignment c = (s.building c f
      ([f.primary (0, f1), f.primary (1, f2), f.primary (2, f3)]
        ++ f.marksFrom (s.ctx c).exclusions 0 (s.slotOf c).placements
        ++ [((0 : Fin 3), f1), (1, f2), (2, f3)].filterMap f.second)
      (skippedFrom (s.ctx c).exclusions 0 (s.slotOf c).placements [])
      { AlignRecord.clear with fids := ⟨f.lastEntry (0, f1), f.lastEntry (1, f2), f.lastEntry (2, f3)⟩ }
      ((f.marksFrom (s.ctx c).exclusions 0 (s.slotOf c).placements).countP
        (fun l => f.headOf l = none))).startHeads.alignmentTest := by
  have hk0 : s.fiducial c 0 = some f1 := by rw [State.fiducial, State.slotOf, hfiducials]; rfl
  have hk1 : s.fiducial c 1 = some f2 := by rw [State.fiducial, State.slotOf, hfiducials]; rfl
  have hk2 : s.fiducial c 2 = some f3 := by rw [State.fiducial, State.slotOf, hfiducials]; rfl
  have hlists : f.listsOf [] = Quad.all [] := Quad.ext_get _ _ fun p => by
    rw [f.listsOf_get, Quad.get_all]
    rfl
  have hstart : s.modAlign (fun a => { a with
      aligning := some c, lists := Quad.all [], inFlight := Quad.all none, skipped := []
      records := a.records.set c AlignRecord.clear }) = s.building c f [] [] AlignRecord.clear 0 := by
    rw [State.building, hlists, Nat.add_zero]
    show _ = { s with
      align := { s.align with
        aligning := some c, lists := Quad.all [], inFlight := Quad.all none, skipped := []
        records := s.align.records.set c AlignRecord.clear }
      flow := { s.flow with ctxs := s.flow.ctxs.set c (s.flow.ctxs.get c) } }
    rw [Pair.set_get_self]
    rfl
  dsimp only [State.beginAlignment]
  rw [hstart, State.building_primaries hconfig hk0 hk1 hk2, State.building_seekPlacements hconfig,
    State.building_alternates hconfig hk0 hk1 hk2, Nat.zero_add]

/-- Settles O47: the locate lists of a new panel and the start of a head on its list. -/
theorem locateListsAreBuilt : Obligations.LocateListsAreBuilt := by
  refine ⟨fun s p => ⟨fun l rest f hidle hlist hconfig => State.startHead_of hidle hlist hconfig,
    State.startHead_idle⟩, fun s => rfl, ?_⟩
  intro s c f f1 f2 f3 hconfig hfiducials x place head fids primary alternate excluded ps
  have hexcluded (i : Nat) : excludes x.exclusions i = true ↔ excluded i := excludes_iff _ i
  have hget (i : Nat) := mapGet_skippedFrom (e := x.exclusions) ps 0 i []
  refine ⟨f.marksFrom x.exclusions 0 ps, skippedFrom x.exclusions 0 ps [], _, _,
    State.beginAlignment_eq hconfig hfiducials, fun l => ?_, marksFrom_pairwise ps 0,
    mapWf_skippedFrom ps 0 [] List.Pairwise.nil, fun i => ?_, fun i => ?_, fun p => ?_, fun i hi => ?_, rfl⟩
  · refine (mem_marksFrom ps 0).trans ?_
    simp only [Nat.zero_add, hexcluded]
    rfl
  · rw [hget i, Nat.zero_add, ← hexcluded]
    split
    · rename_i h
      exact iff_of_true rfl h.2
    · rename_i h
      exact iff_of_false (by simp [mapGet]) fun hi => h ⟨Nat.zero_le i, hi⟩
  · rw [hget i]
    split <;> simp [mapGet]
  · exact f.listsOf_get _ p
  · rw [List.mem_cons, List.mem_cons, List.mem_singleton] at hi
    rcases hi with rfl | rfl | rfl
    · rfl
    · rfl
    · rfl

end Sys2Proof.Machine
end

section
/-! Proofs. The addition of a tile's samples (R57, R68, R97, R98). -/

namespace Sys2Proof.Machine

open Sys2Proof

/-! ### One sample added to one accumulator (R97, R98) -/

/-- A sample of a tile: its column, its row and its height code. -/
abbrev SamplePlace := Int × Int × Int

/-- The rectangle holds a sample. -/
def Rect.holds (g : Rect) (q : SamplePlace) : Bool :=
  decide (g.i0 ≤ q.1 ∧ q.1 ≤ g.i1 ∧ g.j0 ≤ q.2.1 ∧ q.2.1 ≤ g.j1)

theorem Rect.contains_eq (g : Rect) (q : SamplePlace) : g.contains q.1 q.2.1 = g.holds q := by
  simp only [Rect.contains, Rect.holds, Bool.decide_and, Bool.and_assoc]

/-- The height of a sample above the panel's plane (R57, R97). -/
def Plane.relief (pl : Plane) (P : Nat) (q : SamplePlace) : Int :=
  q.2.2 - (pl.z1 + roundDiv (pl.gx * (q.1 * P - pl.x1) + pl.gy * (q.2.1 * P - pl.y1)) 1048576)

/-- The sample is valid (R68). -/
def SamplePlace.valid (q : SamplePlace) : Bool := decide (q.2.2 ≠ -32768)

theorem relativeHeight_eq (pl : Plane) (P : Nat) (q : SamplePlace) :
    relativeHeight pl P q.1 q.2.1 q.2.2 = if SamplePlace.valid q then some (pl.relief P q) else none := by
  unfold relativeHeight SamplePlace.valid
  by_cases h : q.2.2 = -32768
  · simp [h]
  · simp [h, Plane.relief, Plane.height]

/-- The greatest height once one more is seen (R97). -/
def maxSeen (m : Option Int) (h : Int) : Option Int := some (m.elim h (fun k => max k h))

/-- What a sample of the pad adds (R97). -/
theorem Accumulator.addPad_eq (cl : ClassRecord) (r : Rect) (i j : Int) (h : Option Int) (a : Accumulator) :
    a.addPad cl r i j h = { a with
      padTot := a.padTot + 1
      padVal := a.padVal + if h.isSome then 1 else 0
      padSum := a.padSum + h.getD 0
      padMax := h.elim a.padMax (maxSeen a.padMax)
      padHi := a.padHi + if h.any (fun v => decide ((cl.tHi : Int) ≤ v)) then 1 else 0
      padSx := a.padSx + if h.any (fun v => decide ((cl.tHi : Int) ≤ v)) then i - r.i0 else 0
      padSy := a.padSy + if h.any (fun v => decide ((cl.tHi : Int) ≤ v)) then j - r.j0 else 0 } := by
  cases h with
  | none => simp [Accumulator.addPad]
  | some v =>
    by_cases hv : (cl.tHi : Int) ≤ v
    · cases hm : a.padMax <;> simp [Accumulator.addPad, hv, hm, maxSeen]
    · cases hm : a.padMax <;> simp [Accumulator.addPad, hv, hm, maxSeen]

/-- What a sample of the collar adds (R98). -/
theorem Accumulator.addCollar_eq (cl : ClassRecord) (h : Option Int) (a : Accumulator) :
    a.addCollar cl h = { a with
      collarTot := a.collarTot + 1
      collarVal := a.collarVal + if h.any (fun v => decide (v ≤ (cl.collarCeiling : Int))) then 1 else 0
      collarSum := a.collarSum
        + if h.any (fun v => decide (v ≤ (cl.collarCeiling : Int))) then h.getD 0 else 0 } := by
  cases h with
  | none => simp [Accumulator.addCollar]
  | some v => by_cases hv : v ≤ (cl.collarCeiling : Int) <;> simp [Accumulator.addCollar, hv]

/-- What a sample of the gap adds (R98). -/
theorem Accumulator.addGap_eq (cl : ClassRecord) (h : Option Int) (a : Accumulator) :
    a.addGap cl h = { a with
      gapTot := a.gapTot + 1
      gapHi := a.gapHi + if h.any (fun v => decide ((cl.bridgeThreshold : Int) ≤ v)) then 1 else 0 } := by
  cases h with
  | none => simp [Accumulator.addGap]
  | some v => by_cases hv : (cl.bridgeThreshold : Int) ≤ v <;> simp [Accumulator.addGap, hv]

/-- What a sample adds to an accumulator: to its pad or else its collar, and to its gap (R97). -/
theorem Accumulator.addSample_eq (cl : ClassRecord) (e : ArmedJoint) (i j : Int) (h : Option Int)
    (a : Accumulator) : a.addSample cl e i j h =
      let p := e.pad.contains i j
      let o := !p && e.outer.contains i j
      let g := e.gap.any (fun r => r.contains i j)
      { a with
        padTot := a.padTot + if p then 1 else 0
        padVal := a.padVal + if p && h.isSome then 1 else 0
        padSum := a.padSum + if p then h.getD 0 else 0
        padMax := if p then h.elim a.padMax (maxSeen a.padMax) else a.padMax
        padHi := a.padHi + if p && h.any (fun v => decide ((cl.tHi : Int) ≤ v)) then 1 else 0
        padSx := a.padSx + if p && h.any (fun v => decide ((cl.tHi : Int) ≤ v)) then i - e.pad.i0 else 0
        padSy := a.padSy + if p && h.any (fun v => decide ((cl.tHi : Int) ≤ v)) then j - e.pad.j0 else 0
        collarTot := a.collarTot + if o then 1 else 0
        collarVal := a.collarVal
          + if o && h.any (fun v => decide (v ≤ (cl.collarCeiling : Int))) then 1 else 0
        collarSum := a.collarSum
          + if o && h.any (fun v => decide (v ≤ (cl.collarCeiling : Int))) then h.getD 0 else 0
        gapTot := a.gapTot + if g then 1 else 0
        gapHi := a.gapHi
          + if g && h.any (fun v => decide ((cl.bridgeThreshold : Int) ≤ v)) then 1 else 0 } := by
  have hgap (b : Accumulator) : (match e.gap with
      | some g => if g.contains i j then b.addGap cl h else b
      | none => b) = { b with
        gapTot := b.gapTot + if e.gap.any (fun r => r.contains i j) then 1 else 0
        gapHi := b.gapHi + if e.gap.any (fun r => r.contains i j)
          && h.any (fun v => decide ((cl.bridgeThreshold : Int) ≤ v)) then 1 else 0 } := by
    cases e.gap with
    | none => simp
    | some r => by_cases hr : r.contains i j <;> simp [hr, Accumulator.addGap_eq]
  refine (hgap _).trans ?_
  cases e.pad.contains i j with
  | true => simp [Accumulator.addPad_eq]
  | false => cases e.outer.contains i j <;> simp [Accumulator.addCollar_eq]

/-! ### Many samples added (R97, R98) -/

section Fold

variable {α : Type} {step : α → SamplePlace → α} {w : SamplePlace → Bool}

theorem foldl_gain_count {F : α → Nat} (h : ∀ a q, F (step a q) = F a + if w q then 1 else 0)
    (qs : List SamplePlace) (a : α) : F (qs.foldl step a) = F a + (qs.filter w).length := by
  induction qs generalizing a with
  | nil => rfl
  | cons q qs ih =>
    rw [List.foldl_cons, ih, h, List.filter_cons]
    split
    · rw [List.length_cons]
      omega
    · omega

theorem foldl_gain_sum {F : α → Int} {v : SamplePlace → Int}
    (h : ∀ a q, F (step a q) = F a + if w q then v q else 0) (qs : List SamplePlace) (a : α) :
    F (qs.foldl step a) = F a + ((qs.filter w).map v).sum := by
  induction qs generalizing a with
  | nil => simp
  | cons q qs ih =>
    rw [List.foldl_cons, ih, h, List.filter_cons]
    split
    · rw [List.map_cons, List.sum_cons]
      omega
    · omega

theorem foldl_gain_max {F : α → Option Int} {v : SamplePlace → Int}
    (h : ∀ a q, F (step a q) = if w q then maxSeen (F a) (v q) else F a) (qs : List SamplePlace) (a : α) :
    F (qs.foldl step a) = ((qs.filter w).map v).foldl maxSeen (F a) := by
  induction qs generalizing a with
  | nil => rfl
  | cons q qs ih =>
    rw [List.foldl_cons, ih, h, List.filter_cons]
    split <;> rfl

theorem foldl_gain_keep {β : Type} {F : α → β} (h : ∀ a q, F (step a q) = F a) (qs : List SamplePlace)
    (a : α) : F (qs.foldl step a) = F a := by
  induction qs generalizing a with
  | nil => rfl
  | cons q qs ih => rw [List.foldl_cons, ih, h]

end Fold

/-- One sample of a tile added for a joint, by its place (R97). -/
def Accumulator.take (cl : ClassRecord) (pl : Plane) (P : Nat) (e : ArmedJoint) (a : Accumulator)
    (q : SamplePlace) : Accumulator :=
  a.addSample cl e q.1 q.2.1 (if SamplePlace.valid q then some (pl.relief P q) else none)

/-- The places of a tile's samples from the n-th on (R68). -/
def samplePlaces (r c n : Nat) (samples : List Int) : List SamplePlace :=
  (samples.zipIdx n).map (fun h => (((c + h.2 % 64 : Nat) : Int), ((4 * r + h.2 / 64 : Nat) : Int), h.1))

theorem samplePlaces_cons (r c n : Nat) (h : Int) (rest : List Int) : samplePlaces r c n (h :: rest)
    = (((c + n % 64 : Nat) : Int), ((4 * r + n / 64 : Nat) : Int), h) :: samplePlaces r c (n + 1) rest := by
  rw [samplePlaces, List.zipIdx_cons, List.map_cons]
  rfl

/-- A tile's samples added are its places taken one after another. -/
theorem addSamples_eq (cl : ClassRecord) (pl : Plane) (P : Nat) (e : ArmedJoint) (r c n : Nat)
    (samples : List Int) (a : Accumulator) :
    addSamples cl pl P e r c n samples a = (samplePlaces r c n samples).foldl (Accumulator.take cl pl P e) a := by
  induction samples generalizing n a with
  | nil => rfl
  | cons h rest ih =>
    rw [addSamples, ih, samplePlaces_cons, List.foldl_cons]
    refine congrArg (fun b => List.foldl _ b _) ?_
    exact congrArg (fun o => a.addSample cl e _ _ o) (relativeHeight_eq pl P (_, _, h))

section Take

variable (cl : ClassRecord) (pl : Plane) (P : Nat) (e : ArmedJoint) (a : Accumulator) (q : SamplePlace)

/-- What a place taken adds to each field (R97, R98). -/
theorem Accumulator.take_eq : Accumulator.take cl pl P e a q =
    let pad := e.pad.holds q
    let collar := e.outer.holds q && !e.pad.holds q
    let gap := e.gap.any (fun g => g.holds q)
    let high := decide ((cl.tHi : Int) ≤ pl.relief P q) && (SamplePlace.valid q && pad)
    let low := decide (pl.relief P q ≤ (cl.collarCeiling : Int)) && (SamplePlace.valid q && collar)
    { a with
      padTot := a.padTot + if pad then 1 else 0
      padVal := a.padVal + if SamplePlace.valid q && pad then 1 else 0
      padSum := a.padSum + if SamplePlace.valid q && pad then pl.relief P q else 0
      padMax := if SamplePlace.valid q && pad then maxSeen a.padMax (pl.relief P q) else a.padMax
      padHi := a.padHi + if high then 1 else 0
      padSx := a.padSx + if high then q.1 - e.pad.i0 else 0
      padSy := a.padSy + if high then q.2.1 - e.pad.j0 else 0
      collarTot := a.collarTot + if collar then 1 else 0
      collarVal := a.collarVal + if low then 1 else 0
      collarSum := a.collarSum + if low then pl.relief P q else 0
      gapTot := a.gapTot + if gap then 1 else 0
      gapHi := a.gapHi + if decide ((cl.bridgeThreshold : Int) ≤ pl.relief P q)
        && (SamplePlace.valid q && gap) then 1 else 0 } := by
  rw [Accumulator.take, Accumulator.addSample_eq]
  simp only [Rect.contains_eq]
  cases SamplePlace.valid q with
  | false => simp [Bool.and_comm]
  | true =>
    cases e.pad.holds q with
    | true => simp [Bool.and_comm]
    | false => simp [Bool.and_comm]

end Take

/-! ### The accumulators that gain a tile's samples (R97) -/

section Pool

variable {s : State} {j : Served} {r c : Nat} {samples : List Int}

theorem State.addTileTo_get_ne {pool : List (Nat × Accumulator)} {o : OpenJoint} {n : Nat} (h : n ≠ o.acc) :
    mapGet n (s.addTileTo j r c samples pool o) = mapGet n pool := by
  unfold State.addTileTo
  split
  · exact mapGet_mapPut_ne _ _ h
  · rfl

theorem State.addTileTo_get_self {pool : List (Nat × Accumulator)} {o : OpenJoint} {a : Accumulator}
    {cl : ClassRecord} (ha : mapGet o.acc pool = some a)
    (hcl : (s.slots.get (s.ctx j.ctx).slot).classes[o.entry.cls]? = some cl) :
    mapGet o.acc (s.addTileTo j r c samples pool o)
      = some (addSamples cl j.plane s.flow.pitch o.entry r c 0 samples a) := by
  have hclass : s.classOf j.ctx o.entry.cls = some cl := hcl
  rw [State.addTileTo, ha, hclass]
  exact mapGet_mapPut_self _ _ _

theorem State.foldl_addTileTo_get_ne (l : List OpenJoint) (pool : List (Nat × Accumulator)) {n : Nat}
    (h : ∀ o ∈ l, o.acc ≠ n) : mapGet n (l.foldl (s.addTileTo j r c samples) pool) = mapGet n pool := by
  induction l generalizing pool with
  | nil => rfl
  | cons o l ih =>
    rw [List.foldl_cons, ih _ (fun o' ho' => h o' (List.mem_cons_of_mem _ ho')),
      State.addTileTo_get_ne (h o List.mem_cons_self).symm]

theorem State.foldl_addTileTo_get (l : List OpenJoint) (pool : List (Nat × Accumulator))
    (hnodup : (l.map OpenJoint.acc).Nodup) {o : OpenJoint} (ho : o ∈ l) {a : Accumulator} {cl : ClassRecord}
    (ha : mapGet o.acc pool = some a)
    (hcl : (s.slots.get (s.ctx j.ctx).slot).classes[o.entry.cls]? = some cl) :
    mapGet o.acc (l.foldl (s.addTileTo j r c samples) pool)
      = some (addSamples cl j.plane s.flow.pitch o.entry r c 0 samples a) := by
  induction l generalizing pool with
  | nil => cases ho
  | cons p l ih =>
    rw [List.map_cons, List.nodup_cons] at hnodup
    obtain ⟨hnew, hnodup⟩ := hnodup
    rw [List.foldl_cons]
    rcases List.mem_cons.mp ho with rfl | hl
    · rw [State.foldl_addTileTo_get_ne l _ fun o' ho' h => hnew (List.mem_map.mpr ⟨o', ho', h⟩),
        State.addTileTo_get_self ha hcl]
    · have hne : o.acc ≠ p.acc := fun h => hnew (List.mem_map.mpr ⟨o, hl, h⟩)
      exact ih _ hnodup hl (by rw [State.addTileTo_get_ne hne, ha])

end Pool

/-- Settles O52: what each field of an accumulator gains, and that the open set's accumulators gain it. -/
theorem samplesAreAdded : Obligations.SamplesAreAdded := by
  refine ⟨?_, fun s j r c samples hnodup => ⟨_, rfl, fun o a cl ho ha hcl => ?_, fun n hn => ?_⟩⟩
  · intro cl pl P e r c samples a b places inside height pad collar gap valid high low
    have hb : b = places.foldl (Accumulator.take cl pl P e) a := addSamples_eq cl pl P e r c 0 samples a
    have hvalid (w : SamplePlace → Bool) : valid (places.filter w)
        = places.filter (fun q => SamplePlace.valid q && w q) := List.filter_filter ..
    have hhigh : high = places.filter (fun q => decide ((cl.tHi : Int) ≤ pl.relief P q)
        && (SamplePlace.valid q && e.pad.holds q)) := by
      rw [← List.filter_filter, ← hvalid]
      rfl
    have hlow : low = places.filter (fun q => decide (pl.relief P q ≤ (cl.collarCeiling : Int))
        && (SamplePlace.valid q && (e.outer.holds q && !e.pad.holds q))) := by
      rw [← List.filter_filter, ← hvalid]
      rfl
    have hmax : (fun (m : Option Int) (h : Int) => some (match m with
        | none => h
        | some k => max k h)) = maxSeen := by
      funext m h
      cases m <;> rfl
    have took (a : Accumulator) (q : SamplePlace) := Accumulator.take_eq cl pl P e a q
    have hpad : valid pad = places.filter (fun q => SamplePlace.valid q && e.pad.holds q) := hvalid _
    have hgap : (valid gap).filter (fun q => decide ((cl.bridgeThreshold : Int) ≤ height q))
        = places.filter (fun q => decide ((cl.bridgeThreshold : Int) ≤ pl.relief P q)
          && (SamplePlace.valid q && e.gap.any (fun g => g.holds q))) := by
      rw [← List.filter_filter, ← hvalid]
      rfl
    rw [hb, hhigh, hlow, hpad, hgap]
    refine ⟨foldl_gain_keep (F := Accumulator.state) (fun a q => by rw [took]) places a,
      foldl_gain_keep (F := Accumulator.holder) (fun a q => by rw [took]) places a,
      foldl_gain_count (F := Accumulator.padTot) (fun a q => congrArg Accumulator.padTot (took a q)) places a,
      foldl_gain_count (F := Accumulator.padVal) (fun a q => congrArg Accumulator.padVal (took a q)) places a,
      foldl_gain_sum (F := Accumulator.padSum) (fun a q => congrArg Accumulator.padSum (took a q)) places a,
      (foldl_gain_max (F := Accumulator.padMax) (fun a q => congrArg Accumulator.padMax (took a q)) places a).trans
        (congrArg (fun g => List.foldl g a.padMax _) hmax.symm),
      foldl_gain_count (F := Accumulator.padHi) (fun a q => congrArg Accumulator.padHi (took a q)) places a,
      foldl_gain_sum (F := Accumulator.padSx) (fun a q => congrArg Accumulator.padSx (took a q)) places a,
      foldl_gain_sum (F := Accumulator.padSy) (fun a q => congrArg Accumulator.padSy (took a q)) places a,
      foldl_gain_count (F := Accumulator.collarTot) (fun a q => congrArg Accumulator.collarTot (took a q)) places a,
      foldl_gain_count (F := Accumulator.collarVal) (fun a q => congrArg Accumulator.collarVal (took a q)) places a,
      foldl_gain_sum (F := Accumulator.collarSum) (fun a q => congrArg Accumulator.collarSum (took a q)) places a,
      foldl_gain_count (F := Accumulator.gapTot) (fun a q => congrArg Accumulator.gapTot (took a q)) places a,
      foldl_gain_count (F := Accumulator.gapHi) (fun a q => congrArg Accumulator.gapHi (took a q)) places a⟩
  · exact State.foldl_addTileTo_get _ _ hnodup ho ha hcl
  · exact State.foldl_addTileTo_get_ne _ _ hn

end Sys2Proof.Machine
end

section
/-! Proofs. Opening, the closing test, the end sweep and the evaluator's next entry (R95, R96, R99, R100, R103,
R106). -/

namespace Sys2Proof.Machine

open Sys2Proof

/-! ### The lowest-numbered FREE accumulator (R96) -/

theorem le_firstGap {α : Type} (l : List (Nat × α)) (n : Nat) : n ≤ firstGap l n := by
  induction l generalizing n with
  | nil => exact le_rfl
  | cons e l ih =>
    rw [firstGap]
    split
    · exact (Nat.le_succ n).trans (ih (n + 1))
    · exact le_rfl

/-- The first gap at or above a number is no key, and every number below it is one. -/
theorem firstGap_spec {α : Type} (l : List (Nat × α)) (n : Nat) (hwf : mapWf l) (hge : ∀ e ∈ l, n ≤ e.1) :
    mapGet (firstGap l n) l = none ∧ ∀ m, n ≤ m → m < firstGap l n → mapGet m l ≠ none := by
  induction l generalizing n with
  | nil => exact ⟨rfl, fun m hle hlt => absurd hlt (Nat.not_lt.mpr hle)⟩
  | cons e l ih =>
    obtain ⟨k, a⟩ := e
    obtain ⟨hhead, htail⟩ := List.pairwise_cons.mp hwf
    rw [firstGap]
    by_cases hk : k = n
    · subst hk
      rw [if_pos rfl]
      obtain ⟨hnone, hkeys⟩ := ih (k + 1) htail hhead
      have hgap := le_firstGap l (k + 1)
      refine ⟨?_, fun m hle hlt => ?_⟩
      · rw [mapGet, if_neg (by omega), hnone]
      · rw [mapGet]
        split
        · exact Option.some_ne_none a
        · exact hkeys m (by omega) hlt
    · rw [if_neg hk]
      refine ⟨(mapGet_eq_none _ _).mpr fun e he => ?_, fun m hle hlt => absurd hlt (Nat.not_lt.mpr hle)⟩
      rcases List.mem_cons.mp he with rfl | he
      · exact hk
      · have hlow := hge (k, a) List.mem_cons_self
        have hhigh := hhead e he
        dsimp only at hlow hhigh
        omega

theorem firstGap_eq {α : Type} {l : List (Nat × α)} (hwf : mapWf l) {n : Nat} (hfree : mapGet n l = none)
    (hbelow : ∀ m, m < n → mapGet m l ≠ none) : firstGap l 0 = n := by
  obtain ⟨hnone, hkeys⟩ := firstGap_spec l 0 hwf fun _ _ => Nat.zero_le _
  refine Nat.le_antisymm (Nat.not_lt.mp fun h => ?_) (Nat.not_lt.mp fun h => ?_)
  · exact hkeys n (Nat.zero_le n) h hfree
  · exact hbelow _ h hnone

section Open

variable {s : State} {c : CtxId} {a : ArmedJoint}

theorem State.openJoint_of_free {n : Nat} (hwf : mapWf s.engine.pool) (hn : n < 1024)
    (hfree : mapGet n s.engine.pool = none) (hbelow : ∀ m, m < n → mapGet m s.engine.pool ≠ none) :
    s.openJoint c a = s.modEngine (fun e => { e with
      pool := mapPut n (Accumulator.fresh c a.joint) e.pool
      openSet := e.openSet ++ [⟨a, n⟩]
      peak := max e.peak (e.pool.length + 1) }) := by
  dsimp only [State.openJoint]
  rw [firstGap_eq hwf hfree hbelow]
  exact if_pos hn

theorem State.openJoint_of_full (hwf : mapWf s.engine.pool)
    (hfull : ∀ n, n < 1024 → mapGet n s.engine.pool ≠ none) :
    s.openJoint c a = (s.modEngine (fun e => { e with exhausted := bump e.exhausted 1 })).writeOff c a.joint
      a.placement a.site .noAccumulator := by
  obtain ⟨hnone, _⟩ := firstGap_spec s.engine.pool 0 hwf fun _ _ => Nat.zero_le _
  exact if_neg fun hlt => hfull _ hlt hnone

/-- The listed joints at or below a front open in order (R95). -/
theorem State.openUpTo_eq {front : Nat} {run rest : List ArmedJoint} (hlist : s.engine.openList = run ++ rest)
    (hrun : ∀ a ∈ run, a.firstBlock ≤ front) (hrest : ∀ a, rest.head? = some a → front < a.firstBlock) :
    s.openUpTo c front = run.foldl (fun s a => s.openJoint c a)
      (s.modEngine (fun e => { e with openList := rest })) := by
  obtain ⟨htake, hdrop⟩ := takeWhile_append_of (fun a : ArmedJoint => decide (a.firstBlock ≤ front)) run rest
    (fun a ha => decide_eq_true (hrun a ha)) (fun a ha => decide_eq_false (Nat.not_le.mpr (hrest a ha)))
  dsimp only [State.openUpTo, State.modEngine]
  rw [hlist, htake, hdrop]

end Open

/-! ### The closing test (R99, R100) -/

section Close

variable {s : State} {j : Served}

theorem State.closingTest_sweep (hscan : s.engine.service = .scanning) (hserved : s.engine.served = some j)
    (hcomplete : s.allComplete = true) {first last : Nat} (hrange : s.engine.scanRange = some (first, last)) :
    s.closingTest = (((s.engine.openList.foldl (fun s a => s.openJoint j.ctx a)
      (s.modEngine (fun e => { e with front := some last, openList := [] }))).closeWhere j.ctx
        (fun _ => true)).modEngine Engine.toIdle).takeEntry := by
  rw [State.closingTest, hscan, hserved]
  refine (if_pos hcomplete).trans ?_
  rw [hrange]

theorem State.closingTest_marks (hscan : s.engine.service = .scanning) (hserved : s.engine.served = some j)
    (hcomplete : ¬ s.allComplete = true) : s.closingTest = (s.closeWhere j.ctx (fun o =>
      o.entry.deps.all (fun p => decide ((o.entry.lastBlock : Int) ≤ s.markOf p)))).takeEntry := by
  rw [State.closingTest, hscan, hserved]
  exact if_neg hcomplete

theorem State.closeWhere_all (c : CtxId) : s.closeWhere c (fun _ => true)
    = s.engine.openSet.foldl (fun s o => s.closeJoint c o)
        (s.modEngine (fun e => { e with openSet := [] })) := by
  dsimp only [State.closeWhere]
  rw [List.filter_true]
  simp only [Bool.not_true, List.filter_false]

theorem isShort_iff (e : ArmedJoint) (a : Accumulator) : isShort e a = true ↔
    a.padTot < e.nExpPad ∨ a.collarTot < e.nExpCollar ∨ a.gapTot < e.nExpGap := by
  simp [isShort, or_assoc]

end Close

/-- Settles O51: opening in list order, the closing test, the end sweep and the evaluator's next entry. -/
theorem jointsOpenAndClose : Obligations.JointsOpenAndClose := by
  refine ⟨?_, ?_, ?_, ?_, ?_, ?_, ?_, ?_⟩
  · intro s c a hwf held
    refine ⟨fun n hn hfree hbelow => ?_, fun hfull => State.openJoint_of_full hwf hfull⟩
    exact State.openJoint_of_free hwf hn (not_not.mp hfree) hbelow
  · intro s c joint placement site cause x hunset
    dsimp only [State.writeOff]
    rw [State.modCtx_eq (Context.write_unset _ _ _ hunset)]
    rfl
  · intro s c r run rest front hlist hrun hrest
    have hfront : advanceFront s.engine.front r = front := rfl
    dsimp only [State.openingStep]
    rw [hfront]
    exact State.openUpTo_eq hlist hrun hrest
  · intro s j hscan hserved c complete
    have hcomplete : s.allComplete = true ↔ complete := s.allComplete_iff
    refine ⟨fun hopen closes hcloses => ?_, fun first last hover hrange => ?_⟩
    · have hp : (fun o : OpenJoint => o.entry.deps.all
          (fun p => decide ((o.entry.lastBlock : Int) ≤ s.markOf p))) = closes := by
        funext o
        rw [Bool.eq_iff_iff, hcloses o]
        simp [List.all_eq_true]
      rw [State.closingTest_marks hscan hserved (hcomplete.not.mpr hopen), hp]
      rfl
    · intro opened closed
      rw [State.closingTest_sweep hscan hserved (hcomplete.mpr hover) hrange, State.closeWhere_all]
      rfl
  · intro s p r hr
    rw [State.markOf, hr]
  · intro s c o a ha e short
    have hshort : bump s.engine.shortJoints (if isShort o.entry a then 1 else 0)
        = if short then bump s.engine.shortJoints 1 else bump s.engine.shortJoints 0 :=
      (apply_ite (bump s.engine.shortJoints) _ _ _).trans (if_congr (isShort_iff e a) rfl rfl)
    rw [State.closeJoint, ha, ← hshort]
    rfl
  · intro s e rest cl a hidle hqueue hcl ha
    have hclass : s.classOf e.ctx e.cls = some cl := hcl
    rw [State.takeEntry, hidle, hqueue]
    dsimp only
    rw [hclass]
    dsimp only [State.modEvaluator, State.modEngine]
    rw [ha]
  · intro s h
    unfold State.takeEntry
    split
    · rename_i e rest hidle hqueue
      rw [hidle, hqueue] at h
      rcases h with h | h
      · exact absurd rfl h
      · cases h
    · rfl

end Sys2Proof.Machine
end

section
/-! Proofs. The intake of one item and the grants of the arbiter (O53). -/

namespace Sys2Proof.Machine
open Sys2Proof

/-! ### The progress step -/

/-- The end records of a list, told apart by the model's `!=` or by `≠`. -/
theorem filter_endRecord (l : List IntakeItem) :
    l.filter (fun i => i != .endRecord) = l.filter (fun i => i ≠ .endRecord) :=
  List.filter_congr (fun i _ => by cases i <;> rfl)

/-- The port's part of the progress step: its mark moves, and with the last row block it is DONE (R75). -/
theorem Port.progress_eq (x : Port) (r : ScanRecord) (place : Option (Nat × Nat)) (mark : Int)
    (hrec : x.record = some r) (hmark : r.markAfter place = mark) :
    x.progress place =
      if (x.scan = .receiving ∨ x.scan = .ending) ∧ mark = r.last then
        { x with record := some { r with mark := mark }, scan := .done, tileTimer := none
                 intake := x.intake.filter (fun i => i ≠ .endRecord) }
      else { x with record := some { r with mark := mark } } := by
  subst hmark
  have hmoved : x.modRecord (fun r => { r with mark := r.markAfter place }) =
      { x with record := some { r with mark := r.markAfter place } } := by
    simp only [Port.modRecord, hrec, Option.map_some]
  have hcomplete : ({ x with record := some { r with mark := r.markAfter place } } : Port).complete = true ↔
      r.markAfter place = r.last := by
    simp [Port.complete]
  unfold Port.progress Port.doneTest
  rw [hmoved, ← filter_endRecord]
  exact if_congr (and_congr_right fun _ => hcomplete) rfl rfl

/-! ### The operation -/

/-- The end of an operation: the pool of its item FREE and the path free, and the end of the scan tested
(R74). -/
theorem State.releaseIntake_eq (u : State) : u.releaseIntake = ({ u with
    ports := u.arbiter.freedPorts u.ports
    arbiter := { u.arbiter with inIntake := none } } : State).scanEndTest := by
  simp only [State.releaseIntake, State.abandonIntake, State.freeIntakePool_eq, State.modArbiter]

/-- INTAKE_COMPLETE while the engine is SCANNING: the steps of the operation, then its end (R94). -/
theorem execIntakeComplete_scanning {s : State} {p : PortId} {item : IntakeItem} {job : Served}
    (hin : s.arbiter.inIntake = some (p, item)) (hservice : s.engine.service = .scanning)
    (hserved : s.engine.served = some job) :
    exec .intakeComplete s = .next (s.intakeSteps job p item).releaseIntake.grant.pump := by
  simp only [exec, execIntakeComplete, hin, hservice, hserved]

/-- INTAKE_COMPLETE while the engine is not SCANNING: no step is taken (R94). -/
theorem execIntakeComplete_idle {s : State} {q : PortId × IntakeItem}
    (hin : s.arbiter.inIntake = some q)
    (hidle : s.engine.service ≠ .scanning ∨ s.engine.served = none) :
    exec .intakeComplete s = .next s.releaseIntake.grant.pump := by
  obtain ⟨p, item⟩ := q
  simp only [exec, execIntakeComplete, hin]
  split
  · rename_i job hservice hserved
    rcases hidle with h | h
    · exact absurd hservice h
    · simp [hserved] at h
  · rfl

/-- The steps of an operation: those of the item, the progress step of its port, and the closing test. -/
theorem State.intakeSteps_eq (s : State) (job : Served) (p : PortId) (item : IntakeItem) :
    s.intakeSteps job p item = ({ s.itemSteps job p item with
      ports := (s.itemSteps job p item).ports.set p
        (((s.itemSteps job p item).ports.get p).progress (s.itemPlace p item)) } : State).closingTest := rfl

/-! ### The end of the scan -/

/-- The end of the scan moves the context in SCANNING, the lower-numbered of two (R78). -/
theorem State.scanEndTest_of {s : State} {c : CtxId} (hover : s.scanOver = true)
    (hscan : (s.ctx c).state = .scanning) (hlow : ∀ b, b < c → (s.ctx b).state ≠ .scanning) :
    s.scanEndTest = s.enterJudging c := by
  have hfind : s.flow.findCtx (fun x => x.state == .scanning) = some c :=
    Flow.findCtx_eq_some _ _ c (by simpa [State.ctx] using hscan) (fun b hb => by simpa [State.ctx] using hlow b hb)
  simp only [State.scanEndTest, hover, if_true, hfind]

/-- With a port still scanning, or no context SCANNING, the test moves nothing (R78). -/
theorem State.scanEndTest_of_not {s : State} (h : ¬ s.scanOver = true ∨ ∀ c, (s.ctx c).state ≠ .scanning) :
    s.scanEndTest = s := by
  unfold State.scanEndTest
  rcases h with hover | hnone
  · rw [if_neg hover]
  · have hfind : s.flow.findCtx (fun x => x.state == .scanning) = none :=
      Flow.findCtx_eq_none _ _ (fun c => by simpa [State.ctx] using hnone c)
    rw [hfind]
    exact ite_self s

/-! ### The grant -/

/-- While an item is in intake the arbiter grants nothing (R73). -/
theorem State.grant_of_busy {s : State} (h : s.arbiter.inIntake ≠ none) : s.grant = s := by
  obtain ⟨q, hq⟩ := Option.ne_none_iff_exists'.mp h
  unfold State.grant
  cases s.itemsWaiting with
  | zero => rfl
  | succ n => simp only [State.grantUpTo, hq]

/-- With no item waiting the arbiter grants nothing (R73). -/
theorem State.grant_of_empty {s : State} (h : ∀ p, (s.ports.get p).intake = []) : s.grant = s := by
  unfold State.grant
  cases s.itemsWaiting with
  | zero => rfl
  | succ n =>
    rw [State.grantUpTo, s.nextPort_eq_none h]
    cases s.arbiter.inIntake <;> rfl

/-- A grant changes nothing of the window engine. -/
theorem State.grantPort_engine_eq (s : State) (p : PortId) : (s.grantPort p).engine = s.engine := by
  simp

/-- A grant while the engine is SCANNING stands (R73). -/
theorem State.grant_scanning {s : State} {p : PortId} {item : IntakeItem} {rest : List IntakeItem}
    (hfree : s.arbiter.inIntake = none) (hp : s.nextPort = some p)
    (hlist : (s.ports.get p).intake = item :: rest) (hservice : s.engine.service = .scanning) :
    s.grant = s.grantPort p := by
  have hcount := s.itemsWaiting_cons { s with ports := s.ports.set p { s.ports.get p with intake := rest } }
    p item rest (s.ports.get p).pools hlist rfl
  rw [s.grant_of_nextPort p _ hfree hp hcount, if_pos (by rw [s.grantPort_engine_eq]; exact hservice)]

/-- A grant while the engine is not SCANNING completes at once, and the search goes on (R94). -/
theorem State.grant_not_scanning {s : State} {p : PortId} {item : IntakeItem} {rest : List IntakeItem}
    (hfree : s.arbiter.inIntake = none) (hp : s.nextPort = some p)
    (hlist : (s.ports.get p).intake = item :: rest) (hservice : s.engine.service ≠ .scanning) :
    s.grant = (s.grantPort p).releaseIntake.grant := by
  have hports := s.grantPort_releaseIntake p item rest hlist
  have hcount := s.itemsWaiting_cons (s.grantPort p).releaseIntake p item rest
    ((s.grantPort p).releaseIntake.ports.get p).pools hlist (by simp [hports])
  rw [s.grant_of_nextPort p _ hfree hp hcount, if_neg (by rw [s.grantPort_engine_eq]; exact hservice)]
  rfl

/-- Settles O53: the steps of an item's intake, the end of the scan, and the grant in and outside
SCANNING. -/
theorem itemIsTakenIn : Obligations.ItemIsTakenIn := by
  unfold Obligations.ItemIsTakenIn
  intro freed
  have hfreed : ∀ u : State, freed u = u.releaseIntake := by
    intro u
    rw [u.releaseIntake_eq]
    rfl
  refine ⟨?_, ?_, ?_, ?_, ?_⟩
  · intro s p item r job hin hservice hserved hrec
    rw [execIntakeComplete_scanning hin hservice hserved]
    intro pools place t mark x y z
    have ht : s.itemSteps job p item = t := by cases item <;> rfl
    have hplace : s.itemPlace p item = place := by cases item <;> rfl
    have hmark : r.markAfter place = mark := by cases item <;> rfl
    have hx : x.record = some r := by
      rw [← hrec]
      exact congrArg (fun q : Quad Port => (q.get p).record) (ht ▸ s.itemSteps_ports job p item)
    have hz : x.progress place = z := x.progress_eq r place mark hx hmark
    rw [hfreed, s.intakeSteps_eq, ht, hplace]
    exact congrArg (fun w : Port => (.next ((({ t with ports := t.ports.set p w } : State).closingTest
      ).releaseIntake.grant).pump : Result)) hz
  · intro s q hin hidle
    rw [execIntakeComplete_idle hin hidle, hfreed]
  · intro s hin
    simp only [exec, execIntakeComplete, hin]
  · intro s ended
    refine ⟨?_, ?_⟩
    · intro c hended hscan hlow
      rw [State.scanEndTest_of (s.scanOver_iff.mpr hended) hscan hlow]
      exact s.enterJudging_eq c
    · intro h
      exact State.scanEndTest_of_not (h.imp_left (fun hn => fun ho => hn (s.scanOver_iff.mp ho)))
  · intro s
    refine ⟨fun h => h.elim State.grant_of_busy State.grant_of_empty, ?_⟩
    intro p item rest hfree hlist hturn pools
    have hp := s.nextPort_eq_some p item rest hlist hturn
    refine ⟨fun hservice => ?_, fun hservice => ?_⟩
    · rw [State.grant_scanning hfree hp hlist hservice, s.grantPort_eq p item rest hlist] <;> rfl
    · rw [State.grant_not_scanning hfree hp hlist hservice, s.grantPort_releaseIntake p item rest hlist] <;> rfl

end Sys2Proof.Machine
end

section
/-! Proofs. Arming: the visit of a joint, the open-order list, and the completion with its scan start (R85 to
R92, R66). -/

namespace Sys2Proof.Machine

open Sys2Proof

/-! ### Records handed to the log, and reports -/

section
variable {s : State} {c : CtxId}

/-- Of the context a record is handed for, at most the count of lost records changes (R159). -/
theorem State.logRecord_ctx (r : LogRecord) : ∃ n, (s.logRecord c r).ctx c = { s.ctx c with lostLog := n } := by
  have hkept : s.ctx c = { s.ctx c with lostLog := (s.ctx c).lostLog } := rfl
  have hcounted : (s.modCtx c (fun x => { x with lostLog := x.lostLog + 1 })).ctx c =
      { s.ctx c with lostLog := (s.ctx c).lostLog + 1 } := Pair.get_set_self _ _ _
  dsimp only [State.logRecord, State.dropRecord]
  split
  · split
    · split
      · exact ⟨_, hkept⟩
      · exact ⟨_, hcounted⟩
    · split
      · exact ⟨_, hkept⟩
      · exact ⟨_, hcounted⟩
  · split
    · exact ⟨_, hkept⟩
    · exact ⟨_, hkept⟩

/-- Outside JUDGING a report of a complete table leaves its WAITING record COMPLETE (R110, R125). -/
theorem State.reportComplete_outside (h : (s.ctx c).state ≠ .judging) :
    s.reportComplete c =
      if (s.ctx c).unset = 0 ∧ s.decision.records.get c = .waiting then s.setDecision c .complete else s := by
  unfold State.reportComplete
  rw [if_neg h]

/-- The report that follows one write outside JUDGING: the record is COMPLETE when no entry is left UNSET
(R110, R125). -/
theorem State.reportComplete_written {w : State} (hunset : (w.ctx c).unset = (s.ctx c).unset - 1)
    (hstate : (w.ctx c).state ≠ .judging) (hdecision : w.decision = s.decision) :
    w.reportComplete c =
      if (s.ctx c).unset ≤ 1 ∧ s.decision.records.get c = .waiting then w.setDecision c .complete else w := by
  rw [State.reportComplete_outside hstate, hunset, hdecision]
  exact if_congr (and_congr_left fun _ => by omega) rfl rfl

end

/-! ### What arming makes of a joint (R85 to R89) -/

/-- The outer rectangle of a joint: its pad rectangle widened by the collar margin (R85). -/
def Placement.outerRect (p : Placement) (P : Nat) (t : Transform) (k : Site) (margin : Nat) : Rect :=
  rectAbout P (t.map (p.point k.bu k.bv)) (k.hx + margin) (k.hy + margin)

/-- The gap rectangle of a joint, where its site has one (R85). -/
def Placement.gapRect (p : Placement) (P : Nat) (t : Transform) (k : Site) : Option Rect :=
  k.gap.map (fun g => rectAbout P (t.map (p.point g.u g.v)) g.hx g.hy)

/-- The bound of a span taken over the outer rectangle and, where there is one, the gap rectangle (R86). -/
def spanBound (f : Int → Int → Int) (side : Rect → Int) (outer : Rect) (gap : Option Rect) : Int :=
  gap.elim (side outer) (fun r => f (side outer) (side r))

/-- The entry of the open-order list that a joint with every rectangle in the field becomes (R86, R88). -/
def Placement.entry (p : Placement) (P : Nat) (ranges : List OwnedRange) (t : Transform)
    (margin joint pi si : Nat) (k : Site) : ArmedJoint :=
  let pad := p.outerRect P t k 0
  let outer := p.outerRect P t k margin
  let gap := p.gapRect P t k
  { joint := joint, placement := pi, site := si, cls := k.cls, pad := pad, outer := outer, gap := gap
    nExpPad := pad.count, nExpCollar := outer.count - pad.count, nExpGap := gap.elim 0 Rect.count
    firstBlock := (floorDiv (spanBound min Rect.j0 outer gap) 4).toNat
    lastBlock := (floorDiv (spanBound max Rect.j1 outer gap) 4).toNat
    deps := dependencies ranges (spanBound min Rect.i0 outer gap) (spanBound max Rect.i1 outer gap) }

/-- The fold of the model over the rectangles of a joint is the bound of their span. -/
theorem foldl_rects_eq_spanBound {f : Int → Int → Int} (hf : ∀ a, f a a = a) (side : Rect → Int) (outer : Rect)
    (gap : Option Rect) :
    (outer :: gap.toList).foldl (fun a r => f a (side r)) (side outer) = spanBound f side outer gap := by
  cases gap <;> simp [spanBound, hf]

section
variable {P : Nat} {ranges : List OwnedRange} {t : Transform} {region : Option Region}
  {margin joint pi si : Nat} {p : Placement} {k : Site}

/-- A joint whose pad centre lies outside the region is skipped (R88, step 1). -/
theorem armJoint_of_region (h : region.any (fun r => !r.admits (p.point k.bu k.bv)) = true) :
    armJoint P ranges t region margin joint pi si p k = .skipped .outOfRegion :=
  if_pos h

/-- The field check of R89 over the rectangles of a joint. -/
theorem rects_inField_iff {outer : Rect} {gap : Option Rect} :
    (outer :: gap.toList).all (fun r => r.inField ranges) = true ↔
      outer.inField ranges = true ∧ ∀ r, gap = some r → r.inField ranges = true := by
  cases gap <;> simp

/-- A joint with a rectangle out of the field is out of field (R89). -/
theorem armJoint_of_outOfField (hregion : ¬ region.any (fun r => !r.admits (p.point k.bu k.bv)) = true)
    (hfield : ¬ ((p.outerRect P t k margin).inField ranges = true ∧
      ∀ r, p.gapRect P t k = some r → r.inField ranges = true)) :
    armJoint P ranges t region margin joint pi si p k = .outOfField :=
  (if_neg hregion).trans (if_neg (fun h => hfield (rects_inField_iff.mp h)))

/-- A joint with every rectangle in the field is listed, with the numbers of R86 and R88. -/
theorem armJoint_of_inField (hregion : ¬ region.any (fun r => !r.admits (p.point k.bu k.bv)) = true)
    (hfield : (p.outerRect P t k margin).inField ranges = true ∧
      ∀ r, p.gapRect P t k = some r → r.inField ranges = true) :
    armJoint P ranges t region margin joint pi si p k = .listed (p.entry P ranges t margin joint pi si k) := by
  dsimp only [Placement.entry]
  rw [← foldl_rects_eq_spanBound Int.min_self, ← foldl_rects_eq_spanBound Int.max_self,
    ← foldl_rects_eq_spanBound Int.min_self, ← foldl_rects_eq_spanBound Int.max_self]
  refine ((if_neg hregion).trans (if_pos (rects_inField_iff.mpr hfield))).trans ?_
  cases hgap : k.gap <;> simp [Placement.gapRect, Placement.outerRect, hgap]

end

/-! ### The visit of a joint (R87, R90) -/

section
variable {s : State} {j : Served}

/-- What a visit does, by what arming makes of the joint (R87). -/
theorem State.visitJoint_of {a : Armed} (hservice : s.engine.service = .arming) (hserved : s.engine.served = some j)
    (hmore : s.engine.visited < (s.ctx j.ctx).verdicts.length)
    (harmed : s.armingOf j s.engine.visited = some a) :
    s.visitJoint = (match a with
      | .skipped cause => (s.modEngine (fun e => { e with visited := e.visited + 1 })).writeSkipped j.ctx
          s.engine.visited cause
      | .outOfField => (s.modEngine (fun e => { e with visited := e.visited + 1 })).writeOff j.ctx
          s.engine.visited (s.engine.visited / s.sitesOf j.ctx) (s.engine.visited % s.sitesOf j.ctx) .outOfField
      | .listed e => (s.modEngine (fun e => { e with visited := e.visited + 1 })).modEngine
          (fun g => { g with openList := insertArmed e g.openList })) := by
  simp only [State.visitJoint, hservice, hserved, State.jointCount, if_pos hmore, harmed]
  cases a <;> rfl

/-- A joint of a skipped placement (R87). -/
theorem State.armingOf_skipped {n : Nat} {cause : SkipCause}
    (h : mapGet (n / s.sitesOf j.ctx) j.skipped = some cause) :
    s.armingOf j n = some (.skipped (match cause with
      | .badMark => .badMark
      | .excluded => .excluded)) := by
  simp only [State.armingOf, skippedCause, h]
  cases cause <;> rfl

/-- A joint of an inspected placement (R88, R89). -/
theorem State.armingOf_inspected {n : Nat} {f : StationConfig} {p : Placement} {k : Site} {cl : ClassRecord}
    (hconfig : s.flow.config = some f) (hskipped : mapGet (n / s.sitesOf j.ctx) j.skipped = none)
    (hp : (s.slotOf j.ctx).placements[n / s.sitesOf j.ctx]? = some p)
    (hk : (s.slotOf j.ctx).sites[n % s.sitesOf j.ctx]? = some k)
    (hcl : (s.slotOf j.ctx).classes[k.cls]? = some cl) :
    s.armingOf j n = some (armJoint f.pitch f.ranges j.transform j.region cl.collarMargin n
      (n / s.sitesOf j.ctx) (n % s.sitesOf j.ctx) p k) := by
  simp only [State.armingOf, skippedCause, hskipped, hp, hk, State.classOf, hcl, Flow.pitch, Flow.ranges, hconfig]

/-- The region test fails where the pad centre lies beyond an edge of the region (R88). -/
theorem Region.any_not_admits (region : Option Region) (q : Point) :
    region.any (fun r => !r.admits q) = true ↔ ∃ r, region = some r ∧
      (q.1 < r.u0 ∨ (r.u1 : Int) < q.1 ∨ q.2 < r.v0 ∨ (r.v1 : Int) < q.2) := by
  cases region with
  | none => simp
  | some r =>
    simp only [Option.any_some, Region.admits, Option.some.injEq, exists_eq_left', Bool.not_eq_true',
      Bool.and_eq_false_iff, decide_eq_false_iff_not]
    omega

/-! ### The completion of arming (R91, R92) -/

theorem State.visitJoints_eq_iterate (n : Nat) : s.visitJoints n = Nat.iterate State.visitJoint n s := by
  induction n generalizing s with
  | zero => rfl
  | succ n ih => exact ih

/-- With no arming in progress nothing is visited and nothing completes (assumption log 3). -/
theorem State.arming_idle (h : s.engine.service ≠ .arming ∨ s.engine.served = none) :
    s.visitJoint = s ∧ s.unvisited = 0 ∧ s.completeArming = s := by
  unfold State.visitJoint State.unvisited State.completeArming
  rcases hservice : s.engine.service with _ | _ | _ <;> rcases hserved : s.engine.served with _ | j <;>
    simp_all

/-- The scan range of a list that is not empty: the least first and the greatest last row block (R91). -/
theorem scanRangeOf_spec {l : List ArmedJoint} (h : l ≠ []) : ∃ first last,
    scanRangeOf l = some (first, last) ∧ (l.map ArmedJoint.firstBlock).min? = some first ∧
      (l.map ArmedJoint.lastBlock).max? = some last := by
  cases l with
  | nil => exact absurd rfl h
  | cons e rest =>
    refine ⟨_, _, rfl, ?_, ?_⟩
    · rw [List.map_cons, List.min?_cons', List.foldl_map]
    · rw [List.map_cons, List.max?_cons', List.foldl_map]

/-- The scan start of every configured head (R66). -/
theorem State.startScan_eq {f : StationConfig} {c : CtxId} {first last : Nat} (hconfig : s.flow.config = some f) :
    s.startScan c first last = { s with ports := s.ports.mapIdx (fun p x =>
      (f.ranges[p.val]?).elim x (fun r => if p.val < f.heads then
        x.scanStart (s.ctx c).seq first last r (s.now + f.locateTimeout) else x)) } := by
  have hport : (fun (p : PortId) (x : Port) => if p.val < s.flow.heads then
      (match s.owned p with
        | some r => x.scanStart (s.ctx c).seq first last r (s.after StationConfig.locateTimeout)
        | none => x) else x) = fun p x => (f.ranges[p.val]?).elim x (fun r => if p.val < f.heads then
        x.scanStart (s.ctx c).seq first last r (s.now + f.locateTimeout) else x) := by
    funext p x
    simp only [State.owned, State.after, Flow.heads, hconfig]
    cases f.ranges[p.val]? with
    | none => exact ite_self x
    | some r => rfl
  exact congrArg (fun g => { s with ports := s.ports.mapIdx g }) hport

/-- The completion of arming with no joint listed (R92). -/
theorem State.completeArming_empty (hservice : s.engine.service = .arming) (hserved : s.engine.served = some j)
    (hlist : s.engine.openList = []) : s.completeArming = (s.modEngine Engine.toIdle).enterJudging j.ctx := by
  simp only [State.completeArming, hservice, hserved, hlist, scanRangeOf]

/-- The completion of arming with joints listed (R92). -/
theorem State.completeArming_listed {first last : Nat} (hservice : s.engine.service = .arming)
    (hserved : s.engine.served = some j) (hrange : scanRangeOf s.engine.openList = some (first, last)) :
    s.completeArming = ((s.modEngine (fun e => { e with
      service := .scanning, front := none, scanRange := some (first, last) })).modCtx j.ctx
        (fun x => { x with state := .scanning })).startScan j.ctx first last := by
  simp only [State.completeArming, hservice, hserved, hrange]

end

/-! ### The statement -/

/-- Settles O50: the visit of a joint by what arming makes of it, and the completion of arming. -/
theorem jointsAreArmed : Obligations.JointsAreArmed := by
  unfold Obligations.JointsAreArmed
  refine ⟨fun s => rfl, ?_, ?_, ?_, ?_⟩
  · intro s j hservice hserved
    have hunvisited : s.unvisited = (s.ctx j.ctx).verdicts.length - s.engine.visited := by
      simp only [State.unvisited, hservice, hserved, State.jointCount]
    simp only [exec, execArmingComplete, hunvisited, State.visitJoints_eq_iterate]
  · intro s hidle hsettled
    obtain ⟨hvisit, hunvisited, hcomplete⟩ := State.arming_idle hidle
    refine ⟨?_, ?_⟩
    · simp only [exec, execArmingJointVisit, hvisit, State.pump_settled hsettled]
    · simp only [exec, execArmingComplete, hunvisited, State.visitJoints, hcomplete, State.pump_settled hsettled]
  · intro s j p k cl f hservice hserved hconfig c x g n pi si hstate hmore hp hk hcl hentry u writes reported
      skips at' machine rect count centre pad outer gap lo hi outside owned fits inField
    have hwrite : ∀ v cause, u.modCtx c (fun x => x.write n (plainEntry v cause)) =
        writes v cause (x.counts.add 1 v) :=
      fun v cause => State.modCtx_eq (Context.write_unset x n (plainEntry v cause) hentry)
    have hctx : ∀ v cause counts, (writes v cause counts).ctx c = { x with
        verdicts := x.verdicts.set n ⟨v, some cause, FlagSet.none⟩, unset := x.unset - 1, counts := counts } :=
      fun v cause counts => Pair.get_set_self _ _ _
    have hjudging : x.state ≠ .judging := by rw [hstate]; decide
    have hskips : ∀ cause, u.writeSkipped c n cause = skips cause := by
      intro cause
      unfold State.writeSkipped
      rw [hwrite]
      exact State.reportComplete_written (s := s) (by rw [hctx]) (by rw [hctx]; exact hjudging) rfl
    have hregion : j.region.any (fun r => !r.admits (p.point k.bu k.bv)) = true ↔ outside :=
      Region.any_not_admits _ _
    have hinField : (p.outerRect f.pitch j.transform k cl.collarMargin).inField f.ranges = true ∧
        (∀ r, p.gapRect f.pitch j.transform k = some r → r.inField f.ranges = true) ↔ inField :=
      and_congr (Rect.inField_iff f.pitch _ _)
        (forall_congr' fun r => imp_congr Iff.rfl (Rect.inField_iff f.pitch _ _))
    refine ⟨?_, ?_, ?_, ?_⟩
    · intro cause hskipped
      refine (State.visitJoint_of hservice hserved hmore (State.armingOf_skipped hskipped)).trans ?_
      cases cause <;> exact hskips _
    · intro hskipped hout
      have harmed := State.armingOf_inspected hconfig hskipped hp hk hcl
      rw [armJoint_of_region (hregion.mpr hout)] at harmed
      exact (State.visitJoint_of hservice hserved hmore harmed).trans (hskips _)
    · intro hskipped hin hfield
      have harmed := State.armingOf_inspected hconfig hskipped hp hk hcl
      rw [armJoint_of_outOfField (hregion.not.mpr hin) (hinField.not.mpr hfield)] at harmed
      refine (State.visitJoint_of hservice hserved hmore harmed).trans ?_
      have hlogged := State.logRecord_ctx (s := writes .unmeasured .outOfField { x.counts with
        unmeasured := x.counts.unmeasured + 1 }) (c := c) (.defect
          ⟨x.seq, pi, si, .unmeasured, some .outOfField, FlagSet.none, none, none, none, none⟩)
      rw [hctx] at hlogged
      obtain ⟨lost, hlost⟩ := hlogged
      dsimp only [State.writeOff]
      refine (congrArg (fun w : State => (w.logRecord c _).reportComplete c) (hwrite _ _)).trans ?_
      exact State.reportComplete_written (s := s) (congrArg Context.unset hlost)
        (fun h => hjudging ((congrArg Context.state hlost).symm.trans h)) (State.logRecord_decision _ _ _)
    · intro hskipped hin hfield
      have harmed := State.armingOf_inspected hconfig hskipped hp hk hcl
      rw [armJoint_of_inField (hregion.not.mpr hin) (hinField.mpr hfield)] at harmed
      have hvisit := State.visitJoint_of hservice hserved hmore harmed
      obtain ⟨before, after, hlist, hsplit, hbefore, hafter⟩ := insertArmed_split
        (p.entry f.pitch f.ranges j.transform cl.collarMargin n pi si k) s.engine.openList
      have hbound : ∀ (g : Int → Int → Int) (side : Rect → Int), spanBound g side outer gap = (match gap with
          | some r => g (side outer) (side r)
          | none => side outer) := fun g side => by cases gap <;> rfl
      obtain ⟨hrising, hmem⟩ := mem_dependencies f.ranges lo hi
      have hdeps : (p.entry f.pitch f.ranges j.transform cl.collarMargin n pi si k).deps =
          dependencies f.ranges lo hi :=
        congrArg₂ (dependencies f.ranges) (hbound min Rect.i0) (hbound max Rect.i1)
      refine ⟨p.entry f.pitch f.ranges j.transform cl.collarMargin n pi si k, before, after, hvisit.trans ?_,
        hsplit, hbefore, hafter, rfl, rfl, rfl, rfl, rfl, rfl, rfl, rfl, rfl, ?_, ?_, ?_, ?_, ?_, ?_⟩
      · exact congrArg (fun l => ({ u with engine := { u.engine with openList := l } } : State)) hlist
      · exact fun r hr => congrArg (fun o : Option Rect => o.elim 0 Rect.count) hr
      · exact fun hnone => congrArg (fun o : Option Rect => o.elim 0 Rect.count) hnone
      · exact congrArg (fun i => (floorDiv i 4).toNat) (hbound min Rect.j0)
      · exact congrArg (fun i => (floorDiv i 4).toNat) (hbound max Rect.j1)
      · rw [hdeps]; exact hrising
      · rw [hdeps]; exact hmem
  · intro s j f hservice hserved hconfig c enters
    refine ⟨fun hlist => ?_, fun hlist => ?_⟩
    · rw [State.completeArming_empty hservice hserved hlist]
      exact State.enterJudging_eq _ _
    · obtain ⟨first, last, hrange, hfirst, hlast⟩ := scanRangeOf_spec hlist
      obtain ⟨hfirstMem, hfirstLe⟩ := List.min?_eq_some_iff.mp hfirst
      obtain ⟨hlastMem, hlastLe⟩ := List.max?_eq_some_iff.mp hlast
      refine ⟨first, last, ?_, List.mem_map.mp hfirstMem, List.mem_map.mp hlastMem, ?_⟩
      · exact fun e he => ⟨hfirstLe _ (List.mem_map_of_mem he), hlastLe _ (List.mem_map_of_mem he)⟩
      · let w : State := { enters .scanning s with engine := { s.engine with
          service := .scanning, front := none, scanRange := some (first, last) } }
        have hctx : w.ctx c = { s.ctx c with state := .scanning } := Pair.get_set_self _ _ _
        have hseq : (w.ctx c).seq = (s.ctx c).seq := by rw [hctx]
        refine (State.completeArming_listed hservice hserved hrange).trans
          ((State.startScan_eq (s := w) hconfig).trans ?_)
        refine congrArg (fun g => ({ w with ports := s.ports.mapIdx g } : State)) ?_
        funext p x
        rw [hseq]
        cases f.ranges[p.val]? <;> rfl

end Sys2Proof.Machine
end

section
/-! Proofs. The frames and timers of a head port: HEAD_READY, unknown frames, unconfigured ports, and the query
and start timers (R63, R64, R66, R67, R189, R190). -/

namespace Sys2Proof.Machine

open Sys2Proof

/-! ### A port put in place -/

section
variable {s : State} {p : PortId} {f : StationConfig}

/-- A change of one port is that port put in its place. -/
theorem State.modPort_eq {g : Port → Port} {y : Port} (h : g (s.ports.get p) = y) :
    s.modPort p g = { s with ports := s.ports.set p y } := by
  subst h
  rfl

/-- A change of a port that has just been put in place. -/
theorem State.set_modPort (x : Port) (g : Port → Port) :
    ({ s with ports := s.ports.set p x } : State).modPort p g = { s with ports := s.ports.set p (g x) } := by
  unfold State.modPort State.modPorts
  simp only [Quad.set_set, Quad.get_set_self]

/-- Of a port that has been heard, only the tile timer may be new (R77). -/
theorem Port.heardAt_eq (x : Port) (expiry : Nat) : x.heardAt expiry =
    { x with tileTimer := if x.scan = .receiving then some expiry else x.tileTimer } := by
  unfold Port.heardAt
  split <;> rfl

/-- Outside RECEIVING no timer restarts at a frame (R77). -/
theorem Port.heardAt_of_ne {x : Port} (h : x.scan ≠ .receiving) (expiry : Nat) : x.heardAt expiry = x :=
  if_neg h

/-- A frame taken on a port, and then a change of that port. -/
theorem State.heard_modPort (hconfig : s.flow.config = some f) (g : Port → Port) :
    (s.heard p).modPort p g =
      { s with ports := s.ports.set p (g ((s.ports.get p).heardAt (s.now + f.tileTimeout))) } := by
  rw [State.heard_eq s p f hconfig]
  exact State.set_modPort _ g

/-- A change of a scan record that is there. -/
theorem Port.modRecord_eq {x : Port} {r : ScanRecord} (h : x.record = some r) (g : ScanRecord → ScanRecord) :
    x.modRecord g = { x with record := some (g r) } := by
  unfold Port.modRecord
  rw [h]
  rfl

/-- A frame taken moves no clock and no configuration. -/
theorem State.heard_after (hconfig : s.flow.config = some f) :
    (s.heard p).after StationConfig.tileTimeout = s.now + f.tileTimeout := by
  rw [State.heard_eq s p f hconfig]
  simp only [State.after, hconfig]

/-- A head declared faulted: its notice, its count and a query (R64, R67, R77, R80). -/
theorem State.faultHead_eq {r : ScanRecord} (hconfig : s.flow.config = some f)
    (hrec : (s.ports.get p).record = some r) (cause : HeadFaultCause) (mark : Option Int) :
    s.faultHead p cause mark = { s with
      link := s.link.raise (.headFault p cause r.seq mark (s.ports.get p).link)
      ports := s.ports.set p { s.ports.get p with
        counters := { (s.ports.get p).counters with
          headFaults := bump (s.ports.get p).counters.headFaults 1 }
        lane := (s.ports.get p).lane ++ [.headQuery]
        queryTimer := some (s.now + f.locateTimeout) } } := by
  simp only [State.faultHead, State.queryPort, State.after, hrec, State.modPort_flow, State.modPort_now,
    State.raise_flow, State.raise_now, hconfig]
  rw [← hrec]
  exact State.set_modPort (s := { s with link := s.link.raise (.headFault p cause r.seq mark (s.ports.get p).link) })
    ((s.ports.get p).count (fun k => { k with headFaults := bump k.headFaults 1 }))
    (Port.query (s.now + f.locateTimeout))

end

/-! ### Frames on an unconfigured port (R63) -/

section
variable {s : State} {p : PortId}

theorem execHeadReady_of_not (h : s.configured p = false) (good : Bool) (b : List Byte) :
    execHeadReady p good b s = .next (s.countStale p) := by
  simp [execHeadReady, h]

theorem execTileLost_of_not (h : s.configured p = false) (good : Bool) (b : List Byte) :
    execTileLost p good b s = .next (s.countStale p) := by
  simp [execTileLost, h]

theorem execScanEnd_of_not (h : s.configured p = false) (good : Bool) (b : List Byte) :
    execScanEnd p good b s = .next (s.countStale p) := by
  simp [execScanEnd, h]

theorem execLocateResult_of_not (h : s.configured p = false) (good : Bool) (b : List Byte) :
    execLocateResult p good b s = .next (s.countStale p) := by
  simp [execLocateResult, h]

theorem execHeadUnknownFrame_of_not (h : s.configured p = false) :
    execHeadUnknownFrame p s = .next (s.countStale p) := by
  simp [execHeadUnknownFrame, h]

theorem execTile_of_not (h : s.configured p = false) (good : Bool) (b : List Byte) :
    execTile p good b s = .next ((s.countStale p).modPort p Port.clearHeader) := by
  simp [execTile, h]

theorem execTileHeader_of_not (h : s.configured p = false) (seq : Byte) (row col : U16) :
    execTileHeader p seq row col s =
      .next (s.modPort p (Port.passHeader ⟨seq.toNat, row.toNat, col.toNat⟩)) := by
  simp [execTileHeader, h]

end

/-! ### HEAD_READY on a configured port (R64, R66) -/

section
variable {s : State} {p : PortId} {f : StationConfig}

/-- A HEAD_READY with an error end, of another length or with another answer is a frame error (R63). -/
theorem execHeadReady_bad (hon : s.configured p = true) {good : Bool} {b : List Byte}
    (h : good = false ∨ b.length ≠ 2 ∨ 1 < (b.getD 0 0).toNat) :
    execHeadReady p good b s = .next ((s.heard p).countFrameError p) := by
  have hform : (good && b.length == 2 && decide (u8 b 0 ≤ 1)) = false := by
    rcases h with h | h | h
    · simp [h]
    · simp [h]
    · have hcode : ¬ u8 b 0 ≤ 1 := by unfold u8; omega
      simp [hcode]
  simp only [execHeadReady, hon, hform, if_true, Bool.false_eq_true, if_false]

/-- A HEAD_READY of the right form is taken by its answer (R64, R66). -/
theorem execHeadReady_good (hon : s.configured p = true) (a q : Byte) (ha : a.toNat ≤ 1) :
    execHeadReady p true [a, q] s = .next ((s.heard p).headReadyFrame p a.toNat q.toNat) := by
  have hform : (true && ([a, q] : List Byte).length == 2 && decide (u8 [a, q] 0 ≤ 1)) = true := by
    simp [u8, ha]
  simp only [execHeadReady, hon, hform, if_true]
  rfl

/-- An answer to QUERY while the query timer runs (R64). -/
theorem State.headReadyFrame_query {seq : Nat} (h : (s.ports.get p).queryTimer.isSome = true) :
    s.headReadyFrame p 1 seq = s.modPort p (fun x => { x with queryTimer := none, link := .answering }) :=
  if_pos h

/-- An answer to QUERY with no query timer running (R64). -/
theorem State.headReadyFrame_query_idle {seq : Nat} (h : (s.ports.get p).queryTimer = none) :
    s.headReadyFrame p 1 seq = s.countStale p :=
  if_neg (by rw [h]; decide)

/-- An answer to START for the scan that is starting (R66). -/
theorem State.headReadyFrame_start {seq : Nat} {r : ScanRecord} (hscan : (s.ports.get p).scan = .starting)
    (hrec : (s.ports.get p).record = some r) (hseq : r.seq = seq) :
    s.headReadyFrame p 0 seq = s.modPort p (fun x => { x with
      scan := .receiving
      startTimer := none
      tileTimer := some (s.after StationConfig.tileTimeout)
      link := .answering
      queryTimer := none }) :=
  if_pos ⟨hscan, by rw [hrec]; simpa using hseq⟩

/-- An answer to START for any other scan (R66). -/
theorem State.headReadyFrame_start_stale {seq : Nat}
    (h : (s.ports.get p).scan ≠ .starting ∨ ∀ r, (s.ports.get p).record = some r → r.seq ≠ seq) :
    s.headReadyFrame p 0 seq = s.countStale p := by
  refine if_neg ?_
  rintro ⟨hscan, hrecord⟩
  obtain ⟨r, hrec, hseq⟩ := (Option.any_eq_true _ _).mp hrecord
  rcases h with h | h
  · exact h hscan
  · exact h r hrec (by simpa using hseq)

end

/-! ### The commands of a head frame (R189, R190) -/

/-- A kind byte outside the table of R189 names no frame. -/
theorem HeadKind.ofByte_none {kind : Byte} (h : kind.toNat < 0x11 ∨ 0x15 < kind.toNat) :
    HeadKind.ofByte kind = none := by
  have hne : ∀ k : Byte, 0x11 ≤ k.toNat → k.toNat ≤ 0x15 → kind ≠ k := by
    rintro k hlow hhigh rfl
    omega
  unfold HeadKind.ofByte
  rw [if_neg (hne _ (by decide) (by decide)), if_neg (hne _ (by decide) (by decide)),
    if_neg (hne _ (by decide) (by decide)), if_neg (hne _ (by decide) (by decide)),
    if_neg (hne _ (by decide) (by decide))]

/-- The five header bytes of a TILE frame and its samples (R190). -/
theorem tileCommands_cons (p : PortId) (good : Bool) (seq r0 r1 c0 c1 : Byte) (samples : List Byte) :
    tileCommands p good (seq :: r0 :: r1 :: c0 :: c1 :: samples) =
      [.tileHeader p seq (r0 ++ r1) (c0 ++ c1), .tile p good samples] := by
  unfold tileCommands
  rw [if_neg (by simp), ofNat_u16, ofNat_u16]
  rfl

/-! ### The statement -/

/-- Settles O54: the frames and timers of a port, unconfigured or configured, and the bytes of head
frames. -/
theorem headAnswers : Obligations.HeadAnswers := by
  unfold Obligations.HeadAnswers
  intro put stale bad
  refine ⟨?_, ?_, ?_, ?_, rfl, ?_, rfl⟩
  · intro s p good b hp discarded
    have hoff := s.configured_of_ge p hp
    refine ⟨execHeadReady_of_not hoff good b, execTileLost_of_not hoff good b, execScanEnd_of_not hoff good b,
      execLocateResult_of_not hoff good b, execHeadUnknownFrame_of_not hoff, ?_, execTileHeader_of_not hoff⟩
    exact (execTile_of_not hoff good b).trans (congrArg Host.Outcome.next (State.set_modPort _ _))
  · intro s p f hconfig hp x heard
    have hon := s.configured_of_lt p f hconfig hp
    have hheard : heard = x.heardAt (s.now + f.tileTimeout) := rfl
    have hkept := Port.heardAt_eq x (s.now + f.tileTimeout)
    have hport : (s.heard p).ports.get p = x.heardAt (s.now + f.tileTimeout) := by
      rw [State.heard_eq s p f hconfig]
      exact Quad.get_set_self _ _ _
    have hbad : (s.heard p).countFrameError p = put s p (bad heard) := State.heard_modPort hconfig _
    have hstale : (s.heard p).countStale p = put s p (stale heard) := State.heard_modPort hconfig _
    refine ⟨?_, ?_, ?_, ?_, ?_, ?_, ?_⟩
    · exact (if_pos hon).trans (congrArg Host.Outcome.next hbad)
    · intro good b h
      exact (execHeadReady_bad hon h).trans (congrArg Host.Outcome.next hbad)
    · intro q
      refine ⟨?_, ?_, ?_, ?_⟩
      · intro d hquery
        refine (execHeadReady_good hon 1 q (by decide)).trans (congrArg Host.Outcome.next ?_)
        exact (State.headReadyFrame_query (by rw [hport, hkept, hquery]; rfl)).trans
          (State.heard_modPort hconfig _)
      · intro hquery
        refine (execHeadReady_good hon 1 q (by decide)).trans (congrArg Host.Outcome.next ?_)
        exact (State.headReadyFrame_query_idle (by rw [hport, hkept, hquery])).trans hstale
      · intro r hscan hrec hseq
        have hsame : x.heardAt (s.now + f.tileTimeout) = x := Port.heardAt_of_ne (by rw [hscan]; decide) _
        refine (execHeadReady_good hon 0 q (by decide)).trans (congrArg Host.Outcome.next ?_)
        have hstarted := State.headReadyFrame_start (s := s.heard p) (p := p) (seq := q.toNat)
          (by rw [hport, hsame]; exact hscan) (by rw [hport, hsame]; exact hrec) hseq
        refine hstarted.trans ?_
        rw [State.heard_modPort hconfig, hsame, State.heard_after hconfig]
      · intro hother
        refine (execHeadReady_good hon 0 q (by decide)).trans (congrArg Host.Outcome.next ?_)
        exact (State.headReadyFrame_start_stale (by rw [hport, hkept]; exact hother)).trans hstale
    · intro d hquery
      show execQueryTimerExpiry p s = _
      simp only [execQueryTimerExpiry, show (s.ports.get p).queryTimer = some d from hquery]
      rfl
    · intro hquery
      show execQueryTimerExpiry p s = _
      simp only [execQueryTimerExpiry, show (s.ports.get p).queryTimer = none from hquery]
    · intro r hscan hrec faulted
      refine (if_pos hscan).trans (congrArg (fun u : State => (.next (u.closingTest.scanEndTest).pump : Result)) ?_)
      let absent : Port := { x with scan := .absent, startTimer := none, record := some { r with mark := r.last } }
      have habsent : s.modPort p (fun x => ({ x with scan := .absent, startTimer := none } : Port).modRecord
          (fun r => { r with mark := r.last })) = put s p absent :=
        State.modPort_eq (Port.modRecord_eq (x := { x with scan := .absent, startTimer := none }) hrec _)
      have hget : (put s p absent).ports.get p = absent := Quad.get_set_self _ _ _
      rw [habsent]
      refine (State.faultHead_eq (s := put s p absent) (p := p) (r := { r with mark := r.last }) hconfig
        (by rw [hget]) .noStart none).trans ?_
      rw [hget]
      exact congrArg (fun q => ({ s with
        link := s.link.raise (.headFault p .noStart r.seq none x.link), ports := q } : State)) (Quad.set_set _ _ _ _)
    · exact fun hscan => if_neg hscan
  · intro p kind good b sent
    refine ⟨?_, ?_, ?_, ?_, ?_, ?_, ?_⟩
    · rintro rfl; rfl
    · rintro rfl hshort
      exact if_pos hshort
    · rintro seq r0 r1 c0 c1 samples rfl rfl
      exact tileCommands_cons p good seq r0 r1 c0 c1 samples
    · rintro rfl; rfl
    · rintro rfl; rfl
    · rintro rfl; rfl
    · intro h
      have hnone := HeadKind.ofByte_none h
      show headFrameCommands p kind good b = _
      simp only [headFrameCommands, hnone]
  · exact fun _ _ _ _ _ => rfl
  · exact fun _ _ _ _ _ => rfl

end Sys2Proof.Machine
end

section
/-! Proofs. A TILE frame: the checks at its header and the settling at its end marker (R69, R70, R72). -/

namespace Sys2Proof.Machine

open Sys2Proof

/-! ### The checks at a tile's header (R69) -/

section
variable {x : Port} {h : TileHeader} {r : ScanRecord}

/-- Outside RECEIVING every tile is stale (R69). -/
theorem Port.courseOf_outside (hscan : x.scan ≠ .receiving) : x.courseOf h = .stale := by
  unfold Port.courseOf
  split
  · rename_i hreceiving _
    exact absurd hreceiving hscan
  · rfl

/-- The course of a tile when neither pool is FREE, and when one is (R69). -/
def courseAt (pool : Option (Fin 2)) : Course := pool.elim .overrun .filling

/-- The checks of R69 in their order. -/
theorem Port.courseOf_receiving (hscan : x.scan = .receiving) (hrec : x.record = some r) :
    x.courseOf h = if h.seq ≠ r.seq then .stale
      else if r.isStray h.rowBlock h.column = true then .stray
      else if r.isOutOfOrder h.rowBlock h.column = true then .order
      else courseAt x.freePool := by
  simp only [Port.courseOf, hscan, hrec]
  cases x.freePool <;> rfl

/-- A tile of this scan, of a place it expects, and in order takes the first FREE pool, if any (R69). -/
theorem Port.courseOf_accepted (hscan : x.scan = .receiving) (hrec : x.record = some r) (hseq : h.seq = r.seq)
    (hstray : ¬ r.isStray h.rowBlock h.column = true) (horder : ¬ r.isOutOfOrder h.rowBlock h.column = true) :
    x.courseOf h = courseAt x.freePool := by
  rw [Port.courseOf_receiving hscan hrec, if_neg (not_not.mpr hseq), if_neg hstray, if_neg horder]

/-- A header whose tile is not taken leaves its place and its course (R69). -/
theorem Port.takeHeader_passed {c : Course} (hcourse : x.courseOf h = c)
    (hc : c = .stale ∨ c = .stray ∨ c = .order) :
    x.takeHeader h = { x with header := some h, course := some c } := by
  rcases hc with rfl | rfl | rfl <;> simp only [Port.takeHeader, hcourse]

/-- A header taken with no pool FREE: its place is the last accepted one (R69, check 4). -/
theorem Port.takeHeader_overrun (hcourse : x.courseOf h = .overrun) (hrec : x.record = some r) :
    x.takeHeader h = { x with
      header := some h, course := some .overrun
      record := some { r with lastPos := some (h.rowBlock, h.column) } } := by
  simp only [Port.takeHeader, hcourse]
  exact Port.modRecord_eq (x := { x with header := some h, course := some .overrun }) hrec _

/-- A header taken with a pool: the pool is FILLING, and its place is the last accepted one (R69, check 5). -/
theorem Port.takeHeader_filling {k : Fin 2} (hcourse : x.courseOf h = .filling k) (hrec : x.record = some r) :
    x.takeHeader h = { x with
      header := some h, course := some (.filling k)
      record := some { r with lastPos := some (h.rowBlock, h.column) }
      pools := x.pools.set k ⟨.filling, h.rowBlock, h.column, []⟩ } := by
  simp only [Port.takeHeader, hcourse]
  rw [Port.modRecord_eq (x := { x with header := some h, course := some (.filling k) }) hrec]

end

/-! ### The settling of a tile at its end marker (R70) -/

section
variable {y : Port} {data : List Byte}

/-- A frame of which no header was taken: a lost tile and a frame error (R70; assumption log 21). -/
theorem Port.settle_none (d : Bool) (hcourse : y.course = none) : y.settle d data = { y with
    counters := { y.counters with
      lostTiles := bump y.counters.lostTiles 1, frameErrors := bump y.counters.frameErrors 1 } } := by
  simp only [Port.settle, hcourse, Port.count]

/-- A frame cut off is stale (assumption log 21). -/
theorem Port.settle_cutOff (d : Bool) (hcourse : y.course = some .cutOff) : y.settle d data = { y with
    counters := { y.counters with stale := bump y.counters.stale 1 } } := by
  simp only [Port.settle, hcourse, Port.count, PortCounters.discarded]

/-- A stale tile (R69, R70). -/
theorem Port.settle_stale (d : Bool) (hcourse : y.course = some .stale) : y.settle d data = { y with
    counters := { y.counters with
      stale := bump y.counters.stale 1
      frameErrors := if d then bump y.counters.frameErrors 1 else y.counters.frameErrors } } := by
  simp only [Port.settle, hcourse, Port.count, PortCounters.discarded]
  cases d <;> rfl

/-- A stray tile, received when it is whole (R69, R70). -/
theorem Port.settle_stray (d : Bool) {r : ScanRecord} (hcourse : y.course = some .stray)
    (hrec : y.record = some r) : y.settle d data = { y with
    record := some (if d then r else { r with received := bump r.received 1 })
    counters := { y.counters with
      stray := bump y.counters.stray 1
      frameErrors := if d then bump y.counters.frameErrors 1 else y.counters.frameErrors } } := by
  simp only [Port.settle, hcourse, Port.count, PortCounters.discarded, Port.countReceived, Port.modRecord, hrec]
  cases d <;> simp

/-- A tile out of order, received when it is whole (R69, R70). -/
theorem Port.settle_order (d : Bool) {r : ScanRecord} (hcourse : y.course = some .order)
    (hrec : y.record = some r) : y.settle d data = { y with
    record := some (if d then r else { r with received := bump r.received 1 })
    counters := { y.counters with
      order := bump y.counters.order 1
      frameErrors := if d then bump y.counters.frameErrors 1 else y.counters.frameErrors } } := by
  simp only [Port.settle, hcourse, Port.count, PortCounters.discarded, Port.countReceived, Port.modRecord, hrec]
  cases d <;> simp

/-- Freeing the pool of a frame arriving changes nothing but the pools. -/
theorem Port.freeFilling_eq (x : Port) : x.freeFilling = { x with pools := x.freeFilling.pools } := by
  unfold Port.freeFilling
  split <;> rfl

/-- A tile lost: its pool freed, a loss record, and the tile received and counted (R70). -/
theorem Port.loseTile_eq {r : ScanRecord} {h : TileHeader} (hrec : y.record = some r) (hheader : y.header = some h) :
    y.loseTile = { y with
      pools := y.freeFilling.pools
      record := some { r with received := bump r.received 1 }
      intake := joinIntake (.loss h.rowBlock h.column) y.intake
      counters := { y.counters with lostTiles := bump y.counters.lostTiles 1 } } := by
  simp only [Port.loseTile, hheader]
  rw [← hheader]
  refine (congrArg (fun z : Port => ((z.count (fun k => { k with lostTiles := bump k.lostTiles 1 })).join
    (.loss h.rowBlock h.column)).countReceived) y.freeFilling_eq).trans ?_
  exact Port.modRecord_eq (x := { y with
    pools := y.freeFilling.pools
    intake := joinIntake (.loss h.rowBlock h.column) y.intake
    counters := { y.counters with lostTiles := bump y.counters.lostTiles 1 } }) hrec
      (fun r => { r with received := bump r.received 1 })

/-- A tile that found no pool is lost (R69, R70). -/
theorem Port.settle_overrun (d : Bool) {r : ScanRecord} {h : TileHeader} (hcourse : y.course = some .overrun)
    (hrec : y.record = some r) (hheader : y.header = some h) : y.settle d data = { y with
    record := some { r with received := bump r.received 1 }
    intake := joinIntake (.loss h.rowBlock h.column) y.intake
    counters := { y.counters with
      lostTiles := bump y.counters.lostTiles 1, overruns := bump y.counters.overruns 1
      frameErrors := if d then bump y.counters.frameErrors 1 else y.counters.frameErrors } } := by
  have hpools : y.freeFilling.pools = y.pools := by simp only [Port.freeFilling, hcourse]
  simp only [Port.settle, hcourse, Port.loseTile_eq hrec hheader, hpools, Port.count, PortCounters.overran,
    if_true]
  cases d <;> rfl

/-- A tile that filled a pool and came to a bad end is lost (R70). -/
theorem Port.settle_damaged {k : Fin 2} {r : ScanRecord} {h : TileHeader} (hcourse : y.course = some (.filling k))
    (hrec : y.record = some r) (hheader : y.header = some h) : y.settle true data = { y with
    pools := y.pools.set k ⟨.free, 0, 0, []⟩
    record := some { r with received := bump r.received 1 }
    intake := joinIntake (.loss h.rowBlock h.column) y.intake
    counters := { y.counters with
      lostTiles := bump y.counters.lostTiles 1, frameErrors := bump y.counters.frameErrors 1 } } := by
  have hpools : y.freeFilling.pools = y.pools.set k ⟨.free, 0, 0, []⟩ := by
    simp only [Port.freeFilling, hcourse, TilePool.empty]
  simp only [Port.settle, hcourse, Port.loseTile_eq hrec hheader, hpools, Port.count, if_true]

/-- A whole tile waits in its pool for intake (R70). -/
theorem Port.settle_whole {k : Fin 2} {r : ScanRecord} (hcourse : y.course = some (.filling k))
    (hrec : y.record = some r) : y.settle false data = { y with
    pools := y.pools.set k { y.pools.get k with state := .waiting, samples := samplesOf data }
    record := some { r with received := bump r.received 1 }
    intake := y.intake ++ [.tile k]
    counters := { y.counters with tiles := bump y.counters.tiles 1 } } := by
  simp only [Port.settle, hcourse, Bool.false_eq_true, if_false, Port.join, joinIntake_tile, Port.countReceived,
    Port.modRecord, Port.count, hrec, Option.map_some]

end

/-! ### The statement -/

/-- Settles O55: the checks at a tile's header, and the settling of each course at the end marker. -/
theorem tileIsSettled : Obligations.TileIsSettled := by
  unfold Obligations.TileIsSettled
  intro s p f hconfig hp x put
  have hon := s.configured_of_lt p f hconfig hp
  refine ⟨?_, ?_⟩
  · intro seq row col head takes arrive
    have harrive : ∀ y, x.takeHeader head = y → arrive = .next (put y) :=
      fun y hy => (if_pos hon).trans (congrArg Host.Outcome.next (State.modPort_eq hy))
    refine ⟨fun hscan => harrive _ (Port.takeHeader_passed (Port.courseOf_outside hscan) (.inl rfl)), ?_⟩
    intro r hscan hrec stray unordered accepted
    have hstray : r.isStray head.rowBlock head.column = true ↔ stray := r.isStray_iff _ _
    have horder : r.isOutOfOrder head.rowBlock head.column = true ↔ unordered := r.isOutOfOrder_iff _ _
    have hcourse := Port.courseOf_receiving (h := head) hscan hrec
    refine ⟨?_, ?_, ?_, ?_, ?_⟩
    · intro hseq
      exact harrive _ (Port.takeHeader_passed (hcourse.trans (if_pos hseq)) (.inl rfl))
    · intro hseq hs
      rw [if_neg (not_not.mpr hseq), if_pos (hstray.mpr hs)] at hcourse
      exact harrive _ (Port.takeHeader_passed hcourse (.inr (.inl rfl)))
    · intro hseq hs ho
      rw [if_neg (not_not.mpr hseq), if_neg (hstray.not.mpr hs), if_pos (horder.mpr ho)] at hcourse
      exact harrive _ (Port.takeHeader_passed hcourse (.inr (.inr rfl)))
    · intro hseq hs ho hfull
      have hpool := x.freePool_eq_none hfull
      have htaken := Port.courseOf_accepted (h := head) hscan hrec hseq (hstray.not.mpr hs) (horder.not.mpr ho)
      rw [hpool] at htaken
      exact harrive _ (Port.takeHeader_overrun htaken hrec)
    · intro k hseq hs ho hfree hfirst
      have hpool := x.freePool_eq_some k hfree hfirst
      have htaken := Port.courseOf_accepted (h := head) hscan hrec hseq (hstray.not.mpr hs) (horder.not.mpr ho)
      rw [hpool] at htaken
      exact harrive _ (Port.takeHeader_filling htaken hrec)
  · intro good data heard n settled whole frameErrors
    let d : Bool := !(good && data.length == 512)
    have hsettled : ∀ pools record intake counters, heard.settle d data = { heard with
        pools := pools, record := record, intake := intake, counters := counters } →
          settled pools record intake counters := by
      intro pools record intake counters hsettle
      refine (if_pos hon).trans (congrArg (fun u : State => (.next u.grant.pump : Result)) ?_)
      refine (State.heard_modPort hconfig _).trans ?_
      exact congrArg (fun y : Port => put y.clearHeader) hsettle
    have hwhole : d = false ↔ whole := by simp [d, whole]
    have hdamage : ∀ {α : Type} (a b : α), (if d then a else b) = if whole then b else a := by
      intro α a b
      by_cases hw : whole
      · rw [if_pos hw, hwhole.mpr hw]; rfl
      · rw [if_neg hw, Bool.eq_true_of_not_eq_false (hwhole.not.mpr hw)]; rfl
    obtain ⟨timer, htimer⟩ : ∃ timer, heard = { x with tileTimer := timer } := ⟨_, Port.heardAt_eq x _⟩
    clear_value heard d
    subst htimer
    refine ⟨?_, ?_, ?_, ?_⟩
    · exact fun hcourse => hsettled _ _ _ _ (Port.settle_none d hcourse)
    · exact fun hcourse => hsettled _ _ _ _ (Port.settle_cutOff d hcourse)
    · intro hcourse
      refine hsettled _ _ _ _ ?_
      rw [← hdamage]
      exact Port.settle_stale d hcourse
    · intro r hd hrec hheader received lost
      have hlost : joinIntake (.loss hd.rowBlock hd.column) x.intake = lost := joinIntake_loss _ _ _
      refine ⟨?_, ?_, ?_, ?_⟩
      · intro hcourse
        refine hsettled _ _ _ _ ?_
        rw [← hdamage, ← hdamage]
        exact Port.settle_stray d hcourse hrec
      · intro hcourse
        refine hsettled _ _ _ _ ?_
        rw [← hdamage, ← hdamage]
        exact Port.settle_order d hcourse hrec
      · intro hcourse
        refine hsettled _ _ _ _ ?_
        rw [← hdamage, ← hlost]
        exact Port.settle_overrun d hcourse hrec hheader
      · intro k hcourse
        refine ⟨fun hw => hsettled _ _ _ _ ?_, fun hw => hsettled _ _ _ _ ?_⟩
        · rw [Bool.eq_true_of_not_eq_false (hwhole.not.mpr hw), ← hlost]
          exact Port.settle_damaged hcourse hrec hheader
        · rw [hwhole.mpr hw]
          exact Port.settle_whole hcourse hrec

end Sys2Proof.Machine
end

section
/-! Proofs. TILE_LOST, SCAN_END and the silence of a head (R71, R72, R76, R77). -/

namespace Sys2Proof.Machine

open Sys2Proof

/-! ### Reports of a port (R71, R76) -/

section
variable {y : Port} {r : ScanRecord} {row col : Nat}

/-- Outside RECEIVING a report of a lost tile is stale (R71). -/
theorem Port.reportLost_outside (hscan : y.scan ≠ .receiving) : y.reportLost row col = { y with
    counters := { y.counters with stale := bump y.counters.stale 1 } } := by
  unfold Port.reportLost
  split
  · rename_i hreceiving _
    exact absurd hreceiving hscan
  · rfl

/-- A report of a lost tile in RECEIVING: its place is tested as that of a tile (R71). -/
theorem Port.reportLost_receiving (hscan : y.scan = .receiving) (hrec : y.record = some r) :
    y.reportLost row col =
      if r.isStray row col = true then { y with counters := { y.counters with stray := bump y.counters.stray 1 } }
      else if r.isOutOfOrder row col = true then
        { y with counters := { y.counters with order := bump y.counters.order 1 } }
      else { y with
        counters := { y.counters with lostTiles := bump y.counters.lostTiles 1 }
        record := some { r with lastPos := some (row, col) }
        intake := joinIntake (.loss row col) y.intake } := by
  have htaken := Port.modRecord_eq hrec (fun r => { r with lastPos := some (row, col) })
  simp only [Port.reportLost, hscan, hrec, htaken, PortCounters.discarded, Port.count, Port.join]

/-- The comparison of a SCAN_END with the tiles received (R76). -/
theorem Port.compareCounts_eq (hrec : y.record = some r) (sent : Nat) : y.compareCounts sent = { y with
    record := some { r with endTaken := true }
    counters := { y.counters with
      missing := bump y.counters.missing ((sent : Int) - r.received).natAbs } } := by
  have htaken := Port.modRecord_eq hrec (fun r => { r with endTaken := true })
  simp only [Port.compareCounts, hrec, htaken, Port.count]

/-- A SCAN_END in RECEIVING ends the head's part of the scan (R76). -/
theorem Port.takeScanEnd_receiving (hscan : y.scan = .receiving) (hrec : y.record = some r) (sent : Nat) :
    y.takeScanEnd sent = { y with
      scan := .ending
      tileTimer := none
      record := some { r with endTaken := true }
      intake := y.intake ++ [.endRecord]
      counters := { y.counters with
        missing := bump y.counters.missing ((sent : Int) - r.received).natAbs } } := by
  refine (if_pos hscan).trans ?_
  rw [Port.compareCounts_eq hrec, Port.join, joinIntake_endRecord]

/-- Outside RECEIVING and DONE a SCAN_END is stale (R76). -/
theorem Port.takeScanEnd_other (hscan : y.scan ≠ .receiving) (hdone : y.scan ≠ .done) (sent : Nat) :
    y.takeScanEnd sent = { y with counters := { y.counters with stale := bump y.counters.stale 1 } } :=
  (if_neg hscan).trans (if_neg (fun h => hdone h.1))

/-- The port's part when its head falls silent (R77; assumption log 21). -/
def Port.fallSilent (y : Port) : Port :=
  ({ y.freeFilling with
      scan := .ending
      tileTimer := none
      course := y.course.map Course.silenced }.modRecord (fun r => { r with silent := true })).join .endRecord

theorem Port.fallSilent_eq (hrec : y.record = some r) : y.fallSilent = { y with
    pools := y.freeFilling.pools
    scan := .ending
    tileTimer := none
    course := y.course.map Course.silenced
    record := some { r with silent := true }
    intake := y.intake ++ [.endRecord] } := by
  unfold Port.fallSilent
  rw [y.freeFilling_eq]
  refine (congrArg (Port.join .endRecord) (Port.modRecord_eq (x := { y with
    pools := y.freeFilling.pools
    scan := .ending
    tileTimer := none
    course := y.course.map Course.silenced }) hrec (fun r => { r with silent := true }))).trans ?_
  rw [Port.join, joinIntake_endRecord]

end

/-! ### The frames of a configured port -/

section
variable {s : State} {p : PortId} {f : StationConfig} {b : List Byte}

/-- A TILE_LOST or SCAN_END with an error end or of another length is a frame error (R63). -/
theorem fourBytes_bad {good : Bool} (h : good = false ∨ b.length ≠ 4) : ¬ (good && b.length == 4) = true := by
  rcases h with h | h
  · simp [h]
  · simp [h]

theorem execTileLost_good (hconfig : s.flow.config = some f) (hp : p.val < f.heads) (hlen : b.length = 4)
    {y : Port} (h : ((s.ports.get p).heardAt (s.now + f.tileTimeout)).reportLost (u16 b 0) (u16 b 2) = y) :
    exec (.tileLost p true b) s =
      .next (({ s with ports := s.ports.set p y } : State).grant).pump := by
  subst h
  have hform : (true && b.length == 4) = true := by simp [hlen]
  refine (if_pos (s.configured_of_lt p f hconfig hp)).trans ((if_pos hform).trans ?_)
  exact congrArg (fun u : State => (.next u.grant.pump : Result)) (State.heard_modPort hconfig _)

theorem execScanEnd_good (hconfig : s.flow.config = some f) (hp : p.val < f.heads) (hlen : b.length = 4)
    {y : Port} (h : ((s.ports.get p).heardAt (s.now + f.tileTimeout)).takeScanEnd (u32 b 0) = y) :
    exec (.scanEnd p true b) s =
      .next (({ s with ports := s.ports.set p y } : State).grant).pump := by
  subst h
  have hform : (true && b.length == 4) = true := by simp [hlen]
  refine (if_pos (s.configured_of_lt p f hconfig hp)).trans ((if_pos hform).trans ?_)
  exact congrArg (fun u : State => (.next u.grant.pump : Result)) (State.heard_modPort hconfig _)

end

/-! ### The statement -/

/-- Settles O56: TILE_LOST and SCAN_END in each scan state, and the silence of a head. -/
theorem scanReports : Obligations.ScanReports := by
  unfold Obligations.ScanReports
  intro s p f hconfig hp x n put heard counted stale
  have hon := s.configured_of_lt p f hconfig hp
  have hlostReport : ∀ b y, b.length = 4 → heard.reportLost (u16 b 0) (u16 b 2) = y →
      exec (.tileLost p true b) s = .next (put y).grant.pump :=
    fun b y hlen => execTileLost_good hconfig hp hlen
  have hendReport : ∀ b y, b.length = 4 → heard.takeScanEnd (u32 b 0) = y →
      exec (.scanEnd p true b) s = .next (put y).grant.pump :=
    fun b y hlen => execScanEnd_good hconfig hp hlen
  have hbad : (s.heard p).countFrameError p = counted { n with frameErrors := bump n.frameErrors 1 } :=
    State.heard_countFrameError hconfig
  have hsame : x.scan ≠ .receiving → heard = x := fun h => Port.heardAt_of_ne h _
  obtain ⟨timer, htimer⟩ : ∃ timer, heard = { x with tileTimer := timer } := ⟨_, Port.heardAt_eq x _⟩
  clear_value heard
  refine ⟨?_, ?_, ?_, ?_, ?_, ?_, ?_⟩
  · intro good b h
    refine ⟨?_, ?_⟩
    · exact (if_pos hon).trans ((if_neg (fourBytes_bad h)).trans (congrArg Host.Outcome.next hbad))
    · exact (if_pos hon).trans ((if_neg (fourBytes_bad h)).trans (congrArg Host.Outcome.next hbad))
  · intro b hlen hout
    subst htimer
    exact hlostReport b _ hlen (Port.reportLost_outside hout)
  · intro b r hlen hreceiving hrec row col stray unordered lost
    have hstray : r.isStray row col = true ↔ stray := r.isStray_iff _ _
    have horder : r.isOutOfOrder row col = true ↔ unordered := r.isOutOfOrder_iff _ _
    have hlost : joinIntake (.loss row col) x.intake = lost := joinIntake_loss _ _ _
    subst htimer
    have hreport := Port.reportLost_receiving (y := { x with tileTimer := timer }) (row := row) (col := col)
      hreceiving hrec
    rw [hlost] at hreport
    refine ⟨fun hs => ?_, fun hs ho => ?_, fun hs ho => ?_⟩
    · exact hlostReport b _ hlen (hreport.trans (if_pos (hstray.mpr hs)))
    · exact hlostReport b _ hlen (hreport.trans ((if_neg (hstray.not.mpr hs)).trans (if_pos (horder.mpr ho))))
    · exact hlostReport b _ hlen
        (hreport.trans ((if_neg (hstray.not.mpr hs)).trans (if_neg (horder.not.mpr ho))))
  · intro b r hlen hrec missing
    refine ⟨fun hreceiving => ?_, fun hdone htaken hsilent => ?_, fun hdone hlate => ?_⟩
    · subst htimer
      exact hendReport b _ hlen (Port.takeScanEnd_receiving (y := { x with tileTimer := timer }) hreceiving hrec _)
    · refine hendReport b _ hlen ?_
      rw [hsame (by rw [hdone]; decide), Port.takeScanEnd_done _ hdone hrec,
        if_pos ⟨htaken, hsilent⟩, Port.compareCounts_eq hrec]
    · subst htimer
      refine hendReport b _ hlen ((Port.takeScanEnd_done (p := { x with tileTimer := timer }) _ hdone hrec).trans
        (if_neg ?_))
      rcases hlate with h | h <;> simp [h]
  · intro b hlen hreceiving hdone
    subst htimer
    exact hendReport b _ hlen (Port.takeScanEnd_other (y := { x with tileTimer := timer }) hreceiving hdone _)
  · intro r hreceiving hrec silent
    refine (if_pos hreceiving).trans (congrArg (fun u : State => (.next u.grant.pump : Result)) ?_)
    have hmark : s.markOf p = r.mark := by
      simp only [State.markOf, show (s.ports.get p).record = some r from hrec]
    have hpools : x.freeFilling.pools = silent.pools := by
      unfold Port.freeFilling
      dsimp only [silent]
      rcases x.course with _ | _ | _ | _ | _ | _ | _ <;> rfl
    have hcourse : x.course.map Course.silenced = silent.course := by
      dsimp only [silent]
      rcases x.course with _ | _ | _ | _ | _ | _ | _ <;> rfl
    let quiet : Port := { x with
      pools := silent.pools
      scan := .ending
      tileTimer := none
      course := silent.course
      record := some { r with silent := true }
      intake := x.intake ++ [.endRecord] }
    have hquiet : s.modPort p Port.fallSilent = put quiet := by
      refine State.modPort_eq ((Port.fallSilent_eq hrec).trans ?_)
      rw [hpools, hcourse]
    have hget : (put quiet).ports.get p = quiet := Quad.get_set_self _ _ _
    refine (congrArg (fun u : State => u.faultHead p .silent (some (s.markOf p))) hquiet).trans ?_
    rw [hmark]
    refine (State.faultHead_eq (s := put quiet) (p := p) (r := { r with silent := true }) hconfig
      (by rw [hget]) .silent (some r.mark)).trans ?_
    rw [hget]
    exact congrArg (fun q => ({ s with
      link := s.link.raise (.headFault p .silent r.seq (some r.mark) x.link), ports := q } : State))
      (Quad.set_set _ _ _ _)
  · exact fun h => if_neg h

end Sys2Proof.Machine
end

section
/-! Proofs. The completion of an evaluation: the verdict written, the drift fed, the record handed on and the
last write reported (R107, R108, R110 to R112, R120, R125). -/

namespace Sys2Proof.Machine

open Sys2Proof

/-! ### Sets of indices (R112) -/

theorem mem_setInsert {m n : Nat} {l : List Nat} : n ∈ setInsert m l ↔ n = m ∨ n ∈ l := by
  induction l with
  | nil => simp [setInsert]
  | cons h rest ih =>
    unfold setInsert
    split
    · simp
    · split
      · rename_i heq
        simp [heq]
      · simp only [List.mem_cons, ih]
        tauto

/-! ### The verdicts of an evaluation (R109, R120) -/

/-- The evaluator's flags name a defect or a pass. -/
theorem verdictOf_judged (f : FlagSet) : verdictOf f = .pass ∨ (verdictOf f).isDefect = true := by
  unfold verdictOf
  split_ifs <;> simp [Verdict.isDefect]

/-- An evaluation gives UNMEASURED with no volume, or else a pass or a defect. -/
theorem evaluate_judged (e : EvalEntry) (c : ClassRecord) (P : Nat) (a : Accumulator) :
    ((evaluate e c P a).verdict = .unmeasured ∧ (evaluate e c P a).volPct = none) ∨
      (evaluate e c P a).verdict = .pass ∨ (evaluate e c P a).verdict.isDefect = true := by
  unfold evaluate
  split
  · exact .inl ⟨rfl, rfl⟩
  · split
    · exact .inl ⟨rfl, rfl⟩
    · exact .inr (verdictOf_judged _)

/-- Of the verdicts the evaluator writes, the defects are those but UNMEASURED and PASS (R109). -/
theorem Verdict.isDefect_iff {v : Verdict} (h : v = .unmeasured ∨ v = .pass ∨ v.isDefect = true) :
    v.isDefect = true ↔ v ≠ .unmeasured ∧ v ≠ .pass := by
  cases v <;> simp [Verdict.isDefect] at h ⊢

/-- One verdict of the evaluator counted (R111). -/
theorem VerdictCounts.add_one_eq (k : VerdictCounts) {v : Verdict}
    (h : v = .unmeasured ∨ v = .pass ∨ v.isDefect = true) : k.add 1 v = { k with
      pass := k.pass + (if v = .pass then 1 else 0)
      bridge := k.bridge + (if v = .bridge then 1 else 0)
      openJoint := k.openJoint + (if v = .openJoint then 1 else 0)
      low := k.low + (if v = .low then 1 else 0)
      high := k.high + (if v = .high then 1 else 0)
      shift := k.shift + (if v = .shift then 1 else 0)
      unmeasured := k.unmeasured + (if v = .unmeasured then 1 else 0) } := by
  cases v <;> simp [VerdictCounts.add, Verdict.isDefect] at h ⊢

/-- The bits of a verdict of the evaluator, field by field (R112). -/
theorem Context.setBits_eq (x : Context) (placement site component : Nat) {v : Verdict}
    (h : v = .unmeasured ∨ v = .pass ∨ v.isDefect = true) :
    x.setBits placement site component v = { x with
      failBits := if v.isDefect then setInsert site x.failBits else x.failBits
      componentBits := if v.isDefect then setInsert (placement * 4096 + component) x.componentBits
        else x.componentBits
      defective := if v.isDefect = true ∧ placement * 4096 + component ∉ x.componentBits then x.defective + 1
        else x.defective
      passBits := if v = .pass then setInsert site x.passBits else x.passBits } := by
  unfold Context.setBits
  rcases h with rfl | rfl | hdefect
  · rfl
  · rfl
  · have hpass : v ≠ .pass := by rintro rfl; cases hdefect
    rw [if_pos hdefect, if_pos hdefect, if_pos hdefect, if_neg hpass]
    by_cases hpart : placement * 4096 + component ∈ x.componentBits
    · simp [hpart]
    · simp [hpart, hdefect]

/-! ### The drift feed (R107, R120, R139, R140) -/

section
variable {s : State} {e : EvalEntry} {r : EvalResult}

/-- A kept result with no volume feeds no drift value. -/
theorem State.feedResult_none (h : r.volPct = none) : s.feedResult e r = s := by
  simp only [State.feedResult, h]

/-- A kept result with a volume feeds the drift value of its class. -/
theorem State.feedResult_some {n : Nat} (h : r.volPct = some n) (hmeasured : r.verdict ≠ .unmeasured) :
    s.feedResult e r = s.feedDrift (s.ctx e.ctx).slot e.cls n := by
  simp only [State.feedResult, h, if_neg hmeasured]

/-- A feed of a class that the program does not have changes nothing. -/
theorem State.feedDrift_none {k : SlotId} {cls n : Nat} (h : (s.slots.get k).classes[cls]? = none) :
    s.feedDrift k cls n = s := by
  simp only [State.feedDrift, h]

/-- A feed of a class of the program: the value after it, and the notice of a band left (R139, R140). -/
theorem State.feedDrift_some {k : SlotId} {cls n : Nat} {cl : ClassRecord}
    (h : (s.slots.get k).classes[cls]? = some cl) :
    s.feedDrift k cls n =
      (let before := s.monitor.driftOf k cls
       let after := driftFed before cl.driftLow cl.driftHigh n
       let kept : State := { s with monitor := { s.monitor with
         drift := mapPut (driftKey k cls) after s.monitor.drift } }
       if after.band = bandOf before then kept
       else { kept with link := s.link.raise (.drift k cls (bandOf before) after.band (some after.e)) }) := by
  simp only [State.feedDrift, h]
  rfl

end

/-! ### The completion (R107, R108) -/

section
variable {s : State}

/-- A kept result: the context written and its bits set, the accumulator freed, and then the drift feed, the
defect record and the report (R107). -/
theorem State.keepResult_eq {e : EvalEntry} {r : EvalResult} {t : Site} {y : Context}
    (hsite : (s.slotOf e.ctx).sites[e.site]? = some t)
    (hy : ((s.ctx e.ctx).write e.joint ⟨r.verdict, r.cause, r.flags⟩).setBits e.placement e.site t.component
      r.verdict = y) :
    s.keepResult e r = (((({ s with
      flow := { s.flow with ctxs := s.flow.ctxs.set e.ctx y }
      engine := s.engine.freeAcc e.acc } : State).feedResult e r).logResult e r).reportComplete
        e.ctx).modEvaluator (fun v => { v with evaluations := bump v.evaluations 1 }) := by
  let w : State := (s.modCtx e.ctx (fun x => x.write e.joint ⟨r.verdict, r.cause, r.flags⟩)).modEngine
    (Engine.freeAcc e.acc)
  have hctx : w.ctx e.ctx = (s.ctx e.ctx).write e.joint ⟨r.verdict, r.cause, r.flags⟩ := Pair.get_set_self _ _ _
  have hcomponent : s.componentOf e.ctx e.site = t.component := by
    simp only [State.componentOf, hsite]
  have hwritten : w.modCtx e.ctx (fun x => x.setBits e.placement e.site (s.componentOf e.ctx e.site) r.verdict) =
      { s with
        flow := { s.flow with ctxs := s.flow.ctxs.set e.ctx y }
        engine := s.engine.freeAcc e.acc } := by
    refine (State.modCtx_eq (x := y) (by rw [hctx, hcomponent, hy])).trans ?_
    exact congrArg (fun q => ({ s with
      flow := { s.flow with ctxs := q }, engine := s.engine.freeAcc e.acc } : State)) (Pair.set_set _ _ _ _)
  exact congrArg (fun u : State => (((u.feedResult e r).logResult e r).reportComplete e.ctx).modEvaluator
    (fun v => { v with evaluations := bump v.evaluations 1 })) hwritten

/-- The completion of an evaluation whose result is kept (R107). -/
theorem execEvaluationComplete_kept {v : Evaluation} {a : Accumulator} (hcurrent : s.evaluator.current = some v)
    (hkept : v.discard = false) (hpool : mapGet v.entry.acc s.engine.pool = some a) :
    exec .evaluationComplete s = .next (((s.modEvaluator (fun v => { v with current := none })).keepResult v.entry
      (evaluate v.entry v.cls v.pitch a)).takeEntry).pump := by
  simp only [exec, execEvaluationComplete, hcurrent, State.completeEvaluation, hkept, hpool, Bool.false_eq_true,
    if_false]

end

/-! ### The statement -/

/-- Settles O58: a kept and a discarded result, the report of the last write, and the sets of indices. -/
theorem evaluationCompletes : Obligations.EvaluationCompletes := by
  unfold Obligations.EvaluationCompletes
  refine ⟨?_, ?_, ?_, ?_, fun m n l => mem_setInsert⟩
  · intro s hidle
    simp only [exec, execEvaluationComplete, hidle]
  · intro s v hcurrent hdiscard
    simp only [exec, execEvaluationComplete, hcurrent, State.completeEvaluation, hdiscard, if_true]
    rfl
  · intro s v a t hcurrent hkept hpool hentry hsite e x k r defect part y written fed logged told
    have hexec := execEvaluationComplete_kept hcurrent hkept hpool
    have hjudged : (r.verdict = .unmeasured ∧ r.volPct = none) ∨ r.verdict = .pass ∨ r.verdict.isDefect = true :=
      evaluate_judged _ _ _ _
    change exec .evaluationComplete s = .next (((s.modEvaluator (fun v => { v with current := none })).keepResult e
      r).takeEntry).pump at hexec
    clear_value r
    have hverdict : r.verdict = .unmeasured ∨ r.verdict = .pass ∨ r.verdict.isDefect = true :=
      hjudged.imp_left And.left
    have hdefect : r.verdict.isDefect = true ↔ defect := Verdict.isDefect_iff hverdict
    have hy : (x.write e.joint ⟨r.verdict, r.cause, r.flags⟩).setBits e.placement e.site t.component r.verdict
        = y := by
      rw [Context.write_unset x _ _ hentry, Context.setBits_eq _ _ _ _ hverdict,
        VerdictCounts.add_one_eq _ hverdict]
      simp only [hdefect]
      rfl
    have hkeep := State.keepResult_eq (s := s.modEvaluator (fun v => { v with current := none })) hsite hy
    have hctx : written.ctx e.ctx = y := Pair.get_set_self _ _ _
    have hfed : written.feedResult e r = fed := by
      dsimp only [fed]
      rcases hvolume : r.volPct with _ | n
      · exact State.feedResult_none hvolume
      · have hmeasured : r.verdict ≠ .unmeasured := by
          intro hun
          rcases hjudged with ⟨_, hnone⟩ | hpass | hbad
          · rw [hnone] at hvolume; cases hvolume
          · rw [hpass] at hun; cases hun
          · rw [hun] at hbad; cases hbad
        have hslot : (written.ctx e.ctx).slot = k := by rw [hctx]
        rw [State.feedResult_some hvolume hmeasured, hslot]
        rcases hclass : (s.slots.get k).classes[e.cls]? with _ | cl
        · exact State.feedDrift_none (s := written) hclass
        · exact State.feedDrift_some (s := written) hclass
    have hseq : (fed.ctx e.ctx).seq = x.seq := by
      have hflow : fed.flow = written.flow := hfed ▸ State.feedResult_flow _ _ _
      show (fed.flow.ctxs.get e.ctx).seq = x.seq
      rw [hflow]
      exact (congrArg Context.seq hctx).trans rfl
    have hlogged : fed.logResult e r = logged := by
      dsimp only [State.logResult, EvalEntry.defectRecord]
      simp only [hdefect, hseq]
      rfl
    refine hexec.trans (congrArg (fun u : State => (.next u.takeEntry.pump : Result)) (hkeep.trans ?_))
    have hhanded : (written.feedResult e r).logResult e r = logged := by rw [hfed, hlogged]
    exact congrArg (fun u : State => (u.reportComplete e.ctx).modEvaluator
      (fun v => { v with evaluations := bump v.evaluations 1 })) hhanded
  · intro s c last
    refine ⟨fun hlast hjudging => ?_, fun hlast hother => ?_, fun hnot => if_neg hnot⟩
    · exact (if_pos hlast).trans (if_pos hjudging)
    · exact (if_pos hlast).trans (if_neg hother)

end Sys2Proof.Machine
end

section
/-! Proofs. Process monitoring: drift bands, repeat requests and site updates, and the oven recognizer (R139,
R140, R144, R145, R148, R149). -/

namespace Sys2Proof.Machine

open Sys2Proof

/-! ### Drift values (R139, R140) -/

/-- The band after a feed, by the band before it (R140). -/
theorem driftFed_band {before : Option DriftValue} {low high x : Nat} {b : Band} (h : bandOf before = b) :
    (driftFed before low high x).band = bandAfter b low high (driftFed before low high x).e := by
  subst h
  rfl

/-! ### Repeat requests and site updates (R144, R145) -/

/-- The keys of two counters are the same only for the same slot and site. -/
theorem repeatKey_eq_iff {j k : SlotId} {i n : Nat} (hi : i < 8192) (hn : n < 8192) :
    repeatKey j i = repeatKey k n ↔ j = k ∧ i = n := by
  unfold repeatKey
  rw [Fin.ext_iff]
  omega

/-- A counter after one counter has been set (R143, R145). -/
theorem Monitor.repeatOf_setRepeat (m : Monitor) {j k : SlotId} {i n : Nat} (v : Nat) (hi : i < 8192)
    (hn : n < 8192) :
    (m.setRepeat k n v).repeatOf j i = if j = k ∧ i = n then v else m.repeatOf j i := by
  unfold Monitor.repeatOf Monitor.setRepeat
  by_cases hv : v = 0
  · by_cases hkey : j = k ∧ i = n
    · obtain ⟨rfl, rfl⟩ := hkey
      simp [hv, mapGet_mapDel_self]
    · have hne := (repeatKey_eq_iff hi hn).not.mpr hkey
      simp only [hv, if_true, if_neg hkey, mapGet_mapDel_ne _ hne]
  · by_cases hkey : j = k ∧ i = n
    · obtain ⟨rfl, rfl⟩ := hkey
      simp [hv, mapGet_mapPut_self]
    · have hne := (repeatKey_eq_iff hi hn).not.mpr hkey
      simp only [if_neg hv, if_neg hkey, mapGet_mapPut_ne _ _ hne]

/-- With no request running, the head of the list begins (R145, R146). -/
theorem Monitor.beginNext_eq {m : Monitor} (h : m.work = none) : m.beginNext = { m with
    work := m.requests.head?.map (fun r => ⟨r, 0⟩)
    requests := m.requests.tail } := by
  unfold Monitor.beginNext
  rcases hlist : m.requests with _ | ⟨r, rest⟩
  · rw [h]
    exact congrArg₂ (fun work requests => ({ m with work := work, requests := requests } : Monitor)) h hlist
  · rw [h]
    rfl

/-- What becomes of a running request once one of its sites has been worked (R145). -/
def Monitor.advance (m : Monitor) (w : RepeatWork) : Monitor :=
  { m with
    work := if w.next + 1 < w.request.sites then some ⟨w.request, w.next + 1⟩
      else m.requests.head?.map (fun r => ⟨r, 0⟩)
    requests := if w.next + 1 < w.request.sites then m.requests else m.requests.tail
    updates := if w.next + 1 < w.request.sites then m.updates else bump m.updates 1 }

theorem Monitor.advance_eq (m : Monitor) (w : RepeatWork) :
    (if w.request.sites ≤ w.next + 1 then Monitor.beginNext { m with work := none, updates := bump m.updates 1 }
      else { m with work := some ⟨w.request, w.next + 1⟩ }) = m.advance w := by
  unfold Monitor.advance
  by_cases hlast : w.request.sites ≤ w.next + 1
  · have hnot : ¬ w.next + 1 < w.request.sites := by omega
    rw [if_pos hlast, if_neg hnot, if_neg hnot, if_neg hnot, Monitor.beginNext_eq rfl]
  · have hmore : w.next + 1 < w.request.sites := by omega
    rw [if_neg hlast, if_pos hmore, if_pos hmore, if_pos hmore]

section
variable {s : State} {w : RepeatWork}

/-- The work of one site: its counter set, the notice at the limit, and the request advanced (R145). -/
theorem State.repeatSite_eq (hwork : s.monitor.work = some w) :
    s.repeatSite =
      (let before := s.monitor.repeatOf w.request.slot w.next
       let after := repeatAfter (decide (w.next ∈ w.request.failBits)) (decide (w.next ∈ w.request.passBits)) before
       { s with
         link := if w.request.limit ≠ 0 ∧ before + 1 = w.request.limit ∧ after = w.request.limit
           then s.link.raise (.repeatSite w.request.slot w.next after w.request.seq) else s.link
         monitor := (s.monitor.setRepeat w.request.slot w.next after).advance w }) := by
  simp only [State.repeatSite, hwork, ← Monitor.advance_eq]
  split <;> rfl

end

/-! ### The oven recognizer (R148, R149) -/

/-- The candidate and the run after a sample (R148). -/
theorem Monitor.sampled_eq (m : Monitor) (code : BitVec 4) : m.sampled code = { m with
    candidate := some code
    runLength := if 0 < m.runLength ∧ m.candidate = some code then min (m.runLength + 1) 4 else 1 } := by
  unfold Monitor.sampled
  split
  · rename_i hrun
    exact congrArg (fun c => ({ m with candidate := c, runLength := min (m.runLength + 1) 4 } : Monitor)) hrun.2
  · rfl

/-- The change buffer keeps the first and the latest change (R149, step 3). -/
theorem Monitor.addChange_eq (m : Monitor) (code : BitVec 4) (time : Nat) : m.addChange code time = { m with
    changes := match m.changes with
      | first :: _ :: _ => [first, (code, time)]
      | l => l ++ [(code, time)]
    overwrites := match m.changes with
      | _ :: _ :: _ => min (m.overwrites + 1) 65535
      | _ => m.overwrites } := by
  unfold Monitor.addChange
  rcases m.changes with _ | ⟨_, _ | ⟨_, _⟩⟩ <;> rfl

/-- A code is deviating when a configuration in force names it (R149). -/
theorem Flow.deviating_iff (w : Flow) (code : BitVec 4) :
    w.deviating code = true ↔ ∃ f, w.config = some f ∧ f.deviating.getLsbD code.toNat = true := by
  unfold Flow.deviating
  cases w.config <;> simp

section
variable {s : State} {code : BitVec 4}

/-- The state after a sample, before any recognition (R148). -/
def State.sampled (s : State) (code : BitVec 4) : State :=
  { s with now := s.now + 1, pins := { s.pins with oven := code }, monitor := s.monitor.sampled code }

/-- A sample that completes no run, or a run of the recognized code, recognizes nothing (R148). -/
theorem State.sampleOven_of_not (h : (s.monitor.sampled code).runLength ≠ 4 ∨ code = s.monitor.recognized) :
    s.sampleOven code = s.sampled code := by
  refine if_neg ?_
  rintro ⟨hrun, hnew⟩
  rw [Monitor.sampled_eq] at hnew
  exact h.elim (fun h => h hrun) (fun h => hnew h)

/-- The fourth sample of a run of another code recognizes it (R149). -/
theorem State.sampleOven_of_run (hrun : (s.monitor.sampled code).runLength = 4)
    (hnew : code ≠ s.monitor.recognized) : s.sampleOven code = (s.sampled code).recognize code := by
  refine if_pos ⟨hrun, ?_⟩
  rw [Monitor.sampled_eq]
  exact hnew

/-- The samples still wanted are one fewer after each sample (R148). -/
theorem Monitor.sampled_of_wanted {m : Monitor} {n : Nat} (h : m.samplesWanted code = n + 1) :
    (m.sampled code).runLength = 4 - n ∧ n < 4 := by
  unfold Monitor.samplesWanted at h
  rw [Monitor.sampled_eq]
  dsimp only
  split at h
  · rename_i hcandidate
    by_cases hrun : 0 < m.runLength
    · rw [if_pos ⟨hrun, hcandidate⟩]
      omega
    · rw [if_neg (fun h => hrun h.1)]
      omega
  · rename_i hcandidate
    rw [if_neg (fun h => hcandidate h.2)]
    omega

/-- While more than one sample is wanted, a sample recognizes nothing and leaves one fewer wanted. -/
theorem State.sampleOven_of_wanted {n : Nat} (h : s.monitor.samplesWanted code = n + 2) :
    s.sampleOven code = s.sampled code ∧ (s.sampled code).monitor.samplesWanted code = n + 1 := by
  obtain ⟨hrun, hn⟩ := Monitor.sampled_of_wanted (n := n + 1) h
  refine ⟨State.sampleOven_of_not (.inl (by omega)), ?_⟩
  have hcandidate : (s.monitor.sampled code).candidate = some code := by rw [Monitor.sampled_eq]
  show (s.monitor.sampled code).samplesWanted code = n + 1
  unfold Monitor.samplesWanted
  rw [if_pos hcandidate, hrun]
  omega

/-- The sample that completes a run leaves its code recognized. -/
theorem State.sampleOven_recognized (h : s.monitor.samplesWanted code = 1) :
    (s.sampleOven code).monitor.recognized = code := by
  obtain ⟨hrun, _⟩ := Monitor.sampled_of_wanted (n := 0) h
  by_cases hnew : code = s.monitor.recognized
  · rw [State.sampleOven_of_not (.inr hnew), State.sampled, Monitor.sampled_eq]
    exact hnew.symm
  · rw [State.sampleOven_of_run hrun hnew]
    show (Monitor.addChange _ code _).recognized = code
    rw [Monitor.addChange_eq]

/-- The samples of a run of four, one after another, leave its code recognized (R149). -/
theorem State.sampleRun_recognized {n : Nat} (h : s.monitor.samplesWanted code = n + 1) :
    (s.sampleRun code (n + 1)).monitor.recognized = code := by
  induction n generalizing s with
  | zero => exact State.sampleOven_recognized h
  | succ n ih =>
    obtain ⟨hsample, hwanted⟩ := State.sampleOven_of_wanted h
    show ((s.sampleOven code).sampleRun code (n + 1)).monitor.recognized = code
    rw [hsample]
    exact ih hwanted

/-- An OVEN_SAMPLE that leaves DOWNSTREAM_READY as it is is the sample alone (R148). -/
theorem execOvenSample_ready : exec (.ovenSample code true) s = .next (s.sampleOven code).pump := by
  have hpins : (s.sampleOven code).modPins (fun p => { p with downstreamReady := p.downstreamReady && true }) =
      s.sampleOven code := by
    simp only [State.modPins, Bool.and_true]
  exact congrArg (fun u : State => (.next u.pump : Result)) hpins

/-- A sample does not look at the commands that wait. -/
theorem State.sampleOven_setPending (q : List Instr) :
    ({ s with pending := q } : State).sampleOven code = { s.sampleOven code with pending := q } := by
  unfold State.sampleOven
  dsimp only
  split <;> rfl

/-- A run of samples as commands of the queue is the run of samples in one event (R149; assumption
log 10). -/
theorem stepMany_samples {n : Nat} (hsettled : s.link.Settled) (h : s.monitor.samplesWanted code = n) :
    stepMany n { s with pending := List.replicate n (.ovenSample code true) ++ s.pending } =
      .next (s.sampleRun code n).pump := by
  induction n generalizing s with
  | zero => exact congrArg Host.Outcome.next (State.pump_settled hsettled).symm
  | succ n ih =>
    let rest := List.replicate n (.ovenSample code true) ++ s.pending
    have hstep : step { s with pending := List.replicate (n + 1) (.ovenSample code true) ++ s.pending } =
        .next ({ s.sampleOven code with pending := rest } : State).pump := by
      show exec (.ovenSample code true) { s with pending := rest } = _
      rw [execOvenSample_ready, State.sampleOven_setPending]
    rw [stepMany, hstep]
    cases n with
    | zero =>
      have hpending : ({ s.sampleOven code with pending := s.pending } : State) = s.sampleOven code := by
        rw [← s.sampleOven_pending code]
      exact congrArg (fun u : State => (.next u.pump : Result)) hpending
    | succ n =>
      obtain ⟨hsample, hwanted⟩ := State.sampleOven_of_wanted h
      rw [hsample, State.pump_settled (s := { s.sampled code with pending := rest }) hsettled]
      have hrun : s.sampleRun code (n + 2) = (s.sampled code).sampleRun code (n + 1) :=
        congrArg (fun u : State => u.sampleRun code (n + 1)) hsample
      exact (ih (s := s.sampled code) hsettled hwanted).trans (by rw [hrun])

/-- A recognition: the code, the hold of a deviating one, the change recorded, and its notice (R149). -/
theorem State.recognize_eq {dev : Bool} {hold : Nat} (hdev : s.flow.deviating code = dev)
    (hkeep : dev = false → hold = s.monitor.hold)
    (hset : ∀ f, dev = true → s.flow.config = some f → hold = f.ovenHold) :
    s.recognize code = { s with
      monitor := Monitor.addChange { s.monitor with
        recognized := code, hold := hold, recognitions := bump s.monitor.recognitions 1 } code s.now
      link := s.link.raise (.ovenCode code s.monitor.recognized s.now dev hold) } := by
  subst hdev
  have hhold : (match s.flow.config with
      | some c => if s.flow.deviating code = true then c.ovenHold else s.monitor.hold
      | none => s.monitor.hold) = hold := by
    by_cases hdev : s.flow.deviating code = true
    · obtain ⟨f, hconfig, _⟩ := (s.flow.deviating_iff code).mp hdev
      rw [hset f hdev hconfig, hconfig]
      exact if_pos hdev
    · rw [hkeep (Bool.eq_false_iff.mpr hdev)]
      cases s.flow.config with
      | none => rfl
      | some c => exact if_neg hdev
  subst hhold
  rfl

end

/-! ### The statement -/

/-- Settles O59: drift, repeat requests, site updates, and the oven sampler and recognizer. -/
theorem processIsMonitored : Obligations.ProcessIsMonitored := by
  unfold Obligations.ProcessIsMonitored
  refine ⟨?_, ?_, ?_, ?_, ?_, ?_⟩
  · intro before low high x b lo hi
    refine ⟨?_, ?_, fun h => driftFed_band h, fun h => driftFed_band h, fun h => driftFed_band h⟩
    · rintro rfl; rfl
    · rintro d rfl; rfl
  · intro m r
    refine ⟨fun h => ?_, fun h hroom => ?_, fun h hfull => ?_⟩
    · exact if_pos (by rw [h]; rfl)
    · exact (if_neg (by simpa using h)).trans (if_pos hroom)
    · exact (if_neg (by simpa using h)).trans (if_neg (Nat.not_lt.mpr hfull))
  · intro s w hwork hnext q before after
    have hafter : repeatAfter (decide (w.next ∈ q.failBits)) (decide (w.next ∈ q.passBits)) before = after := by
      simp only [repeatAfter, decide_eq_true_eq]
      rfl
    refine ⟨(s.monitor.setRepeat q.slot w.next after).repeats, ?_, ?_⟩
    · intro j i hi
      exact s.monitor.repeatOf_setRepeat after hi hnext
    · refine congrArg (fun u : State => (.next u.pump : Result)) ((State.repeatSite_eq hwork).trans ?_)
      dsimp only
      rw [hafter]
      rfl
  · intro s hsettled hidle
    have hsame : s.repeatSite = s := by simp only [State.repeatSite, hidle]
    simp only [exec, execRepeatSiteUpdate, hsame, State.pump_settled hsettled]
  · intro s code ready run sampled
    let u : State := { s with
      now := s.now + 1
      pins := { s.pins with oven := code }
      monitor := { s.monitor with candidate := some code, runLength := run } }
    let passes (v : State) : Result :=
      .next (v.modPins (fun p => { p with downstreamReady := p.downstreamReady && ready })).pump
    have hexec : exec (.ovenSample code ready) s = passes (s.sampleOven code) := rfl
    have hmonitor := s.monitor.sampled_eq code
    have hu : s.sampled code = u :=
      congrArg (fun m => ({ s with now := s.now + 1, pins := { s.pins with oven := code }, monitor := m } : State))
        hmonitor
    have hlength : (s.monitor.sampled code).runLength = run := by rw [hmonitor]
    refine ⟨fun h => ?_, fun hrun hnew dev hold hdev hkeep hset => ?_⟩
    · exact congrArg passes ((State.sampleOven_of_not (by rw [hlength]; exact h)).trans hu)
    · have hdeviating : u.flow.deviating code = dev :=
        Bool.eq_iff_iff.mpr ((u.flow.deviating_iff code).trans hdev.symm)
      rw [hexec, State.sampleOven_of_run (hlength.trans hrun) hnew, hu,
        State.recognize_eq hdeviating hkeep hset, Monitor.addChange_eq]
      rfl
  · intro s code hsettled n
    have hn : s.monitor.samplesWanted code = n := rfl
    have hexec : exec (.ovenRecognition code) s = .next (s.sampleRun code n).pump := rfl
    refine ⟨hexec.trans (stepMany_samples hsettled hn).symm, fun hshort => ⟨_, hexec, ?_⟩⟩
    obtain ⟨k, hk⟩ : ∃ k, n = k + 1 := by
      refine Nat.exists_eq_add_one.mpr ?_
      dsimp only [n]
      split
      · exact Nat.sub_pos_of_lt (hshort ‹_›)
      · decide
    rw [State.pump_monitor, hk]
    exact State.sampleRun_recognized (hn.trans hk)

end Sys2Proof.Machine
end
